-- ==== Sys2Proof/Word.lean ====
section
/-! DEFINITION. The word types, sparse maps with a canonical form, and the splitting of an encoded word into fields. -/

namespace Sys2Proof

/-- A byte of memory, of a scratchpad or of a command. -/
abbrev Byte := BitVec 8
/-- The contents of an x register (R123). -/
abbrev Word := BitVec 64

/-- A sparse map: what is not listed holds the default its reader names. -/
abbrev Map (α : Type) := List (Nat × α)

namespace Map

/-- The value at a key, or the default. -/
def get {α : Type} (d : α) : Map α → Nat → α
  | [], _ => d
  | (k', v) :: t, k => if k' = k then v else get d t k

/-- The value at a key, if one is listed. -/
def find {α : Type} : Map α → Nat → Option α
  | [], _ => none
  | (k', v) :: t, k => if k' = k then some v else find t k

/-- Lists a value at its place in the order of keys. -/
def put {α : Type} : Map α → Nat → α → Map α
  | [], k, v => [(k, v)]
  | (k', v') :: t, k, v =>
    if k' = k then (k, v) :: t
    else if k < k' then (k, v) :: (k', v') :: t
    else (k', v') :: put t k v

/-- Removes every entry of a key. -/
def del {α : Type} (m : Map α) (k : Nat) : Map α := m.filter (fun e => e.1 != k)

/-- A write that keeps the canonical form: the default value is never listed. -/
def set {α : Type} [DecidableEq α] (d : α) (m : Map α) (k : Nat) (v : α) : Map α :=
  if v = d then del m k else put m k v

/-- Keys strictly rising. -/
def sorted {α : Type} : Map α → Bool
  | [] => true
  | [_] => true
  | a :: b :: t => decide (a.1 < b.1) && sorted (b :: t)

/-- The canonical form: keys strictly rising, no entry equal to the default. -/
def wf {α : Type} [DecidableEq α] (d : α) (m : Map α) : Bool :=
  sorted m && m.all (fun e => decide (e.2 ≠ d))

/-- Replaces the value at a key by a function of it. -/
def upd {α : Type} (d : α) (m : Map α) (k : Nat) (f : α → α) : Map α := put m k (f (get d m k))

end Map

/-- Splits a number into fields of the given widths, the lowest field first. -/
def splitFields : List Nat → Nat → List Nat
  | [], _ => []
  | w :: ws, n => n % 2 ^ w :: splitFields ws (n / 2 ^ w)

/-- Joins fields of the given widths, the lowest first: the other direction of `splitFields`. -/
def joinFields : List Nat → List Nat → Nat
  | w :: ws, v :: vs => v % 2 ^ w + 2 ^ w * joinFields ws vs
  | _, _ => 0

/-- Bits `hi` down to `lo` of a number (R3). -/
def bitsOf (n hi lo : Nat) : Nat := (n / 2 ^ lo) % 2 ^ (hi + 1 - lo)

/-- The number of bytes, least significant first (R3). -/
def leOf : List Byte → Nat
  | [] => 0
  | b :: t => b.toNat + 256 * leOf t

/-- The `n` low bytes of a number, least significant first (R3). -/
def leBytes : Nat → Nat → List Byte
  | 0, _ => []
  | n + 1, v => BitVec.ofNat 8 (v % 256) :: leBytes n (v / 256)

/-- Ceiling division. -/
def ceilDiv (a b : Nat) : Nat := (a + b - 1) / b

/-- The value read as a signed number of `b` bits (R79, `sx`). -/
def signed (v b : Nat) : Int :=
  let m := v % 2 ^ b
  if m < 2 ^ (b - 1) then (m : Int) else (m : Int) - (2 ^ b : Nat)

/-- The low `b` bits of an integer's two's-complement form (R11). -/
def wrapNat (v : Int) (b : Nat) : Nat := (v % ((2 ^ b : Nat) : Int)).toNat

end Sys2Proof
end

