-- ==== Sys2Proof/Syntax.lean ====
section
/-! DEFINITION. The instructions and the steps of the part: one constructor of `Instr` for each row of the opcode table,
with the operands of its encoding (words and commands) or the data that the step carries (events). -/

namespace Sys2Proof

/-- The four sequencers of a core (R14, R123). -/
inductive Stream where
  | c | l | e | s
deriving DecidableEq, Repr

/-- The element types, in the order of their TY codes (R75, R80). -/
inductive Ty where
  | s4 | s8 | s16 | s32 | s64 | z4 | z8 | z16 | z32 | z64 | h | bf | f | qa4 | qa8
deriving DecidableEq, Repr

/-- The rounding modes, in the order of their codes (R89). -/
inductive RMode where
  | rne | rtz | rup | rdn | rna
deriving DecidableEq, Repr

/-- The directions of a wide operand (R66). -/
inductive Dir where
  | r | c | d | a
deriving DecidableEq, Repr

/-- The number of an x register (R59). -/
abbrev XReg := BitVec 4
/-- The number of a mask register (R63). -/
abbrev MReg := BitVec 3

/-- FIRST and LAST as encoded: 0 no condition, n the first or last iteration of level n - 1 (R59). -/
structure Guard where
  first : BitVec 3
  last : BitVec 3
deriving DecidableEq, Repr

/-- A wide operand field with its RB bit (R32, R64). ROW 1016 to 1023 name queues (R61). -/
structure WOp where
  row : BitVec 10
  slc : BitVec 7
  wid : BitVec 2
  dir : Dir
  str : BitVec 3
  rb : Bool
deriving DecidableEq, Repr

/-- What every 96-bit word carries beside its operands: guard, lane mask, element type (R62). -/
structure VCtl where
  g : Guard
  pred : MReg
  ty : Ty
deriving DecidableEq, Repr

/-- An ACS address field (R175). -/
structure AcsAddr where
  tile : BitVec 4
  row : BitVec 7
  cg : BitVec 3
  xr : XReg
deriving DecidableEq, Repr

/-- A scratchpad address field of wspill and wfill (R178). -/
structure SpAddr where
  bank : BitVec 5
  off : BitVec 15
  xs : XReg
deriving DecidableEq, Repr

/-- The W start of wspill and wfill (R178). -/
structure WStart where
  row : BitVec 10
  slc : BitVec 7
  rb : Bool
deriving DecidableEq, Repr

/-- The address of a scale table: bank and byte offset (R73, R86). -/
structure SpTab where
  bank : BitVec 5
  off : BitVec 15
deriving DecidableEq, Repr

/-- A rectangle of scratchpad rows: bank, first row, row step (R74). -/
structure SpRows where
  bank : BitVec 5
  row : BitVec 8
  step : BitVec 8
deriving DecidableEq, Repr

/-- The A source of a tile step (R74). -/
inductive ASrc where
  | sp (rows : SpRows)
  | w (op : WOp)
deriving DecidableEq, Repr

/-- The fields of the tile step (R73, R193). -/
structure Mma where
  g : Guard
  ty : Ty
  act : BitVec 4
  acc : Bool
  mm1 : BitVec 7
  a : ASrc
  bbuf : Bool
  bld : Bool
  brow : BitVec 11
  btr : Bool
  gen : BitVec 3
  tri : Bool
  tdiag : BitVec 8
  tfill : BitVec 16
  grow : BitVec 10
  gsz : BitVec 2
  zpa : Bool
  zpb : Bool
  sca : SpTab
  scb : SpTab
deriving DecidableEq, Repr

/-- A unit that a correctable error freezes (R239). -/
inductive FreezeUnit where
  | core (k : Nat) | mxa (cl : Nat) | cpe (cl : Nat)
deriving DecidableEq, Repr

/-- Where an uncorrectable error lies (R320): a slice of a W file, a bit of a mask (128·m + bit), an entry of q0 to q7 (QN 0 to 7)
or of y0 to y3 (QN 8 to 11) counted from its head, a line of a scratchpad, an element of an ACS, a byte of a latch, a line of a B-store, a line of memory as a basin holds
it or as its tier-2 device reports it, a version by its line and its place in the line's chain. -/
inductive ErrSite where
  | w (core : Nat) (bankB : Bool) (slice : Nat)
  | mask (core : Nat) (bankB : Bool) (bit : Nat)
  | queue (core : Nat) (bankB : Bool) (qn entry : Nat)
  | scratch (core line : Nat)
  | acs (cl elem : Nat)
  | latch (core : Nat) (bankB : Bool) (buf : Bool) (byte : Nat)
  | bstore (cl line : Nat)
  | basin (cl line : Nat) (dirty : Bool)
  | tier2 (line : Nat)
  | version (line idx : Nat)
deriving DecidableEq, Repr

/-- What a patrol scrub's read of a line finds (R320, R321). -/
inductive ScrubFinding where
  | clean | corrected | uncorrectable
deriving DecidableEq, Repr

/-- A write of the host over its link (R365): bytes at physical addresses, or frames it puts on a list of a polder (R309, R312). -/
inductive HostWrite where
  | bytes (pa : Nat) (data : List Byte)
  | frames (polder : Nat) (tier2 : Bool) (list : List Nat)
deriving DecidableEq, Repr

/-- What the loader is given of a linked image (R42 to R53): the bytes of its file, and the device virtual address at which the host
runtime maps each section that it maps, by section index (R47, R48). -/
structure ImageFile where
  file : List Byte
  maps : List (Nat × Nat)
deriving DecidableEq, Repr

/-- An image of the package (R24): its bytes, which state its rollback counter and what it configures or loads, and their
signature. -/
structure SignedImage where
  file : List Byte
  signature : List Byte
deriving DecidableEq, Repr

/-- What package reset finds in the flash (R24): the configuration image, and the firmware images that are loaded with it. -/
structure ConfigImage where
  config : SignedImage
  firmware : List SignedImage := []
deriving DecidableEq, Repr

/-- A data or signal flit as it arrives at a dike-link port (R328): the polder under whose tables it is translated is the
port's; `cmd` names the sending command, whose versions it makes, and `last` says that it is the command's last flit (R121). -/
structure Flit where
  addr : Nat
  data : List Byte
  mask : Nat
  seq : Nat
  cmd : Nat
  last : Bool
  /-- its CRC fails (R328) -/
  bad : Bool := false
deriving DecidableEq, Repr

/-- The two kinds of served resources with start tags (R350): a DRAM controller or the fabric. -/
inductive Server where
  | dram (ctrl : Nat) | fabric
deriving DecidableEq, Repr

/-- A line that arrives at a server as a unit: its owner, and whether it is written (R335, R339). -/
structure LineUnit where
  owner : Nat
  write : Bool := false
deriving DecidableEq, Repr

/-- The instructions: one constructor for each row of spec/opcode_table.json. -/
inductive Instr where
  -- alu, R129
  | add (g : Guard) (xd xa xb : XReg)
  | sub (g : Guard) (xd xa xb : XReg)
  | and (g : Guard) (xd xa xb : XReg)
  | or (g : Guard) (xd xa xb : XReg)
  | xor (g : Guard) (xd xa xb : XReg)
  | shl (g : Guard) (xd xa xb : XReg)
  | shr (g : Guard) (xd xa xb : XReg)
  | sra (g : Guard) (xd xa xb : XReg)
  | slt (g : Guard) (xd xa xb : XReg)
  | sltu (g : Guard) (xd xa xb : XReg)
  | min (g : Guard) (xd xa xb : XReg)
  | max (g : Guard) (xd xa xb : XReg)
  | minu (g : Guard) (xd xa xb : XReg)
  | maxu (g : Guard) (xd xa xb : XReg)
  | mul (g : Guard) (xd xa xb : XReg)
  | mulh (g : Guard) (xd xa xb : XReg)
  | mulhu (g : Guard) (xd xa xb : XReg)
  | div (g : Guard) (xd xa xb : XReg)
  | divu (g : Guard) (xd xa xb : XReg)
  | rem (g : Guard) (xd xa xb : XReg)
  | remu (g : Guard) (xd xa xb : XReg)
  -- immediates, R130, R131
  | addi (xd xa : XReg) (imm : BitVec 16)
  | andi (xd xa : XReg) (imm : BitVec 16)
  | ori (xd xa : XReg) (imm : BitVec 16)
  | xori (xd xa : XReg) (imm : BitVec 16)
  | shli (xd xa : XReg) (sh : BitVec 6)
  | shri (xd xa : XReg) (sh : BitVec 6)
  | srai (xd xa : XReg) (sh : BitVec 6)
  | lui (xd : XReg) (imm : BitVec 20)
  -- bitf, R132
  | ext (g : Guard) (xd xa xb : XReg)
  | extu (g : Guard) (xd xa xb : XReg)
  | ins (g : Guard) (xd xa xb : XReg)
  | clz (g : Guard) (xd xa : XReg)
  | ctz (g : Guard) (xd xa : XReg)
  | popc (g : Guard) (xd xa : XReg)
  | rev8 (g : Guard) (xd xa : XReg)
  -- memory, R134
  | ld (ty : Ty) (xd xa xi : XReg) (imm : BitVec 8)
  | st (ty : Ty) (xd xa xi : XReg) (imm : BitVec 8)
  -- branches and jumps, R135, R136
  | beq (xa xb : XReg) (off : BitVec 12)
  | bne (xa xb : XReg) (off : BitVec 12)
  | blt (xa xb : XReg) (off : BitVec 12)
  | bge (xa xb : XReg) (off : BitVec 12)
  | bltu (xa xb : XReg) (off : BitVec 12)
  | bgeu (xa xb : XReg) (off : BitVec 12)
  | bwany (off : BitVec 12)
  | bwall (off : BitVec 12)
  | bwnone (off : BitVec 12)
  | bwcge (xa : XReg) (off : BitVec 12)
  | btk (off : BitVec 12)
  | bnt (off : BitVec 12)
  | bal (off : BitVec 12)
  | jal (xd : XReg) (off : BitVec 20)
  | jalr (xd xa : XReg) (imm : BitVec 16)
  -- loops, R138, R139
  | loopReg (lvl : BitVec 3) (len : BitVec 6) (xa xd : XReg)
  | loopImm (lvl : BitVec 3) (len cnt : BitVec 6) (xd : XReg)
  | lend (lvl : BitVec 3) (rot : BitVec 8) (brk : Bool) (qm : BitVec 3) (xa xv : XReg)
  -- tokens and branch queues, R147, R148
  | give (g : Guard) (qn cnt : BitVec 4)
  | take (g : Guard) (qn cnt : BitVec 4)
  | tcnt (g : Guard) (qn : BitVec 4) (xa : XReg)
  | tryt (g : Guard) (qn : BitVec 4) (xa : XReg) (cnt : BitVec 4)
  | bqput (g : Guard) (qn : BitVec 4) (xa : XReg)
  -- queue moves, R149
  | qld (g : Guard) (qn : BitVec 4) (xa : XReg) (cnt : BitVec 4)
  | qldi (g : Guard) (qn : BitVec 4) (xa : XReg) (cnt : BitVec 4)
  | qrow (g : Guard) (qn : BitVec 4) (xa : XReg) (cnt : BitVec 4)
  | qrowi (g : Guard) (qn : BitVec 4) (xa : XReg) (cnt : BitVec 4)
  | qst (g : Guard) (qn : BitVec 4) (xa : XReg) (cnt : BitVec 4)
  | qsti (g : Guard) (qn : BitVec 4) (xa : XReg) (cnt : BitVec 4)
  | qdrop (g : Guard) (qn cnt : BitVec 4)
  -- pushes, R150
  | push (g : Guard) (xd : XReg)
  | pushb (g : Guard) (xd : XReg)
  -- control registers, R151
  | csrr (xd : XReg) (csr : BitVec 12)
  | csrw (csr : BitVec 12) (xa : XReg)
  | csrs (csr : BitVec 12) (xa : XReg)
  | csrc (csr : BitVec 12) (xa : XReg)
  | csrx (xd : XReg) (csr : BitVec 12) (xa : XReg)
  -- system words, R152
  | nop
  | halt
  | stop
  | yield
  | abort
  | fence
  | tide (xd : XReg)
  | brk
  | rbset (xa : XReg) (imm : BitVec 10)
  | vrnd (mode : RMode)
  | reservedMajor (w : BitVec 32)
  -- rings and culverts, R301, R303
  | rinit (g : Guard) (xd xa : XReg)
  | rwaitf (g : Guard) (xd xa xb : XReg)
  | rwaite (g : Guard) (xd xa xb : XReg)
  | rclaim (g : Guard) (xd xa xb : XReg)
  | rpost (g : Guard) (xa xb : XReg)
  | rfree (g : Guard) (xa xb : XReg)
  | crecv (g : Guard) (xd xa : XReg) (c : BitVec 2)
  | ccnt (g : Guard) (xd : XReg) (c : BitVec 2)
  -- barriers, R298
  | binit (g : Guard) (xd xa xb : XReg)
  | binitf (g : Guard) (xd xa xb : XReg)
  | bkill (g : Guard) (xa : XReg)
  | barr (g : Guard) (xd xa : XReg)
  | bwait (g : Guard) (xd xa xb : XReg)
  -- sync objects, R295
  | sync (g : Guard) (xd xa : XReg)
  | acq (g : Guard) (xd xa : XReg)
  | rel (g : Guard) (xa : XReg)
  | sbind (g : Guard) (xa xb : XReg) (n : BitVec 2)
  -- transactions, R318
  | xbeg (g : Guard) (xd xa : XReg)
  | xend (g : Guard) (xd : XReg)
  | xabt (g : Guard)
  | xst (g : Guard) (xd : XReg)
  -- vector words, R161 to R182
  | vadd (c : VCtl) (d a b : WOp)
  | vsub (c : VCtl) (d a b : WOp)
  | vmul (c : VCtl) (d a b : WOp)
  | vfma (c : VCtl) (d a b : WOp)
  | vfms (c : VCtl) (d a b : WOp)
  | vfnma (c : VCtl) (d a b : WOp)
  | vmin (c : VCtl) (d a b : WOp)
  | vmax (c : VCtl) (d a b : WOp)
  | vabs (c : VCtl) (d a : WOp)
  | vneg (c : VCtl) (d a : WOp)
  | vmulh (c : VCtl) (d a b : WOp)
  | vavg (c : VCtl) (d a b : WOp)
  | vand (c : VCtl) (d a b : WOp)
  | vor (c : VCtl) (d a b : WOp)
  | vxor (c : VCtl) (d a b : WOp)
  | vnot (c : VCtl) (d a : WOp)
  | vshl (c : VCtl) (d a b : WOp)
  | vshr (c : VCtl) (d a b : WOp)
  | vsra (c : VCtl) (d a b : WOp)
  | vrol (c : VCtl) (d a b : WOp)
  | vrcp (c : VCtl) (d a : WOp)
  | vrsq (c : VCtl) (d a : WOp)
  | vsqrt (c : VCtl) (d a : WOp)
  | vexp2 (c : VCtl) (d a : WOp)
  | vlog2 (c : VCtl) (d a : WOp)
  | vtanh (c : VCtl) (d a : WOp)
  | vsigm (c : VCtl) (d a : WOp)
  | vcvt (c : VCtl) (d a : WOp) (sty : Ty)
  | vquant (c : VCtl) (d a b : WOp)
  | vdequant (c : VCtl) (d a b : WOp)
  | vclamp (c : VCtl) (d a b : WOp)
  | vpack (c : VCtl) (d a b : WOp)
  | vceq (c : VCtl) (md : MReg) (a b : WOp)
  | vcne (c : VCtl) (md : MReg) (a b : WOp)
  | vclt (c : VCtl) (md : MReg) (a b : WOp)
  | vcle (c : VCtl) (md : MReg) (a b : WOp)
  | vcun (c : VCtl) (md : MReg) (a b : WOp)
  | vmand (g : Guard) (md ma mb : MReg)
  | vmor (g : Guard) (md ma mb : MReg)
  | vmxor (g : Guard) (md ma mb : MReg)
  | vmandn (g : Guard) (md ma mb : MReg)
  | vflags (g : Guard) (ty : Ty) (ma : MReg)
  | vsel (c : VCtl) (d a b : WOp)
  | vperm (c : VCtl) (d a b : WOp)
  | vbcast (c : VCtl) (d a : WOp) (xs : XReg) (idx : BitVec 7)
  | vslup (c : VCtl) (d a : WOp) (xf : XReg) (amt : BitVec 7)
  | vsldn (c : VCtl) (d a : WOp) (xf : XReg) (amt : BitVec 7)
  | vzip (g : Guard) (ty : Ty) (d a b : WOp)
  | vunzip (g : Guard) (ty : Ty) (d a : WOp)
  | vrsum (c : VCtl) (d a : WOp)
  | vrmax (c : VCtl) (d a : WOp)
  | vrmin (c : VCtl) (d a : WOp)
  | vaccrd (c : VCtl) (d : WOp) (acs : AcsAddr)
  | vaccwr (c : VCtl) (acs : AcsAddr) (a : WOp)
  | wspill (g : Guard) (sp : SpAddr) (w : WStart) (cnt : BitVec 24)
  | wfill (g : Guard) (w : WStart) (sp : SpAddr) (cnt : BitVec 24)
  | defer (c : VCtl) (a : WOp) (tag : BitVec 4) (xi : XReg) (k : BitVec 5)
  | drain (g : Guard) (ty : Ty) (d idx : WOp) (md : MReg) (tag : BitVec 4) (k : BitVec 5)
  | vectorLand (core : Nat)
  -- matrix words, R193 to R204
  | mma (m : Mma)
  | mlatch (g : Guard) (ty : Ty) (bbuf : Bool) (brow : BitVec 11) (btr : Bool)
  | mzero (g : Guard) (act : BitVec 4)
  | mtcopy (g : Guard) (act src : BitVec 4)
  | mtadd (g : Guard) (ty : Ty) (act src : BitVec 4)
  | mtscale (g : Guard) (ty : Ty) (act : BitVec 4) (tfill : BitVec 16)
  | mtout (g : Guard) (ty : Ty) (act : BitVec 4) (mm1 : BitVec 7) (rows : SpRows)
  | mrnd (g : Guard) (mode : RMode)
  | mlease (g : Guard)
  | mfree (g : Guard)
  | mwait (g : Guard)
  | matrixOrderHead (core : Nat)
  | vaccwrApply (core : Nat)
  | grant (cl : Nat)
  | mxaStart (cl : Nat)
  | matrixComplete (cl : Nat)
  | termIdle (cl : Nat)
  -- the ordering machine, R103, R104
  | accessPerform (core : Nat) (st : Stream)
  | storeDrain (core : Nat)
  -- the copy engine, R208 to R225
  | cpeDequeue (cl : Nat)
  | cpeStep (cl id : Nat)
  | commandComplete (cl id : Nat)
  | copy1 (cl id : Nat)
  | copy2 (cl id : Nat)
  | copy3 (cl id : Nat)
  | gather (cl id : Nat)
  | scatter (cl id : Nat)
  | accum (cl id : Nat)
  | fill (cl id : Nat)
  | coll (cl id : Nat)
  | culvert (cl id : Nat)
  | signal (cl id : Nat)
  | t2pf (cl id : Nat)
  | migrate (cl id : Nat)
  | inval (cl id : Nat)
  | launch (cl id : Nat)
  | owner (cl id : Nat)
  | invalidationComplete (id : Nat)
  -- the context, R231 to R241
  | trap (core : Nat)
  | clear (core : Nat)
  | faultRecordWrite (core : Nat)
  | faultPolicy (core bank : Nat)
  | swap (core : Nat)
  | swapDone (core : Nat)
  | resume (terp : Nat) (value : BitVec 32)
  | ceFreeze (u : FreezeUnit)
  | freezeEnd (u : FreezeUnit)
  | clockHopDone (island : Nat)
  -- the queue, R247 to R264
  | doorbell (q off : Nat) (data : List Byte)
  | qsync (terp : Nat) (index : BitVec 20)
  | qsyncRelease (terp : Nat) (index : BitVec 20)
  | qsyncWriteback (terp : Nat)
  | rfetch (rd rs1 rs2 : BitVec 5)
  | bfx (rd rs1 rs2 : BitVec 5)
  | swait (rd rs1 rs2 : BitVec 5)
  | dispatch (rd rs1 rs2 : BitVec 5)
  | nopEntry (q : Nat)
  | chainEntry (q : Nat)
  | swaitEntry (q : Nat)
  | queueSignal (q : Nat)
  | swriteEntry (q : Nat)
  | fenceEntry (q : Nat)
  | operatorActivate (fep : Nat)
  | watchdogExpiry (q : Nat)
  | scrubComplete (polder : Nat)
  | noticeWrite (fep : Nat)
  -- kernel and group, R277 to R290
  | stageEvaluation (rcb : Nat)
  | groupPlace (rcb stage : Nat)
  | groupRetire (core bank : Nat)
  | preempt (core : Nat)
  | groupRestore (rcb stage gidx : Nat)
  | thermalMigration (core : Nat)
  | migrationRequest (core reading : Nat)
  | thermalRelease (core reading : Nat)
  -- pages and versions, R311 to R321
  | pageMove (id : Nat)
  | pageEngineScan (polder : Nat)
  | hostInval (terp : Nat) (value : BitVec 64)
  | dredgerStep (line : Nat)
  | lowtideUpdate (terp : Nat)
  | patrolScrub (line : Nat) (found : ScrubFinding)
  -- power and clocks, R350 to R356
  | undervoltWindow (island : Nat) (ends : Bool) (found : Option ErrSite)
  | arbiterInterval
  | droopStart (island : Nat)
  | droopEnd (island : Nat)
  | unitArrival (sv : Server) (polder : Nat) (line : LineUnit)
  | unitService (sv : Server)
  -- links, R323 to R332
  | dlkTrain (port : Nat)
  | dlkDisable (port : Nat)
  | trainDone (port delay pdev pport : Nat)
  | trainTimeout (port : Nat)
  | loss (port : Nat)
  | dlkDrained (port : Nat)
  | idleFlit (port : Nat)
  | flitWrite (port : Nat) (f : Flit)
  | flitReduce (port : Nat) (f : Flit) (rt : Nat)
  | signalFlit (port : Nat) (f : Flit) (add : Bool)
  | ack (port seq : Nat) (refused : Bool)
  | nak (port seq : Nat)
  | credit (port n : Nat)
  | remapack (port : Nat) (f : Flit) (len : Nat)
  | fwddone (port : Nat) (f : Flit) (len : Nat)
  | lrswWrite (value : BitVec 64)
  | fwdStateWrite (idx : Nat) (state : BitVec 2)
  | t2PortLost (port : Nat) (unread unwritten : List Nat)
  | hostLinkDown
  | hostLinkUp
  -- polders and islands, R348, R351, R366
  | polderStart (polder : Nat)
  | polderStop (polder : Nat)
  | sliceend (polder : Nat)
  | slicestart (polder : Nat)
  | polderReset (polder : Nat)
  | islandPowerState (island : Nat) (pst : BitVec 2)
  | islandDivisorPermit (island : Nat) (divok : BitVec 15)
  | sensovrWrite (terp : Nat) (value : BitVec 32)
  -- the levee engine, R342, R345
  | revoke (own : Nat)
  | assign (own polder : Nat)
  | weight (polder cls wgt : Nat)
  | leveeEvaluate
  -- the rest of the host's side
  | registerWrite (terp off : Nat) (value : BitVec 64)
  | packageReset (img : Option ConfigImage)
  | hostMemoryWrite (w : HostWrite)
  | nominalVoltageRestored (island : Nat)
  | tileRowWrite (cl : Nat)
  | imageLoad (polder : Nat) (img : ImageFile)
deriving DecidableEq, Repr

end Sys2Proof
end

