-- ==== Sys2Proof/Machine/Legal.lean ====
section
/-! DEFINITION. The value limits of the encodings: which field values of a decoded word are legal (R58, R59, R64, R65, R75,
R138, R147, R149, R156, R178, R186). A word with an illegal value raises ILLEGAL_ENC. -/

namespace Sys2Proof.Machine

/-- Element width of a type in slices (R65). -/
def tyw : Ty → Nat
  | .s4 | .z4 | .qa4 => 1
  | .s8 | .z8 | .qa8 => 2
  | .s16 | .z16 | .h | .bf => 4
  | .s32 | .z32 | .f => 8
  | .s64 | .z64 => 16

/-- Lanes of a type (R65). -/
def lanes (ty : Ty) : Nat := 128 / tyw ty

/-- Signed integer types (R80). -/
def tySigned : Ty → Bool
  | .s4 | .s8 | .s16 | .s32 | .s64 => true
  | _ => false

/-- Integer types, I of R156. -/
def tyInt : Ty → Bool
  | .s4 | .s8 | .s16 | .s32 | .s64 | .z4 | .z8 | .z16 | .z32 | .z64 => true
  | _ => false

/-- Integer types up to 32 bits, I' of R156. -/
def tyInt32 (ty : Ty) : Bool := tyInt ty && decide (tyw ty ≤ 8)

/-- Floating types, F of R156. -/
def tyFloat : Ty → Bool
  | .h | .bf | .f => true
  | _ => false

/-- The grouped types (R85). -/
def tyQa : Ty → Bool
  | .qa4 | .qa8 => true
  | _ => false

/-- The types of 64 bits, under which WID must be 3 (R65). -/
def ty64 : Ty → Bool
  | .s64 | .z64 => true
  | _ => false

/-- The element width of an operand in slices, `opw` of R79. -/
def opw (f : WOp) (ty : Ty) : Nat := if ty64 ty then 16 else 2 ^ f.wid.toNat

/-- The operand names a queue (R61). -/
def isQueue (f : WOp) : Bool := decide (1016 ≤ f.row.toNat)

/-- FIRST and LAST take 0 to 6 (R59). -/
def guardOk (g : Guard) : Bool := decide (g.first.toNat ≤ 6) && decide (g.last.toNat ≤ 6)

/-- ROW values 768 to 1015 are illegal (R64); a queue operand has DIR r and no RB (R62, R67). -/
def rowOk (f : WOp) : Bool :=
  (decide (f.row.toNat ≤ 767) || isQueue f) && (!isQueue f || (decide (f.dir = .r) && !f.rb))

/-- WID must be 3 under a 64-bit type (R65). -/
def widOk (f : WOp) (ty : Ty) : Bool := !ty64 ty || decide (f.wid.toNat = 3)

/-- A source operand (R64, R65): not wider than the type, and narrower only under an integer type. -/
def srcOk (f : WOp) (ty : Ty) : Bool :=
  rowOk f && widOk f ty && decide (opw f ty ≤ tyw ty) && (decide (opw f ty = tyw ty) || tyInt ty)

/-- An operand whose width must be that of the type (R65, R164, R165, R167). -/
def exactOk (f : WOp) (ty : Ty) : Bool := rowOk f && widOk f ty && decide (opw f ty = tyw ty)

/-- A destination operand: exact width, ROW 1020 to 1023 illegal (R64, R65). -/
def dstOk (f : WOp) (ty : Ty) : Bool := exactOk f ty && decide (f.row.toNat ≤ 1019)

/-- A destination that must be a W operand. -/
def wDstOk (f : WOp) (ty : Ty) : Bool := dstOk f ty && !isQueue f

/-- All operand bits zero: a reserved operand field. -/
def opZero (f : WOp) : Bool :=
  decide (f = { row := 0, slc := 0, wid := 0, dir := .r, str := 0, rb := false })

/-- Guard of a vector word. -/
def vOk (c : VCtl) : Bool := guardOk c.g

/-- The source type of vpack (R167). -/
def packSrc : Ty → Option Ty
  | .s4 => some .s8 | .s8 => some .s16 | .s16 => some .s32
  | .z4 => some .z8 | .z8 => some .z16 | .z16 => some .z32
  | .h | .bf => some .f
  | _ => none

/-- Two sources and a destination under one type. -/
def binOk (t : Ty → Bool) (c : VCtl) (d a b : WOp) : Bool :=
  vOk c && t c.ty && dstOk d c.ty && srcOk a c.ty && srcOk b c.ty

/-- As `binOk` for a word that also reads its destination: a y queue there is illegal (R157). -/
def fusedOk (c : VCtl) (d a b : WOp) : Bool :=
  binOk (fun t => tyInt32 t || tyFloat t) c d a b && !isQueue d

/-- One source and a destination under one type. -/
def unOk (t : Ty → Bool) (c : VCtl) (d a : WOp) : Bool := vOk c && t c.ty && dstOk d c.ty && srcOk a c.ty

/-- A compare (R168). -/
def cmpOk (t : Ty → Bool) (c : VCtl) (md : MReg) (a b : WOp) : Bool :=
  vOk c && t c.ty && decide (md.toNat ≠ 0) && srcOk a c.ty && srcOk b c.ty

/-- The types I and F of R156. -/
def tyIF (t : Ty) : Bool := tyInt t || tyFloat t

/-- The types mma and mlatch admit (R184). -/
def tyMma : Ty → Bool
  | .s4 | .z4 | .s8 | .z8 | .h | .bf | .qa4 | .qa8 => true
  | _ => false

/-- A transposed load is admitted for 8- and 16-bit types, and a 16-bit one does not start at the last row (R186, R197). -/
def btrOk (btr : Bool) (ty : Ty) (brow : BitVec 11) : Bool :=
  !btr || match ty with
    | .s8 | .z8 => true
    | .h | .bf => decide (brow.toNat ≠ 2047)
    | _ => false

/-- TFILL holds a value of TY in its low bits (R73, R195). -/
def tfillOk (ty : Ty) (v : BitVec 16) : Bool := decide (v.toNat < 2 ^ (4 * tyw ty))

/-- A scale table's address (R73, R86). -/
def spTabOk (t : SpTab) : Bool := decide (t.bank.toNat ≤ 23) && decide (t.off.toNat % 4 = 0)

/-- A scale table's address with every bit zero. -/
def spTabZero (t : SpTab) : Bool := decide (t.bank.toNat = 0) && decide (t.off.toNat = 0)

/-- The A source of mma (R74, R186). -/
def aSrcOk : ASrc → Bool
  | .sp r => decide (r.bank.toNat ≤ 23)
  | .w f => decide (f.row.toNat ≤ 767) && decide (f.dir = .c) && decide (f.wid.toNat = 3)

/-- The checks of R186 that need the word alone. -/
def mmaOk (m : Mma) : Bool :=
  guardOk m.g && tyMma m.ty && aSrcOk m.a
  && decide (m.gen.toNat ≤ 5)
  && (!tyQa m.ty || decide (m.gen.toNat = 0))
  && (if m.gen.toNat = 3 then decide (m.grow.toNat ≤ 766) else decide (m.grow.toNat = 0))
  && (m.bld || (!m.btr && decide (m.brow.toNat = 0)))
  && btrOk m.btr m.ty m.brow
  && (if m.tri then tfillOk m.ty m.tfill else decide (m.tfill.toNat = 0) && decide (m.tdiag.toNat = 0))
  && (if tyQa m.ty then decide (m.gsz.toNat ≠ 0) && spTabOk m.sca && spTabOk m.scb
      else decide (m.gsz.toNat = 0) && spTabZero m.sca && spTabZero m.scb && !m.zpa && !m.zpb)
  && (decide (m.gen.toNat = 0) || m.bld || !m.bbuf)

/-- The types ld and st admit (R59). -/
def tyLd : Ty → Bool
  | .s8 | .s16 | .s32 | .s64 | .z8 | .z16 | .z32 | .z64 => true
  | _ => false

/-- The types mtout admits (R184). -/
def tyOut : Ty → Bool
  | .s4 | .s8 | .s16 | .z4 | .z8 | .z16 | .h | .bf | .f => true
  | _ => false

/-- The value limits of a word; true for the steps without an encoding. -/
def legalWord : Instr → Bool
  | .add g .. | .sub g .. | .and g .. | .or g .. | .xor g .. | .shl g .. | .shr g .. | .sra g .. | .slt g ..
  | .sltu g .. | .min g .. | .max g .. | .minu g .. | .maxu g .. | .mul g .. | .mulh g .. | .mulhu g ..
  | .div g .. | .divu g .. | .rem g .. | .remu g .. | .ext g .. | .extu g .. | .ins g .. | .clz g .. | .ctz g ..
  | .popc g .. | .rev8 g .. | .push g .. | .pushb g .. | .rinit g .. | .rwaitf g .. | .rwaite g .. | .rclaim g ..
  | .rpost g .. | .rfree g .. | .crecv g .. | .ccnt g .. | .binit g .. | .binitf g .. | .bkill g .. | .barr g ..
  | .bwait g .. | .sync g .. | .acq g .. | .rel g .. | .sbind g .. | .xbeg g .. | .xend g .. | .xabt g | .xst g ..
  | .tcnt g .. | .bqput g .. => guardOk g
  | .ld ty _ _ _ _ | .st ty _ _ _ _ => tyLd ty
  | .loopReg lvl len _ _ => decide (lvl.toNat ≤ 5) && decide (1 ≤ len.toNat)
  | .loopImm lvl len cnt _ => decide (lvl.toNat ≤ 5) && decide (1 ≤ len.toNat) && decide (1 ≤ cnt.toNat)
  | .lend lvl .. => decide (lvl.toNat ≤ 5)
  | .give g _ cnt | .take g _ cnt | .tryt g _ _ cnt => guardOk g && decide (1 ≤ cnt.toNat)
  | .qld g qn .. | .qldi g qn .. | .qrow g qn .. | .qrowi g qn .. | .qst g qn .. | .qsti g qn .. | .qdrop g qn .. =>
    guardOk g && decide (qn.toNat ≤ 11)
  | .reservedMajor w => decide (w.toNat % 4 = 1) && decide (4 ≤ w.toNat / 4 % 64)
  | .rbset _ imm => decide (imm.toNat < 768)
  | .vadd c d a b | .vsub c d a b | .vmin c d a b | .vmax c d a b | .vsel c d a b | .vperm c d a b
  | .vclamp c d a b => binOk tyIF c d a b
  | .vmul c d a b => binOk (fun t => tyInt32 t || tyFloat t) c d a b
  | .vfma c d a b | .vfms c d a b | .vfnma c d a b => fusedOk c d a b
  | .vmulh c d a b | .vavg c d a b => binOk tyInt32 c d a b
  | .vand c d a b | .vor c d a b | .vxor c d a b | .vshl c d a b | .vshr c d a b | .vsra c d a b
  | .vrol c d a b => binOk tyInt c d a b
  | .vabs c d a | .vneg c d a | .vrsum c d a | .vrmax c d a | .vrmin c d a => unOk tyIF c d a
  | .vnot c d a => unOk tyInt c d a
  | .vrcp c d a | .vrsq c d a | .vsqrt c d a | .vexp2 c d a | .vlog2 c d a | .vtanh c d a | .vsigm c d a =>
    unOk tyFloat c d a
  | .vcvt c d a sty => vOk c && tyIF c.ty && tyIF sty && dstOk d c.ty && exactOk a sty
  | .vquant c d a b => vOk c && tyQa c.ty && dstOk d c.ty && exactOk a .h && exactOk b .z32
  | .vdequant c d a b => vOk c && tyQa c.ty && dstOk d .h && exactOk a c.ty && exactOk b .z32
  | .vpack c d a b =>
    vOk c && match packSrc c.ty with
      | some t => dstOk d c.ty && exactOk a t && exactOk b t
      | none => false
  | .vceq c md a b | .vcne c md a b | .vclt c md a b | .vcle c md a b => cmpOk tyIF c md a b
  | .vcun c md a b => cmpOk tyFloat c md a b
  | .vmand g md _ _ | .vmor g md _ _ | .vmxor g md _ _ | .vmandn g md _ _ => guardOk g && decide (md.toNat ≠ 0)
  | .vflags g _ _ => guardOk g
  | .vbcast c d a xs idx =>
    vOk c && tyIF c.ty && dstOk d c.ty
    && (if xs.toNat = 0 then srcOk a c.ty && decide (idx.toNat < lanes c.ty)
        else opZero a && decide (idx.toNat = 0))
  | .vslup c d a _ amt | .vsldn c d a _ amt => unOk tyIF c d a && decide (amt.toNat < lanes c.ty)
  | .vzip g ty d a b => guardOk g && tyIF ty && dstOk d ty && srcOk a ty && srcOk b ty
  | .vunzip g ty d a => guardOk g && tyIF ty && dstOk d ty && srcOk a ty
  | .vaccrd c d _ => vOk c && (decide (c.ty = .s32) || decide (c.ty = .f)) && dstOk d c.ty
  | .vaccwr c _ a => vOk c && (decide (c.ty = .s32) || decide (c.ty = .f)) && srcOk a c.ty
  | .wspill g sp w cnt | .wfill g w sp cnt =>
    guardOk g && decide (sp.bank.toNat ≤ 23) && decide (w.row.toNat ≤ 767) && decide (cnt.toNat ≤ 98303)
  | .defer c a _ _ k =>
    vOk c && tyIF c.ty && srcOk a c.ty && !isQueue a && decide ((k.toNat + 1) * tyw c.ty ≤ 128)
  | .drain g ty d idx md _ _ =>
    guardOk g && tyIF ty && wDstOk d ty && decide (idx.row.toNat ≤ 767) && decide (idx.wid.toNat = 3) && !idx.rb
    && decide (md.toNat ≠ 0)
  | .mma m => mmaOk m
  | .mlatch g ty _ brow btr => guardOk g && tyMma ty && btrOk btr ty brow
  | .mzero g _ | .mtcopy g _ _ | .mrnd g _ | .mlease g | .mfree g | .mwait g => guardOk g
  | .mtadd g ty _ _ => guardOk g && (decide (ty = .s32) || decide (ty = .f))
  | .mtscale g ty _ _ => guardOk g && decide (ty = .f)
  | .mtout g ty _ _ rows => guardOk g && tyOut ty && decide (rows.bank.toNat ≤ 23)
  | _ => true

end Sys2Proof.Machine
end

