-- ==== Sys2Proof/Machine/Num.lean ====
section
/-! DEFINITION. Number formats, rounding and the exact values behind the floating words (chapter 04, R160, R163). -/

namespace Sys2Proof.Machine

/-- An exact value. A finite one has magnitude m·2^e, or lies strictly between m·2^e and (m + 1)·2^e when `st` is set. -/
inductive Ex where
  | nan
  | inf (neg : Bool)
  | fin (neg : Bool) (m : Nat) (e : Int) (st : Bool)
deriving DecidableEq, Repr

/-- NSTAT.SAT (R95). -/
def nSat : BitVec 32 := 1
/-- NSTAT.NV (R95). -/
def nNv : BitVec 32 := 2
/-- NSTAT.FZ (R95). -/
def nFz : BitVec 32 := 4

/-- Fraction bits of a floating type (R80). -/
def fracBits : Ty → Nat
  | .h => 10 | .bf => 7 | _ => 23

/-- Exponent bits of a floating type (R80). -/
def expBits : Ty → Nat
  | .h => 5 | _ => 8

/-- Exponent bias of a floating type (R80). -/
def bias (ty : Ty) : Nat := 2 ^ (expBits ty - 1) - 1

/-- Exponent of the last place of a subnormal (R81). -/
def eMin (ty : Ty) : Int := 1 - (bias ty : Int) - (fracBits ty : Int)

/-- Bits of an element (R80). -/
def tyBits (ty : Ty) : Nat := 4 * tyw ty

/-- The infinity of a sign (R81). -/
def infBits (ty : Ty) (neg : Bool) : Nat :=
  (if neg then 2 ^ (tyBits ty - 1) else 0) + (2 ^ expBits ty - 1) * 2 ^ fracBits ty

/-- The canonical NaN (R81). -/
def canonNan (ty : Ty) : Nat := infBits ty false + 2 ^ (fracBits ty - 1)

/-- The largest finite value of a sign (R81). -/
def maxFin (ty : Ty) (neg : Bool) : Nat := infBits ty neg - 1

/-- The value of an encoding (R81). -/
def decodeF (ty : Ty) (bits : Nat) : Ex :=
  let fb := fracBits ty
  let neg := bits / 2 ^ (tyBits ty - 1) % 2 == 1
  let e := bits / 2 ^ fb % 2 ^ expBits ty
  let f := bits % 2 ^ fb
  if e = 2 ^ expBits ty - 1 then (if f = 0 then .inf neg else .nan)
  else if e = 0 then .fin neg f (eMin ty) false
  else .fin neg (2 ^ fb + f) ((e : Int) - 1 + eMin ty) false

/-- Number of significant bits. -/
def bitLen (n : Nat) : Nat := if n = 0 then 0 else Nat.log2 n + 1

/-- Whether a rounding moves away from zero (R89): the kept part is odd; the discarded part is not zero, is a tie, is above
the tie. -/
def roundsUp (mode : RMode) (neg odd inexact tie above : Bool) : Bool :=
  match mode with
  | .rne => above || (tie && odd)
  | .rtz => false
  | .rup => inexact && !neg
  | .rdn => inexact && neg
  | .rna => above || tie

/-- m·2^e rounded to a multiple n·2^q of 2^q; the result is n (R89). -/
def roundAt (mode : RMode) (neg : Bool) (m : Nat) (e q : Int) (st : Bool) : Nat :=
  if q ≤ e then
    let n := m * 2 ^ (e - q).toNat
    if roundsUp mode neg (n % 2 == 1) st false false then n + 1 else n
  else
    let k := (q - e).toNat
    let n := m / 2 ^ k
    let r := m % 2 ^ k
    let half := 2 ^ (k - 1)
    let inexact := r != 0 || st
    if roundsUp mode neg (n % 2 == 1) inexact (r == half && !st) (decide (half < r) || (r == half && st)) then n + 1
    else n

/-- A finite value rounded into the floating set of a type extended above its largest value (R89): n and q of n·2^q. -/
def roundF (ty : Ty) (mode : RMode) (neg : Bool) (m : Nat) (e : Int) (st : Bool) : Nat × Int :=
  let q := max (eMin ty) (e + (bitLen m : Int) - (fracBits ty + 1 : Int))
  (roundAt mode neg m e q st, q)

/-- n·2^q exceeds the largest finite value. -/
def overflows (ty : Ty) (n : Nat) (q : Int) : Bool :=
  let top := (bias ty : Int) - fracBits ty
  decide (top ≤ q) && decide (2 ^ (fracBits ty + 1) - 1 < n * 2 ^ (q - top).toNat)

/-- The encoding of n·2^q, which the type represents. -/
def encodeF (ty : Ty) (neg : Bool) (n : Nat) (q : Int) : Nat :=
  (if neg then 2 ^ (tyBits ty - 1) else 0) + ((q - eMin ty).toNat * 2 ^ fracBits ty + n)

/-- The encoding of a floating result (R160): the infinity on overflow where the mode asks for one. -/
def arith (ty : Ty) (mode : RMode) : Ex → Nat
  | .nan => canonNan ty
  | .inf neg => infBits ty neg
  | .fin neg m e st =>
    let (n, q) := roundF ty mode neg m e st
    if n = 0 then encodeF ty neg 0 (eMin ty)
    else if overflows ty n q then
      match mode, neg with
      | .rne, _ | .rna, _ | .rup, false | .rdn, true => infBits ty neg
      | _, _ => maxFin ty neg
    else encodeF ty neg n q

/-- A subnormal encoding of FP16. -/
def subnormalH (bits : Nat) : Bool := bits / 1024 % 32 == 0 && bits % 1024 != 0

/-- `convert` into a floating type (R91): the encoding and the NSTAT bits; `flush` only under R83. -/
def convF (ty : Ty) (mode : RMode) (flush : Bool) : Ex → Nat × BitVec 32
  | .nan => (canonNan ty, nNv)
  | .inf neg => (infBits ty neg, 0)
  | .fin neg m e st =>
    let (n, q) := roundF ty mode neg m e st
    if n = 0 then (encodeF ty neg 0 (eMin ty), 0)
    else if overflows ty n q then (maxFin ty neg, nSat)
    else
      let r := encodeF ty neg n q
      if flush && decide (ty = .h) && subnormalH r then (encodeF ty neg 0 (eMin ty), nFz) else (r, 0)

/-- N/D rounded to an integer (R89). -/
def roundRat (mode : RMode) (n : Int) (d : Nat) : Int :=
  let fl := n / (d : Int)
  let r := n - fl * d
  let neg := decide (n < 0)
  if r = 0 then fl
  else
    match mode with
    | .rne => if 2 * r < d then fl else if (d : Int) < 2 * r then fl + 1 else if fl % 2 = 0 then fl else fl + 1
    | .rtz => if neg then fl + 1 else fl
    | .rup => fl + 1
    | .rdn => fl
    | .rna => if 2 * r < d then fl else if (d : Int) < 2 * r then fl + 1 else if neg then fl else fl + 1

/-- Smallest value of an integer type; the limits of a qa type are those of its codes (R90, R91). -/
def minInt (ty : Ty) : Int := if tySigned ty then -((2 ^ (tyBits ty - 1) : Nat) : Int) else 0

/-- Largest value of an integer type (R90, R91). -/
def maxInt (ty : Ty) : Int :=
  if tySigned ty then ((2 ^ (tyBits ty - 1) : Nat) : Int) - 1 else ((2 ^ tyBits ty : Nat) : Int) - 1

/-- An integer saturated into an integer type: its bits and the NSTAT bits (R90). -/
def satInt (ty : Ty) (v : Int) : Nat × BitVec 32 :=
  if maxInt ty < v then (wrapNat (maxInt ty) (tyBits ty), nSat)
  else if v < minInt ty then (wrapNat (minInt ty) (tyBits ty), nSat)
  else (wrapNat v (tyBits ty), 0)

/-- The signed numerator and the denominator of a finite value. -/
def ratOf (neg : Bool) (m : Nat) (e : Int) : Int × Nat :=
  let s : Int := if neg then -1 else 1
  if 0 ≤ e then (s * (m * 2 ^ e.toNat : Nat), 1) else (s * m, 2 ^ (-e).toNat)

/-- `convert` into an integer type (R91). -/
def convI (ty : Ty) (mode : RMode) : Ex → Nat × BitVec 32
  | .nan => (0, nNv)
  | .inf neg => (wrapNat (if neg then minInt ty else maxInt ty) (tyBits ty), nSat)
  | .fin neg m e _ =>
    let (n, d) := ratOf neg m e
    satInt ty (roundRat mode n d)

/-- `convert` (R91): the bits of the result and the NSTAT bits. -/
def convert (ty : Ty) (mode : RMode) (v : Ex) : Nat × BitVec 32 :=
  if tyFloat ty then convF ty mode false v else convI ty mode v

/-- An integer as an exact value. -/
def exInt (v : Int) : Ex := .fin (decide (v < 0)) v.natAbs 0 false

/-- The value of an element of any type: floats by their encoding, integers and codes by R80. -/
def valueOf (ty : Ty) (bits : Nat) : Ex :=
  if tyFloat ty then decodeF ty bits
  else if tySigned ty then exInt (signed bits (tyBits ty)) else exInt (bits % 2 ^ tyBits ty : Nat)

/-! Exact arithmetic: the value and whether the operation is invalid or meets a NaN (R82). -/

/-- Sign of an exact zero sum of values of different signs (R160). -/
def zeroNeg (mode : RMode) : Bool := decide (mode = .rdn)

/-- Addition of two exact finite values or infinities (R160). -/
def exAdd (mode : RMode) (a b : Ex) : Ex × Bool :=
  match a, b with
  | .nan, _ | _, .nan => (.nan, true)
  | .inf x, .inf y => if x = y then (.inf x, false) else (.nan, true)
  | .inf x, _ => (.inf x, false)
  | _, .inf y => (.inf y, false)
  | .fin n1 m1 e1 _, .fin n2 m2 e2 _ =>
    let e := min e1 e2
    let v1 : Int := (m1 * 2 ^ (e1 - e).toNat : Nat)
    let v2 : Int := (m2 * 2 ^ (e2 - e).toNat : Nat)
    let s := (if n1 then -v1 else v1) + (if n2 then -v2 else v2)
    if s = 0 then (.fin (if n1 = n2 then n1 else zeroNeg mode) 0 e false, false)
    else (.fin (decide (s < 0)) s.natAbs e false, false)

/-- The value with its sign inverted. -/
def exNeg : Ex → Ex
  | .nan => .nan
  | .inf n => .inf (!n)
  | .fin n m e st => .fin (!n) m e st

/-- Multiplication (R160). -/
def exMul (a b : Ex) : Ex × Bool :=
  match a, b with
  | .nan, _ | _, .nan => (.nan, true)
  | .inf x, .inf y => (.inf (x != y), false)
  | .inf x, .fin y m _ _ => if m = 0 then (.nan, true) else (.inf (x != y), false)
  | .fin x m _ _, .inf y => if m = 0 then (.nan, true) else (.inf (x != y), false)
  | .fin x m1 e1 _, .fin y m2 e2 _ => (.fin (x != y) (m1 * m2) (e1 + e2) false, false)

/-- a·b + c, exactly (R161). -/
def exFma (mode : RMode) (a b c : Ex) : Ex × Bool :=
  let (p, bad) := exMul a b
  let (s, bad') := exAdd mode p c
  (s, bad || bad')

/-- Order of two values that are no NaN; −0 and +0 compare equal. -/
def exLt (a b : Ex) : Bool :=
  match a, b with
  | .nan, _ | _, .nan => false
  | .inf x, .inf y => x && !y
  | .inf x, _ => x
  | _, .inf y => !y
  | .fin n1 m1 e1 _, .fin n2 m2 e2 _ =>
    let e := min e1 e2
    let v1 : Int := (m1 * 2 ^ (e1 - e).toNat : Nat)
    let v2 : Int := (m2 * 2 ^ (e2 - e).toNat : Nat)
    decide ((if n1 then -v1 else v1) < (if n2 then -v2 else v2))

/-- The value is a NaN. -/
def exNan : Ex → Bool
  | .nan => true
  | _ => false

/-- Sign of a value. -/
def exSign : Ex → Bool
  | .nan => false
  | .inf n => n
  | .fin n _ _ _ => n

/-- a = b, +0 equal to −0; false with a NaN (R168). -/
def exEq (a b : Ex) : Bool := !exNan a && !exNan b && !exLt a b && !exLt b a

/-- The order of vmin, vmax and the reductions: −0 below +0 (R100, R161). -/
def exBelow (a b : Ex) : Bool := exLt a b || (exEq a b && exSign a && !exSign b)

/-! Roots, quotients and the transcendental functions (R163). -/

/-- Integer square root, bit by bit from bit `k`. -/
def isqrtFrom (n : Nat) : Nat → Nat → Nat
  | 0, r => if (r + 1) * (r + 1) ≤ n then r + 1 else r
  | k + 1, r => isqrtFrom n k (if (r + 2 ^ (k + 1)) * (r + 2 ^ (k + 1)) ≤ n then r + 2 ^ (k + 1) else r)

/-- Integer square root. -/
def isqrt (n : Nat) : Nat := isqrtFrom n (bitLen n / 2) 0

/-- 1/a for a positive finite a, with 160 bits of quotient. -/
def exRcp (neg : Bool) (m : Nat) (e : Int) : Ex :=
  let k := 160 + bitLen m
  .fin neg (2 ^ k / m) (-e - k) (2 ^ k % m != 0)

/-- √(m·2^e). -/
def exSqrt (m : Nat) (e : Int) : Ex :=
  let k : Nat := 160 + (if (e - 160) % 2 = 0 then 0 else 1)
  let n := m * 2 ^ k
  let r := isqrt n
  .fin false r ((e - k) / 2) (r * r != n)

/-- 1/√(m·2^e). -/
def exRsqrt (m : Nat) (e : Int) : Ex :=
  let odd : Nat := if e % 2 = 0 then 0 else 1
  -- the value is 2^(-(e - odd)/2) / √(m·2^odd)
  let d := m * 2 ^ odd
  let k := 160 + bitLen d
  let r := isqrt (2 ^ (2 * k) / d)
  .fin false r (-((e - odd) / 2) - k) (r * r * d != 2 ^ (2 * k))

/-- Fixed-point precision of the transcendental functions in bits (notes/assumptions/19.md). -/
def fxP : Nat := 400
/-- One in fixed point. -/
def fxOne : Nat := 2 ^ fxP

/-- The sum of n terms of the exponential series, y in fixed point in [0, 1]. -/
def expSeries (y : Nat) : Nat → Nat → Nat → Nat → Nat
  | 0, _, _, acc => acc
  | n + 1, k, term, acc => expSeries y n (k + 1) (term * y / fxOne / k) (acc + term)

/-- e^y in fixed point, y in [0, 1]. -/
def fxExp (y : Nat) : Nat := expSeries y 100 1 fxOne 0

/-- The sum of n odd terms of the inverse hyperbolic tangent, z2 the square of its argument in fixed point. -/
def atanhSeries (z2 : Nat) : Nat → Nat → Nat → Nat → Nat
  | 0, _, _, acc => acc
  | n + 1, k, pow, acc => atanhSeries z2 n (k + 2) (pow * z2 / fxOne) (acc + pow / k)

/-- ln of num/den in [1, 2) in fixed point. -/
def fxLn (num den : Nat) : Nat :=
  let z := (num - den) * fxOne / (num + den)
  2 * atanhSeries (z * z / fxOne) 140 1 z 0

/-- ln 2 in fixed point. -/
def fxLn2 : Nat := fxLn 2 1

/-- m·2^e in fixed point, rounded down. -/
def fxOf (m : Nat) (e : Int) : Nat :=
  let k := e + fxP
  if 0 ≤ k then m * 2 ^ k.toNat else m / 2 ^ (-k).toNat

/-- e^-u for u in fixed point, as a value in fixed point. -/
def fxExpNeg (u : Nat) : Nat :=
  let k := u / fxLn2
  fxOne * fxOne / fxExp (u % fxLn2) / 2 ^ k

/-- 2^(±m·2^e) (R163). -/
def exExp2 (neg : Bool) (m : Nat) (e : Int) : Ex :=
  if m = 0 then .fin false 1 0 false
  else if 11 < e + bitLen m then (if neg then .fin false 1 (-5000) true else .fin false 1 5000 true)
  else
    let (n, d) := ratOf neg m e
    let k := n / (d : Int)
    let r := n - k * d
    if r = 0 then .fin false 1 k false
    else .fin false (fxExp (r.toNat * fxLn2 / d)) (k - fxP) true

/-- log₂(m·2^e), m not zero (R163). -/
def exLog2 (m : Nat) (e : Int) : Ex :=
  let l := Nat.log2 m
  let k : Int := e + l
  if m = 2 ^ l then .fin (decide (k < 0)) k.natAbs 0 false
  else
    let f := fxLn m (2 ^ l) * fxOne / fxLn2
    let v : Int := k * (fxOne : Nat) + (f : Nat)
    if v < 0 then .fin true (v.natAbs - 1) (-(fxP : Int)) true else .fin false v.natAbs (-(fxP : Int)) true

/-- tanh(±m·2^e), m not zero (R163). -/
def exTanh (neg : Bool) (m : Nat) (e : Int) : Ex :=
  if 7 < e + bitLen m then .fin neg (fxOne - 1) (-(fxP : Int)) true
  else if e + bitLen m < -100 then .fin neg (m * 2 ^ 150 - 1) (e - 150) true
  else
    let t := fxExpNeg (2 * fxOf m e)
    .fin neg ((fxOne - t) * fxOne / (fxOne + t)) (-(fxP : Int)) true

/-- 1/(1 + e^-x) for x = ±m·2^e, m not zero (R163). -/
def exSigm (neg : Bool) (m : Nat) (e : Int) : Ex :=
  if 7 < e + bitLen m then (if neg then .fin false 1 (-(fxP : Int)) true else .fin false (fxOne - 1) (-(fxP : Int)) true)
  else
    let t := fxExpNeg (fxOf m e)
    .fin false ((if neg then t else fxOne) * fxOne / (fxOne + t)) (-(fxP : Int)) true

/-- The transcendental words. -/
inductive TFun where
  | rcp | rsq | sqrt | exp2 | log2 | tanh | sigm
deriving DecidableEq, Repr

/-- The exact value of a transcendental word's function, and whether it sets NV (R163). -/
def exFun (f : TFun) (a : Ex) : Ex × Bool :=
  match f, a with
  | _, .nan => (.nan, true)
  | .rcp, .inf n => (.fin n 0 0 false, false)
  | .rcp, .fin n m e _ => if m = 0 then (.inf n, false) else (exRcp n m e, false)
  | .rsq, .inf n => if n then (.nan, true) else (.fin false 0 0 false, false)
  | .rsq, .fin n m e _ => if m = 0 then (.inf n, false) else if n then (.nan, true) else (exRsqrt m e, false)
  | .sqrt, .inf n => if n then (.nan, true) else (.inf false, false)
  | .sqrt, .fin n m e _ => if m = 0 then (.fin n 0 0 false, false) else if n then (.nan, true) else (exSqrt m e, false)
  | .exp2, .inf n => if n then (.fin false 0 0 false, false) else (.inf false, false)
  | .exp2, .fin n m e _ => (exExp2 n m e, false)
  | .log2, .inf n => if n then (.nan, true) else (.inf false, false)
  | .log2, .fin n m e _ => if m = 0 then (.inf true, false) else if n then (.nan, true) else (exLog2 m e, false)
  | .tanh, .inf n => (.fin n 1 0 false, false)
  | .tanh, .fin n m e _ => if m = 0 then (.fin n 0 0 false, false) else (exTanh n m e, false)
  | .sigm, .inf n => if n then (.fin false 0 0 false, false) else (.fin false 1 0 false, false)
  | .sigm, .fin n m e _ => if m = 0 then (.fin false 1 (-1) false, false) else (exSigm n m e, false)

/-- a/b of two exact values plus an integer, converted to an integer type (R165). -/
def quantize (ty : Ty) (mode : RMode) (a s : Ex) (z : Nat) : Nat × BitVec 32 :=
  match a, s with
  | .nan, _ | _, .nan | .inf _, .inf _ => convI ty mode .nan
  | .inf x, .fin y _ _ _ => convI ty mode (.inf (x != y))
  | .fin _ _ _ _, .inf _ => convI ty mode (exInt z)
  | .fin x m1 e1 _, .fin y m2 e2 _ =>
    if m2 = 0 then (if m1 = 0 then convI ty mode .nan else convI ty mode (.inf (x != y)))
    else
      let (n1, d1) := ratOf (x != y) m1 e1
      let (n2, d2) := ratOf false m2 e2
      let d := d1 * n2.toNat
      satInt ty (roundRat mode (n1 * d2 + (z * d : Nat)) d)

end Sys2Proof.Machine
end

