-- ==== Sys2Proof/WellFormed.lean ====
section
/-! DEFINITION. Well-formed instructions: the field values that the encodings admit (R58). -/

namespace Sys2Proof

/-- The word's field values are all legal. -/
def Instr.wf (i : Instr) : Bool := Machine.legalWord i

end Sys2Proof
end

