-- ==== Sys2Proof/Decode.lean ====
section
/-! DEFINITION. The decoder, total on any bytes, and the encoder, both written from the encoding tables of chapter 03 and
of the words' own rules. -/

namespace Sys2Proof

/-- Why bits are no word (R56, R58): the sequencer raises ILLEGAL_ENC for each of them. -/
inductive DecodeError where
  /-- fewer bytes than the class of the first parcel asks for -/
  | short
  /-- a major of class 0b00 or an OP that names no word (R76, R77, R78) -/
  | unassignedOp
  /-- a selector value that names no word (FN, CND, TY, DIR, MODE) -/
  | unassignedSelector
  /-- a reserved field is not zero -/
  | reservedField
deriving DecidableEq, Repr

/-- The element types in the order of R75. -/
def tyTable : List Ty := [.s4, .s8, .s16, .s32, .s64, .z4, .z8, .z16, .z32, .z64, .h, .bf, .f, .qa4, .qa8]

/-- The TY code of a type (R75). -/
def tyCode : Ty → Nat
  | .s4 => 0 | .s8 => 1 | .s16 => 2 | .s32 => 3 | .s64 => 4 | .z4 => 5 | .z8 => 6 | .z16 => 7 | .z32 => 8 | .z64 => 9
  | .h => 10 | .bf => 11 | .f => 12 | .qa4 => 13 | .qa8 => 14

/-- The type of a TY code. -/
def tyOf (n : Nat) : Except DecodeError Ty :=
  match tyTable[n]? with
  | some t => .ok t
  | none => .error .unassignedSelector

/-- The rounding mode of a MODE code (R89). -/
def modeOf (n : Nat) : Except DecodeError RMode :=
  match [RMode.rne, .rtz, .rup, .rdn, .rna][n]? with
  | some m => .ok m
  | none => .error .unassignedSelector

/-- The code of a rounding mode (R89). -/
def modeCode : RMode → Nat
  | .rne => 0 | .rtz => 1 | .rup => 2 | .rdn => 3 | .rna => 4

/-- The direction of a DIR code (R66). -/
def dirOf (n : Nat) : Dir := if n = 0 then .r else if n = 1 then .c else if n = 2 then .d else .a

/-- The DIR code of a direction (R66). -/
def dirCode : Dir → Nat
  | .r => 0 | .c => 1 | .d => 2 | .a => 3

/-- The word of a table entry, or the error that names a missing entry. -/
def pick {α : Type} (l : List α) (n : Nat) (e : DecodeError) : Except DecodeError α :=
  match l[n]? with
  | some a => .ok a
  | none => .error e

/-- Every one of the values is zero, or a reserved field is set. -/
def zeros (l : List Nat) : Except DecodeError Unit :=
  if l.all (· == 0) then .ok () else .error .reservedField

/-- A FIRST and LAST pair. -/
def guardOf (first last : Nat) : Guard := { first := .ofNat 3 first, last := .ofNat 3 last }

/-- A wide operand field with its RB bit (R32, R64). -/
def wopOf (f rb : Nat) : WOp :=
  match splitFields [10, 7, 2, 2, 3] f with
  | [row, slc, wid, dir, str] =>
    { row := .ofNat 10 row, slc := .ofNat 7 slc, wid := .ofNat 2 wid, dir := dirOf dir, str := .ofNat 3 str, rb := rb == 1 }
  | _ => { row := 0, slc := 0, wid := 0, dir := .r, str := 0, rb := false }

/-- The bits of a wide operand field (R32). -/
def wopBits (f : WOp) : Nat :=
  joinFields [10, 7, 2, 2, 3] [f.row.toNat, f.slc.toNat, f.wid.toNat, dirCode f.dir, f.str.toNat]

/-- A flag bit. -/
def bit (b : Bool) : Nat := if b then 1 else 0

/-- Field widths of formats R and Q, lowest first (R59). -/
def widthsR : List Nat := [2, 6, 4, 4, 4, 6, 3, 3]
/-- Field widths of format I (R59). -/
def widthsI : List Nat := [2, 6, 4, 4, 16]
/-- Field widths of formats U and J (R59). -/
def widthsU : List Nat := [2, 6, 4, 20]
/-- Field widths of format B (R59). -/
def widthsB : List Nat := [2, 6, 4, 4, 4, 12]
/-- Field widths of format M (R59). -/
def widthsM : List Nat := [2, 6, 4, 4, 4, 4, 8]
/-- Field widths of format S (R59). -/
def widthsS : List Nat := [2, 6, 4, 4, 12, 4]
/-- Field widths of loop (R138). -/
def widthsLoop : List Nat := [2, 6, 4, 4, 6, 1, 6, 3]
/-- Field widths of lend (R139). -/
def widthsLend : List Nat := [2, 6, 4, 4, 1, 3, 1, 8, 3]
/-- Field widths of the 96-bit word (R62). -/
def widths96 : List Nat := [2, 6, 4, 3, 1, 1, 1, 3, 3, 24, 24, 24]
/-- Field widths of the 192-bit word (R73). -/
def widths192 : List Nat :=
  [2, 5, 4, 4, 1, 7, 3, 3, 1, 1, 24, 1, 1, 11, 1, 3, 1, 8, 16, 10, 2, 1, 1, 20, 20, 41]
/-- Field widths of an R-type word of a front-end processor (R256). -/
def widthsFep : List Nat := [7, 5, 3, 5, 5, 7]

/-- The alu words in the order of FN (R129). -/
def aluTable : List (Guard → XReg → XReg → XReg → Instr) :=
  [.add, .sub, .and, .or, .xor, .shl, .shr, .sra, .slt, .sltu, .min, .max, .minu, .maxu, .mul, .mulh, .mulhu,
   .div, .divu, .rem, .remu]

/-- The branches that compare two registers, in the order of CND (R59). -/
def brTable : List (XReg → XReg → BitVec 12 → Instr) := [.beq, .bne, .blt, .bge, .bltu, .bgeu]

/-- Decodes the words of majors 0x01, 0x0A, 0x14 and 0x40 to 0x43: format R. -/
def decodeR (maj w : Nat) : Except DecodeError Instr :=
  match splitFields widthsR w with
  | [_, _, d, a, b, fn, first, last] =>
    let g := guardOf first last
    let xd : XReg := .ofNat 4 d
    let xa : XReg := .ofNat 4 a
    let xb : XReg := .ofNat 4 b
    let bad : Except DecodeError Instr := .error .unassignedSelector
    match maj with
    | 0x01 => do let c ← pick aluTable fn .unassignedSelector; return c g xd xa xb
    | 0x0A =>
      match fn with
      | 0 => .ok (.ext g xd xa xb)
      | 1 => .ok (.extu g xd xa xb)
      | 2 => .ok (.ins g xd xa xb)
      | 3 => do zeros [b]; return .clz g xd xa
      | 4 => do zeros [b]; return .ctz g xd xa
      | 5 => do zeros [b]; return .popc g xd xa
      | 6 => do zeros [b]; return .rev8 g xd xa
      | _ => bad
    | 0x14 =>
      match fn with
      | 0 => do zeros [a, b]; return .push g xd
      | 1 => do zeros [a, b]; return .pushb g xd
      | _ => bad
    | 0x40 =>
      match fn with
      | 0 => do zeros [b]; return .rinit g xd xa
      | 1 => .ok (.rwaitf g xd xa xb)
      | 2 => .ok (.rwaite g xd xa xb)
      | 3 => .ok (.rclaim g xd xa xb)
      | 4 => do zeros [d]; return .rpost g xa xb
      | 5 => do zeros [d]; return .rfree g xa xb
      | 7 => if b < 4 then .ok (.crecv g xd xa (.ofNat 2 b)) else bad
      | 8 => do zeros [a]; if b < 4 then return .ccnt g xd (.ofNat 2 b) else bad
      | _ => bad
    | 0x41 =>
      match fn with
      | 0 => .ok (.binit g xd xa xb)
      | 1 => .ok (.binitf g xd xa xb)
      | 2 => do zeros [d, b]; return .bkill g xa
      | 3 => do zeros [b]; return .barr g xd xa
      | 4 => .ok (.bwait g xd xa xb)
      | _ => bad
    | 0x42 =>
      match fn with
      | 0 => do zeros [b]; return .sync g xd xa
      | 1 => do zeros [b]; return .acq g xd xa
      | 2 => do zeros [d, b]; return .rel g xa
      | 3 => if d < 4 then .ok (.sbind g xa xb (.ofNat 2 d)) else bad
      | _ => bad
    | _ =>
      match fn with
      | 0 => do zeros [b]; return .xbeg g xd xa
      | 1 => do zeros [a, b]; return .xend g xd
      | 2 => do zeros [d, a, b]; return .xabt g
      | 3 => do zeros [a, b]; return .xst g xd
      | _ => bad
  | _ => .error .short

/-- Decodes majors 0x12, 0x13 and 0x18: format Q (R147 to R149). -/
def decodeQ (maj w : Nat) : Except DecodeError Instr :=
  match splitFields widthsR w with
  | [_, _, q, a, c, fn, first, last] =>
    let g := guardOf first last
    let qn : BitVec 4 := .ofNat 4 q
    let xa : XReg := .ofNat 4 a
    let cnt : BitVec 4 := .ofNat 4 c
    let bad : Except DecodeError Instr := .error .unassignedSelector
    match maj with
    | 0x12 =>
      match fn with
      | 0 => do zeros [a]; return .give g qn cnt
      | 1 => do zeros [a]; return .take g qn cnt
      | 2 => do zeros [c]; return .tcnt g qn xa
      | 3 => .ok (.tryt g qn xa cnt)
      | _ => bad
    | 0x13 =>
      match fn with
      | 0 => .ok (.qld g qn xa cnt)
      | 1 => .ok (.qldi g qn xa cnt)
      | 2 => .ok (.qrow g qn xa cnt)
      | 3 => .ok (.qrowi g qn xa cnt)
      | 4 => .ok (.qst g qn xa cnt)
      | 5 => .ok (.qsti g qn xa cnt)
      | 6 => do zeros [a]; return .qdrop g qn cnt
      | _ => bad
    | _ =>
      match fn with
      | 0 => do zeros [c]; return .bqput g qn xa
      | _ => bad
  | _ => .error .short

/-- Decodes majors 0x02 to 0x08, 0x0F, 0x17 and 0x19: format I (R130, R136, R142, R92). -/
def decodeI (maj w : Nat) : Except DecodeError Instr :=
  match splitFields widthsI w with
  | [_, _, d, a, imm] =>
    let xd : XReg := .ofNat 4 d
    let xa : XReg := .ofNat 4 a
    let i16 : BitVec 16 := .ofNat 16 imm
    let i6 : BitVec 6 := .ofNat 6 imm
    match maj with
    | 0x02 => .ok (.addi xd xa i16)
    | 0x03 => .ok (.andi xd xa i16)
    | 0x04 => .ok (.ori xd xa i16)
    | 0x05 => .ok (.xori xd xa i16)
    | 0x06 => do zeros [imm / 64]; return .shli xd xa i6
    | 0x07 => do zeros [imm / 64]; return .shri xd xa i6
    | 0x08 => do zeros [imm / 64]; return .srai xd xa i6
    | 0x0F => .ok (.jalr xd xa i16)
    | 0x17 => do zeros [imm / 1024, d]; return .rbset xa (.ofNat 10 imm)
    | _ => do zeros [imm / 8, a, d]; let m ← modeOf imm; return .vrnd m
  | _ => .error .short

/-- Decodes br (R59, R135). -/
def decodeB (w : Nat) : Except DecodeError Instr :=
  match splitFields widthsB w with
  | [_, _, a, b, cnd, off] =>
    let xa : XReg := .ofNat 4 a
    let xb : XReg := .ofNat 4 b
    let o : BitVec 12 := .ofNat 12 off
    match cnd with
    | 6 => do zeros [a, b]; return .bwany o
    | 7 => do zeros [a, b]; return .bwall o
    | 8 => do zeros [a, b]; return .bwnone o
    | 9 => do zeros [b]; return .bwcge xa o
    | 10 => do zeros [a, b]; return .btk o
    | 11 => do zeros [a, b]; return .bnt o
    | 12 => do zeros [a, b]; return .bal o
    | _ => do let c ← pick brTable cnd .unassignedSelector; return c xa xb o
  | _ => .error .short

/-- Decodes csr and sys (R151, R152). -/
def decodeS (maj w : Nat) : Except DecodeError Instr :=
  match splitFields widthsS w with
  | [_, _, d, a, csr, fn] =>
    let xd : XReg := .ofNat 4 d
    let xa : XReg := .ofNat 4 a
    let c : BitVec 12 := .ofNat 12 csr
    let bad : Except DecodeError Instr := .error .unassignedSelector
    match maj with
    | 0x15 =>
      match fn with
      | 0 => do zeros [a]; return .csrr xd c
      | 1 => do zeros [d]; return .csrw c xa
      | 2 => do zeros [d]; return .csrs c xa
      | 3 => do zeros [d]; return .csrc c xa
      | 4 => .ok (.csrx xd c xa)
      | _ => bad
    | _ =>
      match fn with
      | 0 => do zeros [d, a, csr]; return .nop
      | 1 => do zeros [d, a, csr]; return .halt
      | 2 => do zeros [d, a, csr]; return .stop
      | 3 => do zeros [d, a, csr]; return .yield
      | 4 => do zeros [d, a, csr]; return .abort
      | 5 => do zeros [d, a, csr]; return .fence
      | 6 => do zeros [a, csr]; return .tide xd
      | 7 => do zeros [d, a, csr]; return .brk
      | _ => bad
  | _ => .error .short

/-- Decodes ld and st (R134). -/
def decodeM (maj w : Nat) : Except DecodeError Instr :=
  match splitFields widthsM w with
  | [_, _, d, a, i, t, imm] => do
    let ty ← tyOf t
    if maj = 0x0B then return .ld ty (.ofNat 4 d) (.ofNat 4 a) (.ofNat 4 i) (.ofNat 8 imm)
    else return .st ty (.ofNat 4 d) (.ofNat 4 a) (.ofNat 4 i) (.ofNat 8 imm)
  | _ => .error .short

/-- Decodes lui and jal (R131, R136). -/
def decodeU (maj w : Nat) : Except DecodeError Instr :=
  match splitFields widthsU w with
  | [_, _, d, imm] =>
    if maj = 0x09 then .ok (.lui (.ofNat 4 d) (.ofNat 20 imm)) else .ok (.jal (.ofNat 4 d) (.ofNat 20 imm))
  | _ => .error .short

/-- Decodes loop (R138). -/
def decodeLoop (w : Nat) : Except DecodeError Instr :=
  match splitFields widthsLoop w with
  | [_, _, d, a, cnt, ci, len, lvl] =>
    if ci = 0 then do zeros [cnt]; return .loopReg (.ofNat 3 lvl) (.ofNat 6 len) (.ofNat 4 a) (.ofNat 4 d)
    else do zeros [a]; return .loopImm (.ofNat 3 lvl) (.ofNat 6 len) (.ofNat 6 cnt) (.ofNat 4 d)
  | _ => .error .short

/-- Decodes lend (R139). -/
def decodeLend (w : Nat) : Except DecodeError Instr :=
  match splitFields widthsLend w with
  | [_, _, xv, a, rsv, qm, brk, rot, lvl] => do
    zeros [rsv]
    return .lend (.ofNat 3 lvl) (.ofNat 8 rot) (brk == 1) (.ofNat 3 qm) (.ofNat 4 a) (.ofNat 4 xv)
  | _ => .error .short

/-- Decodes a 32-bit word (R59, R76). -/
def decode32 (w : Nat) : Except DecodeError Instr :=
  let maj := bitsOf w 0 0 * 64 + bitsOf w 7 2
  if maj ∈ [0x01, 0x0A, 0x14, 0x40, 0x41, 0x42, 0x43] then decodeR maj w
  else if maj ∈ [0x02, 0x03, 0x04, 0x05, 0x06, 0x07, 0x08, 0x0F, 0x17, 0x19] then decodeI maj w
  else if maj ∈ [0x12, 0x13, 0x18] then decodeQ maj w
  else if maj = 0x0D then decodeB w
  else if maj ∈ [0x15, 0x16] then decodeS maj w
  else if maj ∈ [0x0B, 0x0C] then decodeM maj w
  else if maj ∈ [0x09, 0x0E] then decodeU maj w
  else if maj = 0x10 then decodeLoop w
  else if maj = 0x11 then decodeLend w
  else if 0x44 ≤ maj then .ok (.reservedMajor (.ofNat 32 w))
  else .error .unassignedOp

/-- The words with a destination and two sources in the R161 field block, with their OP (R77). -/
def binTable : List (Nat × (VCtl → WOp → WOp → WOp → Instr)) :=
  [(0x00, .vadd), (0x01, .vsub), (0x02, .vmul), (0x03, .vfma), (0x04, .vfms), (0x05, .vfnma), (0x06, .vmin),
   (0x07, .vmax), (0x0A, .vmulh), (0x0B, .vavg), (0x0C, .vand), (0x0D, .vor), (0x0E, .vxor), (0x10, .vshl),
   (0x11, .vshr), (0x12, .vsra), (0x13, .vrol), (0x1C, .vquant), (0x1D, .vdequant), (0x1E, .vclamp), (0x1F, .vpack),
   (0x2A, .vsel), (0x2B, .vperm)]

/-- The words with a destination and one source, with their OP (R77). -/
def unTable : List (Nat × (VCtl → WOp → WOp → Instr)) :=
  [(0x08, .vabs), (0x09, .vneg), (0x0F, .vnot), (0x14, .vrcp), (0x15, .vrsq), (0x16, .vsqrt), (0x17, .vexp2),
   (0x18, .vlog2), (0x19, .vtanh), (0x1A, .vsigm), (0x31, .vrsum), (0x32, .vrmax), (0x33, .vrmin)]

/-- The compares, with their OP (R168). -/
def cmpTable : List (Nat × (VCtl → MReg → WOp → WOp → Instr)) :=
  [(0x20, .vceq), (0x21, .vcne), (0x22, .vclt), (0x23, .vcle), (0x24, .vcun)]

/-- The mask-logic words, with their OP (R169). -/
def maskTable : List (Nat × (Guard → MReg → MReg → MReg → Instr)) :=
  [(0x25, .vmand), (0x26, .vmor), (0x27, .vmxor), (0x28, .vmandn)]

/-- An ACS address field (R175). -/
def acsOf (f : Nat) : Except DecodeError AcsAddr :=
  match splitFields [4, 7, 3, 4, 6] f with
  | [tile, row, cg, xr, rsv] => do
    zeros [rsv]
    return { tile := .ofNat 4 tile, row := .ofNat 7 row, cg := .ofNat 3 cg, xr := .ofNat 4 xr }
  | _ => .error .short

/-- The bits of an ACS address field (R175). -/
def acsBits (a : AcsAddr) : Nat := joinFields [4, 7, 3, 4, 6] [a.tile.toNat, a.row.toNat, a.cg.toNat, a.xr.toNat, 0]

/-- The scratchpad address of wspill and wfill (R178). -/
def spOf (f : Nat) : SpAddr :=
  { bank := .ofNat 5 (bitsOf f 4 0), off := .ofNat 15 (bitsOf f 19 5), xs := .ofNat 4 (bitsOf f 23 20) }

/-- The bits of the scratchpad address of wspill and wfill (R178). -/
def spBits (a : SpAddr) : Nat := joinFields [5, 15, 4] [a.bank.toNat, a.off.toNat, a.xs.toNat]

/-- Decodes a 96-bit word (R62, R77, R156). -/
def decode96 (w : Nat) : Except DecodeError Instr :=
  match splitFields widths96 w with
  | [_, op, t, p, rbd, rba, rbb, first, last, od, oa, ob] =>
    let g := guardOf first last
    let pred : MReg := .ofNat 3 p
    let d := wopOf od rbd
    let a := wopOf oa rba
    let b := wopOf ob rbb
    let md : MReg := .ofNat 3 od
    match Map.find binTable op, Map.find unTable op, Map.find cmpTable op, Map.find maskTable op with
    | some c, _, _, _ => do let ty ← tyOf t; return c ⟨g, pred, ty⟩ d a b
    | _, some c, _, _ => do zeros [ob, rbb]; let ty ← tyOf t; return c ⟨g, pred, ty⟩ d a
    | _, _, some c, _ => do zeros [od / 8, rbd]; let ty ← tyOf t; return c ⟨g, pred, ty⟩ md a b
    | _, _, _, some c => do
      zeros [od / 8, oa / 8, ob / 8, rbd, rba, rbb, p, t]
      return c g md (.ofNat 3 oa) (.ofNat 3 ob)
    | _, _, _, _ =>
      match op with
      | 0x1B => do
        zeros [ob / 16, rbb]; let ty ← tyOf t; let sty ← tyOf ob; return .vcvt ⟨g, pred, ty⟩ d a sty
      | 0x29 => do zeros [od, oa / 8, ob, rbd, rba, rbb, p]; let ty ← tyOf t; return .vflags g ty (.ofNat 3 oa)
      | 0x2C => do
        zeros [ob / 2048, rbb]; let ty ← tyOf t
        return .vbcast ⟨g, pred, ty⟩ d a (.ofNat 4 (bitsOf ob 10 7)) (.ofNat 7 (bitsOf ob 6 0))
      | 0x2D => do
        zeros [ob / 2048, rbb]; let ty ← tyOf t
        return .vslup ⟨g, pred, ty⟩ d a (.ofNat 4 (bitsOf ob 10 7)) (.ofNat 7 (bitsOf ob 6 0))
      | 0x2E => do
        zeros [ob / 2048, rbb]; let ty ← tyOf t
        return .vsldn ⟨g, pred, ty⟩ d a (.ofNat 4 (bitsOf ob 10 7)) (.ofNat 7 (bitsOf ob 6 0))
      | 0x2F => do zeros [p]; let ty ← tyOf t; return .vzip g ty d a b
      | 0x30 => do zeros [p, ob, rbb]; let ty ← tyOf t; return .vunzip g ty d a
      | 0x38 => do zeros [ob, rbb, rba]; let ty ← tyOf t; let acs ← acsOf oa; return .vaccrd ⟨g, pred, ty⟩ d acs
      | 0x39 => do zeros [ob, rbb, rbd]; let ty ← tyOf t; let acs ← acsOf od; return .vaccwr ⟨g, pred, ty⟩ acs a
      | 0x3A => do
        zeros [bitsOf oa 23 17, rbb, rbd, p, t]
        return .wspill g (spOf ob) ⟨.ofNat 10 oa, .ofNat 7 (bitsOf oa 16 10), rba == 1⟩ (.ofNat 24 od)
      | 0x3B => do
        zeros [bitsOf oa 23 17, rbb, rbd, p, t]
        return .wfill g ⟨.ofNat 10 oa, .ofNat 7 (bitsOf oa 16 10), rba == 1⟩ (spOf ob) (.ofNat 24 od)
      | 0x3C => do
        zeros [bitsOf od 23 13, ob, rbb, rbd]; let ty ← tyOf t
        return .defer ⟨g, pred, ty⟩ a (.ofNat 4 (bitsOf od 12 9)) (.ofNat 4 (bitsOf od 8 5)) (.ofNat 5 (bitsOf od 4 0))
      | 0x3D => do
        zeros [bitsOf oa 23 13, bitsOf oa 3 3, rbb, rba, p]; let ty ← tyOf t
        return .drain g ty d b (.ofNat 3 (bitsOf oa 2 0)) (.ofNat 4 (bitsOf oa 7 4)) (.ofNat 5 (bitsOf oa 12 8))
      | _ => .error .unassignedOp
  | _ => .error .short

/-- The rectangle of scratchpad rows of an AOP field (R74). -/
def rowsOf (f : Nat) : Except DecodeError SpRows := do
  zeros [bitsOf f 23 21]
  return { bank := .ofNat 5 (bitsOf f 4 0), row := .ofNat 8 (bitsOf f 12 5), step := .ofNat 8 (bitsOf f 20 13) }

/-- The bits of a rectangle of scratchpad rows (R74). -/
def rowsBits (r : SpRows) : Nat := joinFields [5, 8, 8, 3] [r.bank.toNat, r.row.toNat, r.step.toNat, 0]

/-- A scale table's address (R73). -/
def tabOf (f : Nat) : SpTab := { off := .ofNat 15 (bitsOf f 14 0), bank := .ofNat 5 (bitsOf f 19 15) }

/-- The bits of a scale table's address (R73). -/
def tabBits (t : SpTab) : Nat := joinFields [15, 5] [t.off.toNat, t.bank.toNat]

/-- Decodes a 192-bit word (R73, R78, R193, R200 to R204). The model's choice: AOP[3:0] of mzero and mtscale is reserved
(notes/assumptions/105.md). -/
def decode192 (w : Nat) : Except DecodeError Instr :=
  match splitFields widths192 w with
  | [_, op, t, act, acc, mm1, first, last, asrc, rba, aop, bbuf, bld, brow, btr, gen, tri, tdiag, tfill, grow, gsz, zpa,
     zpb, sca, scb, rsv] =>
    let g := guardOf first last
    let tile : BitVec 4 := .ofNat 4 act
    let row : BitVec 11 := .ofNat 11 brow
    let latch := [bbuf, bld, brow, btr]
    let rest := [gen, tri, tdiag, grow, gsz, zpa, zpb, sca, scb, rsv]
    match op with
    | 0x00 => do
      zeros [rsv]
      let ty ← tyOf t
      let a ← (if asrc = 1 then Except.ok (ASrc.w (wopOf aop rba)) else do zeros [rba]; return ASrc.sp (← rowsOf aop))
      return .mma
        { g := g, ty := ty, act := tile, acc := acc == 1, mm1 := .ofNat 7 mm1, a := a, bbuf := bbuf == 1,
          bld := bld == 1, brow := row, btr := btr == 1, gen := .ofNat 3 gen, tri := tri == 1, tdiag := .ofNat 8 tdiag,
          tfill := .ofNat 16 tfill, grow := .ofNat 10 grow, gsz := .ofNat 2 gsz, zpa := zpa == 1, zpb := zpb == 1,
          sca := tabOf sca, scb := tabOf scb }
    | 0x01 => do
      zeros ([act, acc, mm1, asrc, rba, aop, bld, tfill] ++ rest); let ty ← tyOf t
      return .mlatch g ty (bbuf == 1) row (btr == 1)
    | 0x02 => do zeros ([t, acc, mm1, asrc, rba, aop, tfill] ++ latch ++ rest); return .mzero g tile
    | 0x03 => do
      zeros ([t, act, acc, mm1 / 8, asrc, rba, aop, tfill] ++ latch ++ rest)
      let m ← modeOf mm1
      return .mrnd g m
    | 0x04 => do zeros ([t, act, acc, mm1, asrc, rba, aop, tfill] ++ latch ++ rest); return .mlease g
    | 0x05 => do zeros ([t, act, acc, mm1, asrc, rba, aop, tfill] ++ latch ++ rest); return .mfree g
    | 0x06 => do
      zeros ([t, acc, mm1, asrc, rba, aop / 16, tfill] ++ latch ++ rest); return .mtcopy g tile (.ofNat 4 aop)
    | 0x07 => do
      zeros ([acc, mm1, asrc, rba, aop / 16, tfill] ++ latch ++ rest); let ty ← tyOf t
      return .mtadd g ty tile (.ofNat 4 aop)
    | 0x08 => do
      zeros ([acc, mm1, asrc, rba, aop] ++ latch ++ rest); let ty ← tyOf t
      return .mtscale g ty tile (.ofNat 16 tfill)
    | 0x09 => do
      zeros ([acc, asrc, rba, tfill] ++ latch ++ rest); let ty ← tyOf t; let r ← rowsOf aop
      return .mtout g ty tile (.ofNat 7 mm1) r
    | 0x0A => do zeros ([t, act, acc, mm1, asrc, rba, aop, tfill] ++ latch ++ rest); return .mwait g
    | _ => .error .unassignedOp
  | _ => .error .short

/-- The length in bytes of the word whose first parcel has these bits (R56). -/
def wordLen (w : Nat) : Nat := if w % 4 = 2 then 12 else if w % 4 = 3 then 24 else 4

/-- Decodes the word whose bits are numbered upward from bit 0 of its first parcel (R56). -/
def decodeBits (w : Nat) : Except DecodeError Instr :=
  if w % 4 = 2 then decode96 w else if w % 4 = 3 then decode192 w else decode32 w

/-- Decodes the word at the head of a list of bytes: the instruction and the bytes after it. -/
def decode (bytes : List Byte) : Except DecodeError (Instr × List Byte) :=
  let n := wordLen (leOf (bytes.take 1))
  if bytes.length < n then .error .short
  else do
    let i ← decodeBits (leOf (bytes.take n))
    return (i, bytes.drop n)

/-- Decodes an Xnim word of a front-end processor (R256); none is another RISC-V word. -/
def decodeFep (w : Nat) : Option Instr :=
  match splitFields widthsFep w with
  | [op, rd, f3, rs1, rs2, f7] =>
    let d : BitVec 5 := .ofNat 5 rd
    let a : BitVec 5 := .ofNat 5 rs1
    let b : BitVec 5 := .ofNat 5 rs2
    if op = 0b0001011 ∧ f7 = 0 then
      match f3 with
      | 0 => some (.rfetch d a b)
      | 1 => some (.bfx d a b)
      | 2 => some (.swait d a b)
      | 3 => some (.dispatch d a b)
      | _ => none
    else none
  | _ => none

/-! The encoder. -/

/-- A word of format R or Q. -/
def encR (maj d a b fn : Nat) (g : Guard) : Nat :=
  joinFields widthsR [maj / 64, maj % 64, d, a, b, fn, g.first.toNat, g.last.toNat]

/-- A word of format I. -/
def encI (maj d a imm : Nat) : Nat := joinFields widthsI [0, maj, d, a, imm]

/-- A word of format B. -/
def encB (a b cnd : Nat) (off : BitVec 12) : Nat := joinFields widthsB [0, 0x0D, a, b, cnd, off.toNat]

/-- A word of format S. -/
def encS (maj d a csr fn : Nat) : Nat := joinFields widthsS [0, maj, d, a, csr, fn]

/-- A 96-bit word of raw fields. -/
def enc96 (op t p rbd rba rbb : Nat) (g : Guard) (od oa ob : Nat) : Nat :=
  joinFields widths96 [2, op, t, p, rbd, rba, rbb, g.first.toNat, g.last.toNat, od, oa, ob]

/-- A 96-bit word with a destination and two sources. -/
def encBin (op : Nat) (c : VCtl) (d a b : WOp) : Nat :=
  enc96 op (tyCode c.ty) c.pred.toNat (bit d.rb) (bit a.rb) (bit b.rb) c.g (wopBits d) (wopBits a) (wopBits b)

/-- A 96-bit word with a destination, a source and a raw OB field. -/
def encUn (op : Nat) (c : VCtl) (d a : WOp) (ob : Nat) : Nat :=
  enc96 op (tyCode c.ty) c.pred.toNat (bit d.rb) (bit a.rb) 0 c.g (wopBits d) (wopBits a) ob

/-- A compare. -/
def encCmp (op : Nat) (c : VCtl) (md : MReg) (a b : WOp) : Nat :=
  enc96 op (tyCode c.ty) c.pred.toNat 0 (bit a.rb) (bit b.rb) c.g md.toNat (wopBits a) (wopBits b)

/-- A mask-logic word. -/
def encMask (op : Nat) (g : Guard) (md ma mb : MReg) : Nat :=
  enc96 op 0 0 0 0 0 g md.toNat ma.toNat mb.toNat

/-- A 192-bit word: OP, TY, ACT, MM1, guard, AOP, BBUF, BROW, BTR, TFILL; every other field zero. -/
def enc192 (op t act mm1 : Nat) (g : Guard) (aop bbuf brow btr tfill : Nat) : Nat :=
  joinFields widths192
    [3, op, t, act, 0, mm1, g.first.toNat, g.last.toNat, 0, 0, aop, bbuf, 0, brow, btr, 0, 0, 0, tfill, 0, 0, 0, 0, 0, 0, 0]

/-- ASRC, RBA and AOP of a tile step's A source (R74). -/
def aSrcBits : ASrc → Nat × Nat × Nat
  | .sp r => (0, 0, rowsBits r)
  | .w f => (1, bit f.rb, wopBits f)

/-- The tile step (R193). -/
def encMma (m : Mma) : Nat :=
  joinFields widths192
    [3, 0, tyCode m.ty, m.act.toNat, bit m.acc, m.mm1.toNat, m.g.first.toNat, m.g.last.toNat, (aSrcBits m.a).1,
     (aSrcBits m.a).2.1, (aSrcBits m.a).2.2, bit m.bbuf, bit m.bld, m.brow.toNat, bit m.btr, m.gen.toNat, bit m.tri,
     m.tdiag.toNat, m.tfill.toNat, m.grow.toNat, m.gsz.toNat, bit m.zpa, bit m.zpb, tabBits m.sca, tabBits m.scb, 0]

/-- An Xnim word (R256). -/
def encFep (rd f3 rs1 rs2 : BitVec 5) : Nat :=
  joinFields widthsFep [0b0001011, rd.toNat, f3.toNat, rs1.toNat, rs2.toNat, 0]

/-- The encoding of a word; none for the steps of the part that no word encodes. -/
def encode : Instr → Option Nat
  | .add g d a b => some (encR 1 d.toNat a.toNat b.toNat 0 g)
  | .sub g d a b => some (encR 1 d.toNat a.toNat b.toNat 1 g)
  | .and g d a b => some (encR 1 d.toNat a.toNat b.toNat 2 g)
  | .or g d a b => some (encR 1 d.toNat a.toNat b.toNat 3 g)
  | .xor g d a b => some (encR 1 d.toNat a.toNat b.toNat 4 g)
  | .shl g d a b => some (encR 1 d.toNat a.toNat b.toNat 5 g)
  | .shr g d a b => some (encR 1 d.toNat a.toNat b.toNat 6 g)
  | .sra g d a b => some (encR 1 d.toNat a.toNat b.toNat 7 g)
  | .slt g d a b => some (encR 1 d.toNat a.toNat b.toNat 8 g)
  | .sltu g d a b => some (encR 1 d.toNat a.toNat b.toNat 9 g)
  | .min g d a b => some (encR 1 d.toNat a.toNat b.toNat 10 g)
  | .max g d a b => some (encR 1 d.toNat a.toNat b.toNat 11 g)
  | .minu g d a b => some (encR 1 d.toNat a.toNat b.toNat 12 g)
  | .maxu g d a b => some (encR 1 d.toNat a.toNat b.toNat 13 g)
  | .mul g d a b => some (encR 1 d.toNat a.toNat b.toNat 14 g)
  | .mulh g d a b => some (encR 1 d.toNat a.toNat b.toNat 15 g)
  | .mulhu g d a b => some (encR 1 d.toNat a.toNat b.toNat 16 g)
  | .div g d a b => some (encR 1 d.toNat a.toNat b.toNat 17 g)
  | .divu g d a b => some (encR 1 d.toNat a.toNat b.toNat 18 g)
  | .rem g d a b => some (encR 1 d.toNat a.toNat b.toNat 19 g)
  | .remu g d a b => some (encR 1 d.toNat a.toNat b.toNat 20 g)
  | .addi d a i => some (encI 2 d.toNat a.toNat i.toNat)
  | .andi d a i => some (encI 3 d.toNat a.toNat i.toNat)
  | .ori d a i => some (encI 4 d.toNat a.toNat i.toNat)
  | .xori d a i => some (encI 5 d.toNat a.toNat i.toNat)
  | .shli d a i => some (encI 6 d.toNat a.toNat i.toNat)
  | .shri d a i => some (encI 7 d.toNat a.toNat i.toNat)
  | .srai d a i => some (encI 8 d.toNat a.toNat i.toNat)
  | .lui d i => some (joinFields widthsU [0, 9, d.toNat, i.toNat])
  | .ext g d a b => some (encR 0x0A d.toNat a.toNat b.toNat 0 g)
  | .extu g d a b => some (encR 0x0A d.toNat a.toNat b.toNat 1 g)
  | .ins g d a b => some (encR 0x0A d.toNat a.toNat b.toNat 2 g)
  | .clz g d a => some (encR 0x0A d.toNat a.toNat 0 3 g)
  | .ctz g d a => some (encR 0x0A d.toNat a.toNat 0 4 g)
  | .popc g d a => some (encR 0x0A d.toNat a.toNat 0 5 g)
  | .rev8 g d a => some (encR 0x0A d.toNat a.toNat 0 6 g)
  | .ld ty d a i m => some (joinFields widthsM [0, 0x0B, d.toNat, a.toNat, i.toNat, tyCode ty, m.toNat])
  | .st ty d a i m => some (joinFields widthsM [0, 0x0C, d.toNat, a.toNat, i.toNat, tyCode ty, m.toNat])
  | .beq a b o => some (encB a.toNat b.toNat 0 o)
  | .bne a b o => some (encB a.toNat b.toNat 1 o)
  | .blt a b o => some (encB a.toNat b.toNat 2 o)
  | .bge a b o => some (encB a.toNat b.toNat 3 o)
  | .bltu a b o => some (encB a.toNat b.toNat 4 o)
  | .bgeu a b o => some (encB a.toNat b.toNat 5 o)
  | .bwany o => some (encB 0 0 6 o)
  | .bwall o => some (encB 0 0 7 o)
  | .bwnone o => some (encB 0 0 8 o)
  | .bwcge a o => some (encB a.toNat 0 9 o)
  | .btk o => some (encB 0 0 10 o)
  | .bnt o => some (encB 0 0 11 o)
  | .bal o => some (encB 0 0 12 o)
  | .jal d o => some (joinFields widthsU [0, 0x0E, d.toNat, o.toNat])
  | .jalr d a i => some (encI 0x0F d.toNat a.toNat i.toNat)
  | .loopReg l n a d => some (joinFields widthsLoop [0, 0x10, d.toNat, a.toNat, 0, 0, n.toNat, l.toNat])
  | .loopImm l n c d => some (joinFields widthsLoop [0, 0x10, d.toNat, 0, c.toNat, 1, n.toNat, l.toNat])
  | .lend l rot brk qm a xv =>
    some (joinFields widthsLend [0, 0x11, xv.toNat, a.toNat, 0, qm.toNat, bit brk, rot.toNat, l.toNat])
  | .give g q c => some (encR 0x12 q.toNat 0 c.toNat 0 g)
  | .take g q c => some (encR 0x12 q.toNat 0 c.toNat 1 g)
  | .tcnt g q a => some (encR 0x12 q.toNat a.toNat 0 2 g)
  | .tryt g q a c => some (encR 0x12 q.toNat a.toNat c.toNat 3 g)
  | .bqput g q a => some (encR 0x18 q.toNat a.toNat 0 0 g)
  | .qld g q a c => some (encR 0x13 q.toNat a.toNat c.toNat 0 g)
  | .qldi g q a c => some (encR 0x13 q.toNat a.toNat c.toNat 1 g)
  | .qrow g q a c => some (encR 0x13 q.toNat a.toNat c.toNat 2 g)
  | .qrowi g q a c => some (encR 0x13 q.toNat a.toNat c.toNat 3 g)
  | .qst g q a c => some (encR 0x13 q.toNat a.toNat c.toNat 4 g)
  | .qsti g q a c => some (encR 0x13 q.toNat a.toNat c.toNat 5 g)
  | .qdrop g q c => some (encR 0x13 q.toNat 0 c.toNat 6 g)
  | .push g d => some (encR 0x14 d.toNat 0 0 0 g)
  | .pushb g d => some (encR 0x14 d.toNat 0 0 1 g)
  | .csrr d c => some (encS 0x15 d.toNat 0 c.toNat 0)
  | .csrw c a => some (encS 0x15 0 a.toNat c.toNat 1)
  | .csrs c a => some (encS 0x15 0 a.toNat c.toNat 2)
  | .csrc c a => some (encS 0x15 0 a.toNat c.toNat 3)
  | .csrx d c a => some (encS 0x15 d.toNat a.toNat c.toNat 4)
  | .nop => some (encS 0x16 0 0 0 0)
  | .halt => some (encS 0x16 0 0 0 1)
  | .stop => some (encS 0x16 0 0 0 2)
  | .yield => some (encS 0x16 0 0 0 3)
  | .abort => some (encS 0x16 0 0 0 4)
  | .fence => some (encS 0x16 0 0 0 5)
  | .tide d => some (encS 0x16 d.toNat 0 0 6)
  | .brk => some (encS 0x16 0 0 0 7)
  | .rbset a i => some (encI 0x17 0 a.toNat i.toNat)
  | .vrnd m => some (encI 0x19 0 0 (modeCode m))
  | .reservedMajor w => some w.toNat
  | .rinit g d a => some (encR 0x40 d.toNat a.toNat 0 0 g)
  | .rwaitf g d a b => some (encR 0x40 d.toNat a.toNat b.toNat 1 g)
  | .rwaite g d a b => some (encR 0x40 d.toNat a.toNat b.toNat 2 g)
  | .rclaim g d a b => some (encR 0x40 d.toNat a.toNat b.toNat 3 g)
  | .rpost g a b => some (encR 0x40 0 a.toNat b.toNat 4 g)
  | .rfree g a b => some (encR 0x40 0 a.toNat b.toNat 5 g)
  | .crecv g d a c => some (encR 0x40 d.toNat a.toNat c.toNat 7 g)
  | .ccnt g d c => some (encR 0x40 d.toNat 0 c.toNat 8 g)
  | .binit g d a b => some (encR 0x41 d.toNat a.toNat b.toNat 0 g)
  | .binitf g d a b => some (encR 0x41 d.toNat a.toNat b.toNat 1 g)
  | .bkill g a => some (encR 0x41 0 a.toNat 0 2 g)
  | .barr g d a => some (encR 0x41 d.toNat a.toNat 0 3 g)
  | .bwait g d a b => some (encR 0x41 d.toNat a.toNat b.toNat 4 g)
  | .sync g d a => some (encR 0x42 d.toNat a.toNat 0 0 g)
  | .acq g d a => some (encR 0x42 d.toNat a.toNat 0 1 g)
  | .rel g a => some (encR 0x42 0 a.toNat 0 2 g)
  | .sbind g a b n => some (encR 0x42 n.toNat a.toNat b.toNat 3 g)
  | .xbeg g d a => some (encR 0x43 d.toNat a.toNat 0 0 g)
  | .xend g d => some (encR 0x43 d.toNat 0 0 1 g)
  | .xabt g => some (encR 0x43 0 0 0 2 g)
  | .xst g d => some (encR 0x43 d.toNat 0 0 3 g)
  | .vadd c d a b => some (encBin 0x00 c d a b)
  | .vsub c d a b => some (encBin 0x01 c d a b)
  | .vmul c d a b => some (encBin 0x02 c d a b)
  | .vfma c d a b => some (encBin 0x03 c d a b)
  | .vfms c d a b => some (encBin 0x04 c d a b)
  | .vfnma c d a b => some (encBin 0x05 c d a b)
  | .vmin c d a b => some (encBin 0x06 c d a b)
  | .vmax c d a b => some (encBin 0x07 c d a b)
  | .vabs c d a => some (encUn 0x08 c d a 0)
  | .vneg c d a => some (encUn 0x09 c d a 0)
  | .vmulh c d a b => some (encBin 0x0A c d a b)
  | .vavg c d a b => some (encBin 0x0B c d a b)
  | .vand c d a b => some (encBin 0x0C c d a b)
  | .vor c d a b => some (encBin 0x0D c d a b)
  | .vxor c d a b => some (encBin 0x0E c d a b)
  | .vnot c d a => some (encUn 0x0F c d a 0)
  | .vshl c d a b => some (encBin 0x10 c d a b)
  | .vshr c d a b => some (encBin 0x11 c d a b)
  | .vsra c d a b => some (encBin 0x12 c d a b)
  | .vrol c d a b => some (encBin 0x13 c d a b)
  | .vrcp c d a => some (encUn 0x14 c d a 0)
  | .vrsq c d a => some (encUn 0x15 c d a 0)
  | .vsqrt c d a => some (encUn 0x16 c d a 0)
  | .vexp2 c d a => some (encUn 0x17 c d a 0)
  | .vlog2 c d a => some (encUn 0x18 c d a 0)
  | .vtanh c d a => some (encUn 0x19 c d a 0)
  | .vsigm c d a => some (encUn 0x1A c d a 0)
  | .vcvt c d a sty => some (encUn 0x1B c d a (tyCode sty))
  | .vquant c d a b => some (encBin 0x1C c d a b)
  | .vdequant c d a b => some (encBin 0x1D c d a b)
  | .vclamp c d a b => some (encBin 0x1E c d a b)
  | .vpack c d a b => some (encBin 0x1F c d a b)
  | .vceq c m a b => some (encCmp 0x20 c m a b)
  | .vcne c m a b => some (encCmp 0x21 c m a b)
  | .vclt c m a b => some (encCmp 0x22 c m a b)
  | .vcle c m a b => some (encCmp 0x23 c m a b)
  | .vcun c m a b => some (encCmp 0x24 c m a b)
  | .vmand g d a b => some (encMask 0x25 g d a b)
  | .vmor g d a b => some (encMask 0x26 g d a b)
  | .vmxor g d a b => some (encMask 0x27 g d a b)
  | .vmandn g d a b => some (encMask 0x28 g d a b)
  | .vflags g ty m => some (enc96 0x29 (tyCode ty) 0 0 0 0 g 0 m.toNat 0)
  | .vsel c d a b => some (encBin 0x2A c d a b)
  | .vperm c d a b => some (encBin 0x2B c d a b)
  | .vbcast c d a xs idx => some (encUn 0x2C c d a (joinFields [7, 4] [idx.toNat, xs.toNat]))
  | .vslup c d a xf amt => some (encUn 0x2D c d a (joinFields [7, 4] [amt.toNat, xf.toNat]))
  | .vsldn c d a xf amt => some (encUn 0x2E c d a (joinFields [7, 4] [amt.toNat, xf.toNat]))
  | .vzip g ty d a b => some (encBin 0x2F ⟨g, 0, ty⟩ d a b)
  | .vunzip g ty d a => some (encUn 0x30 ⟨g, 0, ty⟩ d a 0)
  | .vrsum c d a => some (encUn 0x31 c d a 0)
  | .vrmax c d a => some (encUn 0x32 c d a 0)
  | .vrmin c d a => some (encUn 0x33 c d a 0)
  | .vaccrd c d acs => some (enc96 0x38 (tyCode c.ty) c.pred.toNat (bit d.rb) 0 0 c.g (wopBits d) (acsBits acs) 0)
  | .vaccwr c acs a => some (enc96 0x39 (tyCode c.ty) c.pred.toNat 0 (bit a.rb) 0 c.g (acsBits acs) (wopBits a) 0)
  | .wspill g sp w n =>
    some (enc96 0x3A 0 0 0 (bit w.rb) 0 g n.toNat (joinFields [10, 7] [w.row.toNat, w.slc.toNat]) (spBits sp))
  | .wfill g w sp n =>
    some (enc96 0x3B 0 0 0 (bit w.rb) 0 g n.toNat (joinFields [10, 7] [w.row.toNat, w.slc.toNat]) (spBits sp))
  | .defer c a tag xi k =>
    some (enc96 0x3C (tyCode c.ty) c.pred.toNat 0 (bit a.rb) 0 c.g (joinFields [5, 4, 4] [k.toNat, xi.toNat, tag.toNat])
      (wopBits a) 0)
  | .drain g ty d idx md tag k =>
    some (enc96 0x3D (tyCode ty) 0 (bit d.rb) 0 0 g (wopBits d)
      (joinFields [3, 1, 4, 5] [md.toNat, 0, tag.toNat, k.toNat]) (wopBits idx))
  | .mma m => some (encMma m)
  | .mlatch g ty bb r btr => some (enc192 0x01 (tyCode ty) 0 0 g 0 (bit bb) r.toNat (bit btr) 0)
  | .mzero g t => some (enc192 0x02 0 t.toNat 0 g 0 0 0 0 0)
  | .mtcopy g t src => some (enc192 0x06 0 t.toNat 0 g src.toNat 0 0 0 0)
  | .mtadd g ty t src => some (enc192 0x07 (tyCode ty) t.toNat 0 g src.toNat 0 0 0 0)
  | .mtscale g ty t v => some (enc192 0x08 (tyCode ty) t.toNat 0 g 0 0 0 0 v.toNat)
  | .mtout g ty t mm1 r => some (enc192 0x09 (tyCode ty) t.toNat mm1.toNat g (rowsBits r) 0 0 0 0)
  | .mrnd g m => some (enc192 0x03 0 0 (modeCode m) g 0 0 0 0 0)
  | .mlease g => some (enc192 0x04 0 0 0 g 0 0 0 0 0)
  | .mfree g => some (enc192 0x05 0 0 0 g 0 0 0 0 0)
  | .mwait g => some (enc192 0x0A 0 0 0 g 0 0 0 0 0)
  | .rfetch d a b => some (encFep d 0 a b)
  | .bfx d a b => some (encFep d 1 a b)
  | .swait d a b => some (encFep d 2 a b)
  | .dispatch d a b => some (encFep d 3 a b)
  | _ => none

/-- The length in bytes of an instruction that a word encodes. -/
def encodedLen (i : Instr) : Nat :=
  match i with
  | .rfetch .. | .bfx .. | .swait .. | .dispatch .. => 4
  | _ => match encode i with
    | some w => wordLen w
    | none => 0

/-- The bytes of a word as they lie in memory, the first parcel lowest and every parcel little-endian (R3, R56). -/
def wordBytes (w : Nat) : List Byte := leBytes (wordLen w) w

/-- The word is one of a front-end processor: 32 bits whose two low bits are 0b11 (R256), where a core's word of that
class has 192 bits (R56). -/
def isFepWord (nbits w : Nat) : Bool := decide (nbits ≤ 32) && decide (w % 4 = 3)

/-- The instruction that the decoder reads from the word whose bits are `w`, numbered as spec/opcode_table.json numbers
them. -/
def decodeTableWord (nbits w : Nat) : Option Instr :=
  let v := w % 2 ^ nbits
  if isFepWord nbits w then decodeFep v
  else
    match decode (wordBytes v) with
    | .ok (i, _) => some i
    | .error _ => none

end Sys2Proof
end

