-- ==== Sys2Proof/Config.lean ====
section
/-! DEFINITION. What an implementation fixes and what the spec leaves open: the opaque constants have no body, so that
nothing can be proved of the value they give (notes/assumptions/6.md). -/

namespace Sys2Proof

/-- Which part of the machine moves next: an element of `State.agenda`, and the answer of `Config.schedule`. -/
inductive Turn where
  /-- a sequencer of a core attempts the word at its pc -/
  | seq (core : Nat) (st : Stream)
  /-- a front-end processor executes the word at its pc -/
  | fep (n : Nat)
  /-- a step of the part that no word encodes -/
  | event (i : Instr)
  /-- one E-cycle of a core passes (R5) -/
  | cycle (core : Nat)
  /-- one MXA cycle of a cluster passes (R5) -/
  | mxaCycle (cl : Nat)
  /-- one CPE cycle of a cluster passes (R5) -/
  | cpeCycle (cl : Nat)
  /-- the flit at the head of a dike-link port's receive buffer performs, or what a port holds up goes out (R328, R332) -/
  | link (port : Nat)
  /-- one REFCLK tick passes (R5) -/
  | tick
deriving DecidableEq, Repr, Inhabited

namespace Config

/-- What moves when the agenda is empty (R101, notes/assumptions/1.md). -/
opaque schedule : Nat → Turn
/-- Which of the TLBs that hold a leaf for the page serves an access, or none of them, so that it walks (R310). -/
opaque tlbUse : Nat → Nat
/-- Which LG leaf of a block translates an access (R307). -/
opaque lgPick : Nat → Nat
/-- Whether a vaccrd already sees a write that the array has not completed (R177). -/
opaque accPrefix : Nat → Bool
/-- Whether a signature verifies against the public key that a key identifier names, over a message (R24, R53): ML-DSA-65. -/
opaque verify : List Byte → List Byte → List Byte → Bool
/-- The SHAKE256 digest of some bytes, in bytes of output (R24, R53). -/
opaque digest : Nat → List Byte → List Byte
/-- The bytes of the image of a SAVED position in its save area, whose layout is not architectural (R281): number of the free value,
place in the 64 KiB. -/
opaque image : Nat → Nat → Byte
/-- The signature of a message under a secret key (R24): ML-DSA-65. -/
opaque sign : List Byte → List Byte → List Byte
/-- The rollback counter held in the enclave (R24). -/
opaque rollback : Nat
/-- The rollback counter that the bytes of an image of the package state (R24). -/
opaque imageCounter : List Byte → Nat
/-- The ranges of the tier-2 ports that the bytes of a configuration image assign: port, base, size in MiB (R19, R324). -/
opaque imageRanges : List Byte → List (Nat × Nat × Nat)
/-- The bytes that those of a firmware image put into the local memories of front-end processors: processor, address, bytes (R24,
R256). -/
opaque imageCode : List Byte → List (Nat × Nat × List Byte)
/-- The key identifier under which package images are signed (R24). -/
opaque rootKey : List Byte
/-- Leakage and front-end power of the package in watts, at an evaluation of the arbiter (R352). -/
opaque fixedPower : Nat → Nat
/-- The demand of a tier in watts at an evaluation of the arbiter (R352). -/
opaque tierDemand : Nat → Nat → Nat
/-- The gap the arbiter sets in a queue so that each tier's draw stays within its grant (R352): evaluation, cluster,
queue (0 MXA, 1 CPE), the grants of the tiers. -/
opaque arbGap : Nat → Nat → Nat → List Nat → Nat
/-- The package's projected draw with every ARB at its CEIL (R354). -/
opaque projected : Nat → Nat
/-- The common factor by which the override raises ARB above CEIL in the queues of a tier, in 2^-16 above 1 (R354):
evaluation, tier. -/
opaque overrideFactor : Nat → Nat → Nat
/-- The lowest tier number whose queues the override paces in an interval (R354). -/
opaque overrideTier : Nat → Nat
/-- The reading of a core's own sensor in degrees (R357): number of the free value, core. -/
opaque sensor : Nat → Nat → Nat
/-- Whether a drooping island skips the edges of a cycle (R355): island, number of the free value. -/
opaque skips : Nat → Nat → Bool
/-- Sign of an accumulator element whose exact total is zero with terms of both signs (R96). -/
opaque zeroSign : Nat → Nat → Bool
/-- The device's own number, exchanged at training (R325). -/
opaque deviceNumber : Nat
end Config

end Sys2Proof
end

