-- ==== Sys2Proof/Machine/State.lean ====
section
/-! DEFINITION. The state of the package as plain data, and the state after reset. Every structure's field names the rule that
gives it; a default value is the value at reset (INVENTORY.md, ## State). -/

namespace Sys2Proof.Machine

/-- Why the machine stops with a fault. -/
inductive Fault where
  /-- Raised by HOST_MEMORY_WRITE for a byte at a reserved physical address: R19 gives it no contents. Safe. -/
  | physicalHole (pa : Nat)
deriving DecidableEq, Repr

/-- Why a step has no meaning. -/
inductive Refusal where
  /-- Raised by an arm of `exec` for an instruction without a meaning yet. Safe. -/
  | notModelled (mnemonic : String)
  /-- Raised by `step` for a front-end processor whose word is a RISC-V base instruction, whose effect is outside the spec
  (R256). Safe. -/
  | fepBaseWord (w : Nat)
deriving DecidableEq, Repr

/-- The causes of a trap record (R235). -/
inductive Cause where
  | illegalEnc | wRange | queueMisuse | pageAbsent | pageProt | pageType | poison | quotaMem | quotaVer | barrierFault
  | barrierReset | engineFault | migrationRedirect | abortLine
deriving DecidableEq, Repr

/-- Active loop levels of a pushing word: level, instance number, iteration (R144, R146). -/
abbrev Tag := List (Nat × Nat × Nat)

/-- Who owns a provisional version (R102, R108); `remote` is a command of a peer device, by dike-link port and number
(R121). -/
inductive Owner where
  | group (id : Nat) | txn (id : Nat) | cmd (id : Nat) | remote (port id : Nat)
deriving DecidableEq, Repr

/-- A version of a line of a V page (R102, R109, R314): committed when it has no owner. -/
structure Version where
  tide : Nat := 0
  owner : Option Owner := none
  data : List Byte := []
  poison : Bool := false
  /-- its mark comes of a MARGIN event (R356) -/
  margin : Bool := false
  /-- the region record whose chain was charged (R314) -/
  node : Nat := 0
  polder : Nat := 0
  /-- the virtual address of the line at the write that made it, which bound regions name (R115, R296) -/
  va : Nat := 0
deriving DecidableEq, Repr

/-- One loop level of a sequencer (R123, R138). -/
structure Level where
  act : Bool := false
  lc : BitVec 32 := 0
  ls : Word := 0
  it : BitVec 32 := 0
  top : BitVec 56 := 0
  len : BitVec 6 := 0
  /-- the address of the LEN-th word after the loop word -/
  lendAt : BitVec 56 := 0
  inst : Nat := 0
deriving DecidableEq, Repr

/-- What a waiting word of chapter 14 waits for (R294). -/
inductive ObjWait where
  | bwait (pa target : Nat) | rwaite (pa n : Nat) | rwaitf (pa n : Nat) | crecv (c : Nat)
deriving DecidableEq, Repr

/-- What a word waits for at issue besides a queue entry, a token or an object (R125, R279). -/
inductive IssueWait where
  /-- room in a branch queue (R139, R148) -/
  | bqRoom (qn : Nat)
  /-- room in an operand queue, and for `alone` no entry on its way to it (R149) -/
  | qRoom (qn : Nat) (alone : Bool)
  /-- room in a result queue (R67) -/
  | yRoom (y : Nat)
  /-- its issue buffer is empty (R294, R179, R318) -/
  | ib
  /-- no xbeg or xend stands in its issue buffer (R318, R319) -/
  | txn
  /-- its issue buffer is empty and its plain stores have drained (R152) -/
  | fence
  /-- its plain stores have drained (R115) -/
  | stores
  /-- a command can enter the FIFO (R150) -/
  | push
  /-- a hop of an island has ended (R241) -/
  | hop (island : Nat)
  /-- room in the matrix command order and, for a compute word, credit (R185) -/
  | order (compute : Bool)
  /-- no vaccwr stands in the matrix command order (R177) -/
  | vaccwr
  /-- every matrix entry has completed or been applied (R204) -/
  | array
  /-- a page move has ended (R312), and the islands of the access take cycles (R351) -/
  | move (polder va : Nat)
  /-- an island takes cycles (R351, R355) -/
  | island (i : Nat)
  /-- the front end's accesses to its region's tables are not held (R312) -/
  | tables
deriving DecidableEq, Repr

/-- Why a sequencer is held at issue (R125, R154). -/
inductive Hold where
  | none
  | emptyQueue (qn : Nat)
  | take (qn n : Nat)
  | pop
  | obj (w : ObjWait)
  /-- C waits at a YIELD (R154) -/
  | yield
  /-- any other wait at issue -/
  | wait (w : IssueWait)
deriving DecidableEq, Repr

/-- The operation of an issue-buffer entry (R103). -/
inductive IbOp where
  | load (ty : Ty) (xd : XReg) (ea : Nat)
  | store (ea : Nat) (data : List Byte)
  | qld (qn : Nat) (ea : Nat)
  | qst (ea : Nat) (data : List Byte)
  | spill (addr : Nat) (data : List Byte)
  | push (words : List Word) (xd : XReg)
  | give (qn n : Nat)
  | tide (xd : XReg)
  | rinit (xd : XReg) (va : Nat)
  | rclaim (xd : XReg) (va n : Nat)
  | rpost (va i : Nat)
  | rfree (va i : Nat)
  | binit (xd : XReg) (va p : Nat) (force : Bool)
  | sync (xd : XReg) (va : Nat)
  | acq (xd : XReg) (va : Nat)
  | rel (va : Nat)
  | sbind (va desc n : Nat)
  | xbeg (xd : XReg) (retry : Bool)
  | xend (xd : XReg)
  | marker (id : Nat)
  /-- a word of chapter 14 held at issue whose object access faulted: kind of the object, 0 for a culvert's scratchpad
  address; once the access stands, the word is attempted again (R126, R294) -/
  | recheck (va kind : Nat) (writes : Bool)
deriving DecidableEq, Repr

/-- An entry of an issue buffer: the operation, the address of its word, the number of W-file results issued before it
(R71, R107) and the iteration of its word (R146). -/
structure IbEntry where
  op : IbOp
  wpc : BitVec 56 := 0
  no : Nat := 0
  tag : Tag := []
  /-- its read was not answered before its tier-2 port was lost: a poisoned line answers it (R324) -/
  lost : Bool := false
deriving DecidableEq, Repr

/-- A sequencer (R123). x0 is not held: it reads 0. -/
structure Seq where
  x : Map Word := []
  pc : BitVec 56 := 0
  lv : Map Level := []
  rb : BitVec 10 := 0
  /-- the replay buffer: bytes of the words of the outermost active loop by address (R57, R138) -/
  replay : Map (List Byte) := []
  ib : List IbEntry := []
  /-- `stop`, `halt` or the abort line has stopped it (R145, R152, R153, R279) -/
  stopped : Bool := false
  held : Hold := .none
  /-- earliest E-cycle of its next issue (R125, R179, R187) -/
  next : Nat := 0
  /-- entries of the current qmov word already moved (R149) -/
  prog : Nat := 0
  /-- the fetch of the word at its pc was not answered before its tier-2 port was lost: a poisoned line answers it (R324) -/
  lost : Bool := false
  /-- the next push that stopped while blocked writes an ABORT_LINE record (R279) -/
  blockedAtAbort : Bool := false
deriving DecidableEq, Repr

/-- An entry of an operand queue (R124). -/
structure QEntry where
  data : BitVec 512 := 0
  tag : Tag := []
  /-- delivered by a gather (R216) -/
  cmd : Option Nat := none
  /-- the sequencer whose word pushed it, or the gather that delivers it (R146, R216) -/
  st : Stream := .l
  /-- it holds an uncorrectable error, and whether that was a MARGIN event (R320, R356) -/
  poison : Option Bool := none
deriving DecidableEq, Repr

/-- An entry of a result queue: reserved at issue, visible to S once ready (R67). -/
structure YSlot where
  no : Nat := 0
  ready : Bool := false
  /-- removed by a cut or the abort line before it landed (R146) -/
  dead : Bool := false
  data : BitVec 512 := 0
  tag : Tag := []
  /-- it holds an uncorrectable error, and whether that was a MARGIN event (R320, R356) -/
  poison : Option Bool := none
deriving DecidableEq, Repr

/-- A result still to land (R69, R70, R158). -/
structure Landing where
  /-- issue order -/
  no : Nat := 0
  /-- the E-cycle at whose start it lands -/
  due : Nat := 0
  /-- W slices: linear position and value -/
  slices : List (Nat × BitVec 4) := []
  /-- mask writes: mask, bits written, their values -/
  masks : List (Nat × BitVec 128 × BitVec 128) := []
  wf : Option (BitVec 32) := none
  /-- the y queue that holds its reserved entry -/
  y : Option Nat := none
  /-- NSTAT bits it records (R95) -/
  nstat : BitVec 32 := 0
deriving DecidableEq, Repr

/-- A record of the backwater queue (R180). -/
structure BackRec where
  tag : Nat
  k : Nat
  width : Nat
  lane : Nat
  index : Nat
  elems : List Nat
deriving DecidableEq, Repr

/-- The operation of an entry of the matrix command order (R183). -/
inductive MOp where
  | mma (m : Mma)
  | mlatch (ty : Ty) (bbuf : Bool) (brow : Nat) (btr : Bool)
  | mzero (t : Nat)
  | mtcopy (t src : Nat)
  | mtadd (ty : Ty) (t src : Nat)
  | mtscale (t : Nat) (v : BitVec 16)
  | mtout (ty : Ty) (t rows : Nat) (sp : SpRows)
  | mrnd
  | mlease
  | mfree
  | vaccwr (elems : List (Nat × BitVec 32))
deriving DecidableEq, Repr

/-- An entry of the matrix command order with what its word sampled at issue (R185, R187). -/
structure MEntry where
  op : MOp
  mode : RMode := .rne
  /-- A rows captured from the W file, 1,024 bits each -/
  rows : List (BitVec 1024) := []
  /-- the permutation's index rows -/
  perm : BitVec 1024 := 0
deriving DecidableEq, Repr

/-- Lease states (R190). -/
inductive Lease where
  | closed | requested | held | parked
deriving DecidableEq, Repr

/-- A latch buffer (R183): bytes by column·128 + k, and its poisoned bytes (R199). -/
structure Latch where
  bytes : Map Byte := []
  poison : List Nat := []
deriving DecidableEq, Repr

/-- A recorded cut (R144): level, instance number, C's iteration. -/
structure Cut where
  lvl : Nat
  inst : Nat
  iter : Nat
deriving DecidableEq, Repr

/-- A trap asked for or taken (R233, R234). -/
structure TrapReq where
  cause : Cause
  async : Bool := false
  st : Stream := .c
  /-- the faulting word, for a FAULT -/
  wpc : BitVec 56 := 0
  detail : Nat := 0
  faddr : Nat := 0
  tag : Nat := 0
  opc : Nat := 0
  sub : Nat := 0
  index : Nat := 0
  done : Nat := 0
  /-- found at the head of an issue buffer (R122) -/
  atHead : Bool := false
  /-- a take met a marked kme token (R199) -/
  mark : Bool := false
  /-- the suspended command (R227) -/
  cmd : Option Nat := none
deriving DecidableEq, Repr

/-- Bank context states (R231). -/
inductive CtxState where
  | empty | running | draining | stopped | parked | swapping
deriving DecidableEq, Repr

/-- Why a context drains (R231): the events FAULT or TRAP, SWAP, STOP. -/
inductive DrainFor where
  | trap (t : TrapReq) | swap | debugStop
deriving DecidableEq, Repr

/-- An open transaction (R318). -/
structure Txn where
  id : Nat
  begin : Nat
  snap : Nat
  doomed : Bool := false
  pinned : Bool := false
deriving DecidableEq, Repr

/-- A slice rectangle (R280, R285). -/
structure Rect where
  row0 : Nat
  nrows : Nat
  slc0 : Nat
  nslc : Nat
deriving DecidableEq, Repr

/-- A group's place (R280, R282). -/
structure GroupId where
  region : Nat := 0
  stage : Nat := 0
  gidx : Nat := 0
deriving DecidableEq, Repr

/-- A bank context (R230). -/
structure Ctx where
  st : CtxState := .empty
  /-- the state it had when a swap began (R231) -/
  was : CtxState := .empty
  seqC : Seq := {}
  seqL : Seq := {}
  seqE : Seq := {}
  seqS : Seq := {}
  /-- token counts by QN 0 to 11 (R124, R147) -/
  tok : Map Nat := []
  /-- kme: tokens in order, each with the ACT of its mark if it is marked (R199) -/
  kme : List (Option Nat) := []
  /-- bql, bqe, bqs by QN 13 to 15 -/
  bq : Map (List Bool) := []
  /-- q0 to q7 -/
  q : Map (List QEntry) := []
  /-- y0 to y3 -/
  y : Map (List YSlot) := []
  /-- the W bank by linear slice position (R64) -/
  w : Map (BitVec 4) := []
  wPoison : List Nat := []
  /-- m1 to m7 -/
  masks : Map (BitVec 128) := []
  mPoison : List Nat := []
  /-- the flag word as C sees it (R128) -/
  wf : BitVec 32 := 0x200
  /-- landed flag words that C does not see yet, with the E-cycle from which it does -/
  wfNext : List (Nat × BitVec 32) := []
  pend : List Landing := []
  /-- number of the next result to land -/
  pendNo : Nat := 1
  nstat : BitVec 32 := 0
  vmode : RMode := .rne
  mmode : RMode := .rne
  ecyc : Word := 0
  back : List BackRec := []
  order : List MEntry := []
  /-- matrix entries put in the order and not yet completed or applied (R153, R204) -/
  mxOut : Nat := 0
  lb0 : Latch := {}
  lb1 : Latch := {}
  leaseOpen : Bool := false
  lease : Lease := .closed
  /-- the term must end after the running word (R190) -/
  endTerm : Bool := false
  /-- ineligible until the sluice can pay (R190) -/
  unpaid : Bool := false
  termCount : Nat := 0
  credit : Nat := 0
  cuts : List Cut := []
  /-- cuts through which L has left (R146) -/
  leftL : List Cut := []
  /-- L has left under the abort line (R146) -/
  abortL : Bool := false
  /-- traps waiting, in arrival order (R233) -/
  traps : List TrapReq := []
  /-- what it drains for, and the E-cycle of the event (R232) -/
  drain : Option DrainFor := none
  eventAt : Nat := 0
  shd : Nat := 0
  /-- the trap whose shadow-clear point has come: its record waits for room, or the policy is not yet applied (R236, R270) -/
  taken : Option TrapReq := none
  /-- the notify-host policy holds it (R268) -/
  notified : Bool := false
  rarg : Word := 0
  gidx : BitVec 24 := 0
  gcnt : BitVec 24 := 0
  stgn : BitVec 4 := 0
  grun : BitVec 16 := 0
  lcore : BitVec 16 := 0
  /-- the group that it runs -/
  group : GroupId := {}
  /-- owner number of the group's versions (R102); 0 none -/
  oid : Nat := 0
  begin : Nat := 0
  snap : Nat := 0
  pinned : Bool := false
  /-- its first word has issued (R108) -/
  started : Bool := false
  txn : Option Txn := none
  lastAborted : Option Nat := none
  /-- from the descriptor (R280) -/
  bankSet : BitVec 24 := 0
  persist : Bool := false
  save : Nat := 0
  rects : List Rect := []
  culs : List Nat := []
  /-- `halt` has issued (R282) -/
  retiring : Bool := false
  /-- C stands at a YIELD boundary (R282) -/
  boundary : Bool := false
  /-- the group samples or has stopped under the abort line (R279) -/
  aborted : Bool := false
  /-- MIGRATION_REDIRECT records still to be written, before its first word after a move (R367) -/
  redirects : List TrapReq := []
  /-- commands whose steps or ends were held for its image and are still to be applied, before any of its words issues (R288) -/
  restoring : List Nat := []
  /-- its polder, owner number, tier, terp (R266, R276) -/
  polder : Nat := 0
  owner : Nat := 0
  tier : Nat := 0
deriving DecidableEq, Repr

/-- A culvert (R302). Size 0: CLOSED. -/
structure Culvert where
  size : Nat := 0
  entries : List (List Byte) := []
deriving DecidableEq, Repr

/-- An entry of a core's store buffer, with the group and the sequencer that put it there (R104). -/
structure SbEntry where
  pa : Nat
  data : List Byte
  oid : Nat := 0
  st : Stream := .c
deriving DecidableEq, Repr

/-- A core (R14, R230). -/
structure Core where
  a : Ctx := {}
  b : Ctx := {}
  /-- bank B is the active bank -/
  activeB : Bool := false
  /-- the scratchpad by bank·32,768 + offset (R16, R133) -/
  sp : Map Byte := []
  spPoison : List Nat := []
  /-- BFMT0 to BFMT23 (R87) -/
  bfmt : Map (BitVec 32) := []
  cul : Map Culvert := []
  sb : List SbEntry := []
  /-- commands in flight (R150) -/
  inflight : Nat := 0
  /-- CLKDIV.DENY and ISL (R240) -/
  deny : Bool := false
  isl : BitVec 2 := 0
  /-- E-cycles passed (R5) -/
  cyc : Nat := 0
  /-- the REFCLK tick at which a swap in progress ends (R237) -/
  swapEnd : Option Nat := none
  /-- frozen, and frozen cycles still to pass (R239) -/
  frozen : Bool := false
  freezeLeft : Nat := 0
  /-- a migration request stands; excluded from placement (R289, R290, R357) -/
  migReq : Bool := false
  excluded : Bool := false
deriving DecidableEq, Repr

/-- A matrix word that the array runs (R188, R193). -/
structure Run where
  entry : MEntry
  core : Nat
  oid : Nat
  /-- MXA cycle of its start -/
  start : Nat
  /-- rows of the tile already written -/
  rows : Nat := 0
  /-- scale tables read at the start (R86): entries of A and of B -/
  sa : List Nat := []
  sb : List Nat := []
  /-- bytes of a latch load read at the start, by column·128 + k -/
  load : Map Byte := []
  loadPoison : List Nat := []
  /-- elements, by row·128 + column, that a vaccrd has already seen with their new values (R177) -/
  early : List Nat := []
  /-- the latch buffer that the word reads, as it stood at the start -/
  latch : Latch := {}
  /-- rows of A read so far from the scratchpad, each as one number, with whether a mark, or the mark of a MARGIN event, lies in it
  (R193) -/
  aRows : List (Nat × Bool × Bool) := []
  nstat : BitVec 32 := 0
  /-- a poisoned byte, and one poisoned by a MARGIN event, has reached an element (R199, R356) -/
  marked : Bool := false
  margin : Bool := false
  /-- its token is given and only its latch load still runs (R189, R193, R197) -/
  given : Bool := false
deriving DecidableEq, Repr

/-- A matrix array (R184 to R192). -/
structure Mxa where
  run : Option Run := none
  /-- the core whose active context holds the term -/
  holder : Option Nat := none
  /-- core within the cluster of the last term granted (R192) -/
  last : Nat := 3
  /-- tick of the last start (R188) -/
  lastStart : Option Nat := none
  /-- MXA cycles in which the holder's order has been empty (R190) -/
  idle : Nat := 0
  cyc : Nat := 0
  frozen : Bool := false
  freezeLeft : Nat := 0
deriving DecidableEq, Repr

/-- An element of a command FIFO (R102, R120). -/
inductive FifoE where
  | cmd (id : Nat) | marker (id : Nat)
deriving DecidableEq, Repr

/-- A copy engine (R208, R209). -/
structure Cpe where
  /-- command FIFOs by core within the cluster -/
  fifo : Map (List FifoE) := []
  /-- started commands -/
  run : List Nat := []
  last : Nat := 3
  lastDeq : Option Nat := none
  frozen : Bool := false
  freezeLeft : Nat := 0
deriving DecidableEq, Repr

/-- A PACE register (R353). -/
structure Pace where
  host : BitVec 16 := 0
  arb : BitVec 16 := 0
  ceil : BitVec 16 := 0xFFFF
  /-- the envelope override paces the queue in this interval (R354) -/
  overridden : Bool := false
deriving DecidableEq, Repr

/-- A cluster (R14). -/
structure Cluster where
  /-- the ACS by tile·16,384 + row·128 + column (R16, R175) -/
  acs : Map (BitVec 32) := []
  /-- poisoned elements of the ACS -/
  acsPoison : List Nat := []
  /-- the B-store by slice·262,144 + offset (R16, R197) -/
  bst : Map Byte := []
  bstPoison : List Nat := []
  mxa : Mxa := {}
  cpe : Cpe := {}
  paceM : Pace := {}
  paceC : Pace := {}
deriving DecidableEq, Repr

/-- How far a command has come to its end (R211). -/
inductive CmdEnd where
  /-- performing steps -/
  | running
  /-- every step performed; the commit step is next -/
  | stepped
  /-- it has ended with ENGINE_FAULT; its completion word is the last step of its end (R212) -/
  | faulted
  /-- committed; its arrival is next -/
  | committed
  /-- its arrival is held for the next phase (R299) -/
  | heldArrival
  /-- the completion word is next -/
  | arrived
  /-- its NSTAT events are next -/
  | worded
  /-- leaving the count of commands in flight is next -/
  | recorded
deriving DecidableEq, Repr

/-- A pushed command (R205 to R212). -/
structure Cmd where
  id : Nat
  /-- the 64 bytes as x8 to x15 -/
  words : List Word
  /-- owner number of the pushing group, and its place -/
  oid : Nat
  group : GroupId := {}
  st : Stream := .c
  tag : Tag := []
  polder : Nat := 0
  owner : Nat := 0
  tier : Nat := 0
  /-- the core in whose FIFO it waits -/
  core : Nat := 0
  /-- the core whose count of commands in flight it is in (R150, R289) -/
  cnt : Nat := 0
  begin : Nat := 0
  snap : Nat := 0
  /-- its read view: the lines of which its pusher held a provisional version at the push, by line address, each with its bytes
  and its mark then; for every other line the pusher's snapshot (R117) -/
  view : Map (List Byte × Bool) := []
  rsnap : Nat := 0
  /-- an accum's old value that its next step writes at RET (R218) -/
  hold : Option Nat := none
  started : Bool := false
  /-- destination bytes or elements stepped -/
  cur : Nat := 0
  /-- bytes within the current element (R215) -/
  off : Nat := 0
  done : Nat := 0
  zcnt : Nat := 0
  /-- the address that the current element's index gave, once a part of the element has moved (R215) -/
  elemAt : Option Nat := none
  /-- the current element has already been counted in `zcnt` -/
  zeroed : Bool := false
  nstat : BitVec 32 := 0
  /-- lines of its next step's reads, by virtual address, that were not answered before their tier-2 port was lost: poisoned lines
  answer them (R324) -/
  lost : List Nat := []
  /-- suspended under R227 -/
  susp : Bool := false
  status : Nat := 0
  ending : CmdEnd := .running
  /-- the tide of its commit step -/
  tc : Nat := 0
  /-- its destination byte count, with which it arrives at a barrier (R211, R299) -/
  bytes : Nat := 0
  /-- BFMT values of source and destination sampled at dequeue (R88) -/
  fmt : Nat × Nat := (15, 15)
  /-- a linked signal's port and peer address, as its entry stood at the signal's start (R330) -/
  link : Option (Nat × Nat) := none
  /-- invalidation marker of an inval, or of the page move it waits for -/
  wait : Option Nat := none
  /-- flits sent and not yet acknowledged (R221) -/
  unacked : Nat := 0
  /-- the verdict record of an owner command that is still to be written (R225, R343) -/
  record : List Byte := []
  /-- its group is killed: it ends at its next step (R229) -/
  killed : Bool := false
deriving DecidableEq, Repr

/-- A waiter of an object (R294): owner number and sequencer. -/
structure Waiter where
  oid : Nat
  st : Stream
  w : ObjWait
  /-- the register that the word writes when it performs -/
  xd : XReg := 0
deriving DecidableEq, Repr

/-- What the device keeps of an object beside its slot image (R294, R299, R300). -/
structure ObjX where
  /-- claims: start, count, posted -/
  claims : List (Nat × Nat × Bool) := []
  /-- takes: start, count, freed -/
  takes : List (Nat × Nat × Bool) := []
  waiters : List Waiter := []
  /-- commands whose arrival is held for the next phase -/
  arrivals : List Nat := []
deriving DecidableEq, Repr

/-- Region states (R273). -/
inductive RState where
  | free | running | preempted | aborting | killing | done | killed
deriving DecidableEq, Repr

/-- A stage of a region (R271, R277). -/
structure Stage where
  gdesc : Nat := 0
  inRing : Nat := 0
  outRing : Nat := 0
  count : Nat := 0
  minc : Nat := 0
  maxc : Nat := 0
  next : Nat := 0
  target : Nat := 0
deriving DecidableEq, Repr

/-- A grid position returned to PENDING by a restart (R286). -/
structure Returned where
  stage : Nat
  gidx : Nat
  begin : Nat
  grun : BitVec 16
deriving DecidableEq, Repr

/-- A launched region (R265 to R279), by the physical address of its RCB. -/
structure Region where
  st : RState := .free
  polder : Nat := 0
  owner : Nat := 0
  tier : Nat := 0
  terp : Nat := 0
  /-- effective values along its chain (R266) -/
  policy : Nat := 4
  fdom : Nat := 0
  maxc : Nat := 1
  /-- physical addresses of the chain: region, owner, polder, root -/
  chain : List Nat := []
  /-- virtual address of its guest part -/
  guest : Nat := 0
  arg : Word := 0
  ng : Nat := 0
  stages : List Stage := []
  /-- virtual address of its stage table, as read at launch (R270) -/
  table : Nat := 0
  fq : Nat := 0
  fqlog2 : Nat := 2
  fqtail : Nat := 0
  csig : Nat := 0
  csadd : Bool := false
  cval : Word := 0
  retg : Nat := 0
  /-- the queue and FEP of a host launch (R255) -/
  queue : Option Nat := none
  fep : Option Nat := none
  /-- the abort line (R279) -/
  line : Bool := false
  returned : List Returned := []
  /-- remap table: logical core to physical core·2 + bank (R15) -/
  remap : Map Nat := []
  /-- tick of the next stage evaluation (R277) -/
  evalAt : Nat := 0
deriving DecidableEq, Repr

/-- The image of a SAVED position (R288). -/
structure Saved where
  group : GroupId
  ctx : Ctx
  sp : Map Byte := []
  spPoison : List Nat := []
  cul : Map Culvert := []
  bfmt : Map (BitVec 32) := []
deriving DecidableEq, Repr

/-- Queue states (R250). -/
inductive QState where
  | disabled | idle | active | waiting | draining | error
deriving DecidableEq, Repr

/-- A cached QCB (R245, R246, R248). -/
structure Qcb where
  ring : Nat := 0
  log2 : Nat := 0
  head : BitVec 32 := 0
  tail : BitVec 32 := 0
  st : QState := .disabled
  dberr : Bool := false
  wdogBit : Bool := false
  recerr : Bool := false
  reset : Bool := false
  retired : Word := 0
  fetched : Word := 0
  en : Bool := false
  enf : Bool := false
  home : Nat := 0
  fepn : Nat := 0
  tier : Nat := 0
  polder : Nat := 0
  owner : Nat := 0
  rcb : Nat := 0
  wdog : Nat := 0
  /-- recency for eviction (R248) -/
  used : Nat := 0
deriving DecidableEq, Repr

/-- An entry in expansion (R252, R253). -/
structure Expansion where
  kind : Nat
  addr : Nat
  val : Nat
  /-- for a CHAIN, the address of the next record; 0 when the chain is dispatched -/
  nextRec : Nat := 0
deriving DecidableEq, Repr

/-- What the front end keeps of a queue beside its cache entry (R253, R263). -/
structure QLive where
  wd : Nat := 0
  /-- operators dispatched and not retired -/
  unret : Nat := 0
  exps : List Expansion := []
  /-- an entry whose fetch faulted awaits RECFAULT (R253) -/
  faulted : Bool := false
deriving DecidableEq, Repr

/-- An operator in a launcher bank (R254, R255). -/
structure Operator where
  queue : Nat
  go : Bool
  rcb : Option Word := none
  arg : Option Word := none
  ng : Option Word := none
  tier : Nat := 0
  polder : Nat := 0
  owner : Nat := 0
  terp : Nat := 0
  /-- the region it launched -/
  region : Option Nat := none
deriving DecidableEq, Repr

/-- A front-end processor (R256 to R262). x0 is not held. -/
structure Fep where
  x : Map Word := []
  pc : Word := 0
  mem : Map Byte := []
  mstatus : Word := 0
  mtvec : Word := 0
  mepc : Word := 0
  mcause : Word := 0
  mtval : Word := 0
  xnimq : BitVec 20 := 0
  active : Option Operator := none
  shadow : Option Operator := none
deriving DecidableEq, Repr

/-- A terp's front-end block and cache. -/
structure Terp where
  cache : Map Qcb := []
  /-- QSYNC (R249) -/
  qsyncBusy : Bool := false
  qsyncErr : Bool := false
  qsyncIdx : BitVec 20 := 0
  qsyncRls : Bool := false
  /-- writes held while BUSY: index, RLS -/
  qsyncHeld : List (BitVec 20 × Bool) := []
  /-- RESUME (R269) -/
  resumeBusy : Bool := false
  resumeErr : Bool := false
  /-- INVAL (R311): the marker in progress, writes held -/
  inval : Option Nat := none
  invalHeld : List (BitVec 64) := []
  /-- LOWTIDE (R315) -/
  lowtide : Nat := 0
  /-- THERM (R357) -/
  tmig : BitVec 8 := 95
  trel : BitVec 8 := 90
  /-- SENSOVR (R366) -/
  ovEn : Bool := false
  ovErr : Bool := false
  ovTemp : BitVec 8 := 0
  ovCore : BitVec 7 := 0
deriving DecidableEq, Repr

/-- Owner table states (R336). -/
inductive OState where
  | unassigned | free | evaluating | admitted
deriving DecidableEq, Repr

/-- What waits at a sluice (R338): a step of a command; the word at the head of the matrix order of a group's context on a core; a
line that arrives at a server, read or written. -/
inductive Payer where
  | cmd (id : Nat) | word (core oid : Nat) | line (sv : Server) (write : Bool)
deriving DecidableEq, Repr

/-- A step of a path with its sluice (R337, R338). `content` is in units of 2^-16 byte / 66. -/
structure PStep where
  cls : Nat
  sigma : Nat
  rho : Nat
  b : Nat := 0
  d : Nat := 0
  content : Nat := 0
  /-- units that wait at the sluice, in the order in which they were offered (R338) -/
  line : List Payer := []
deriving DecidableEq, Repr

/-- An owner table entry (R336). -/
structure OEntry where
  st : OState := .unassigned
  polder : Nat := 0
  path : List PStep := []
  pub : Nat := 0
  cur : Nat := 0
  seq : Nat := 0
  /-- state to return to on REFUSE -/
  prior : OState := .free
  /-- its mirror entry as it last changed: STATE, POLDER, NSTEP, PUB, CUR (R344) -/
  entry : Nat × Nat × Nat × Nat × Nat := (0, 0, 0, 0, 0)
deriving DecidableEq, Repr

/-- A request of the levee engine (R342). -/
inductive LevReq where
  | declare (cmd own polder : Nat) (path : List PStep) (bound : Nat)
  | revoke (own : Nat)
  | assign (own polder : Nat)
  /-- an ASSIGN that came while its owner was in evaluation (R336) -/
  | late (own : Nat)
  | weight (polder cls wgt : Nat)
  | start (polder : Nat)
  | malformed
deriving DecidableEq, Repr

/-- Dike-link port states (R325). -/
inductive PortState where
  | off | training | up | draining | fault
deriving DecidableEq, Repr

/-- Where a forwarded flit arrived (R331): port, sequence number, and the peer's command with whether the flit is its last. -/
structure Origin where
  port : Nat
  seq : Nat
  cmd : Nat
  last : Bool
deriving DecidableEq, Repr

/-- What a flit sent on a port carries (R328), with its sender: a command, or the flit's origin where it is forwarded (R331). -/
structure OutFlit where
  seq : Nat
  kind : Nat
  addr : Nat
  data : List Byte := []
  mask : Nat := 0
  rt : Nat := 0
  cmd : Option Nat := none
  fwd : Option Origin := none
  replayed : Bool := false
deriving DecidableEq, Repr

/-- A flit in a port's receive buffer (R328): 1 WRITE, 2 REDUCE, 3 SIGNAL, 7 REMAPACK, 8 FWDDONE; the `mask` of the last two is their
range's length. -/
structure InFlit where
  kind : Nat
  seq : Nat
  addr : Nat
  data : List Byte := []
  mask : Nat := 0
  rt : Nat := 0
  cmd : Nat := 0
  last : Bool := false
  /-- it came while the port was draining: it is refused in its turn (R326, R327) -/
  refuse : Bool := false
deriving DecidableEq, Repr

/-- What a port answers to its peer (R327, R328). -/
inductive Answer where
  | ack (seq : Nat) (refused : Bool)
  | nak (seq : Nat)
  | credit (n : Nat)
deriving DecidableEq, Repr

/-- A dike-link port (R325, R326, R121). -/
structure Port where
  tlat : BitVec 16 := 0
  rply : BitVec 16 := 0
  pdev : BitVec 8 := 0
  pport : BitVec 4 := 0
  pol : BitVec 4 := 0
  late : Bool := false
  st : PortState := .off
  en : Bool := false
  /-- tick at which training times out -/
  timeout : Nat := 0
  /-- flits sent and not acknowledged, oldest first -/
  out : List OutFlit := []
  seq : Nat := 0
  credit : Nat := 64
  /-- commands of the peer that have written V pages here, with the tide of each one's first flit; those refused (R121, R327) -/
  rcmds : Map Nat := []
  dead : List Nat := []
  /-- the receive buffer, oldest first, and the sequence number of the next flit (R328) -/
  buf : List InFlit := []
  rseq : Nat := 0
  /-- ACK, NAK and CREDIT flits sent since the last training, oldest first (R328) -/
  answers : List Answer := []
deriving DecidableEq, Repr

/-- A tier-2 port (R324). -/
structure T2Port where
  base : Nat := 0
  sizeMiB : Nat := 0
  poison : Bool := false
  lost : Bool := false
  up : Bool := false
deriving DecidableEq, Repr

/-- A forwarding entry (R331). -/
structure Fwd where
  old : Word := 0
  len : Word := 0
  new : Word := 0
  port : BitVec 4 := 0
  pol : BitVec 4 := 0
  st : BitVec 2 := 0
  /-- REMAPACKs that wait for its FWDDONE: port, address, length -/
  acks : List (Nat × Nat × Nat) := []
deriving DecidableEq, Repr

/-- An island (R20, R351). -/
structure Island where
  divok : BitVec 15 := 0x7FFF
  uvs : BitVec 8 := 0
  uvmax : BitVec 8 := 0
  ceth : BitVec 8 := 0
  mcnt : BitVec 8 := 0
  mev : Bool := false
  uven : Bool := false
  perr : Bool := false
  div : BitVec 5 := 2
  pst : BitVec 2 := 1
  /-- a hop in progress: new divisor, tick by which it ends (R241) -/
  hop : Option (BitVec 5 × Nat) := none
  /-- a droop lasts; held during a hop (R355) -/
  droop : Bool := false
  droopHeld : Bool := false
  /-- REFCLK edges skipped since reset, edges of the skip in progress still to come, and edges to pass before another skip
  (R6, R355) -/
  skipped : Nat := 0
  skipLeft : Nat := 0
  runLeft : Nat := 0
  /-- correctable errors found in the 1 ms window of that number, and the tick of the window's end last judged (R356) -/
  ceCount : Nat := 0
  ceWindow : Nat := 0
  windowAt : Nat := 0
  /-- stopped by a MARGIN event until nominal voltage is back (R356) -/
  margin : Bool := false
deriving DecidableEq, Repr

/-- A notice to the host (R363). -/
structure Notice where
  cause : Nat
  stat : Nat := 0
  polder : Nat := 0
  fep : Nat := 0
  qidx : Nat := 0
  head : Nat := 0
  tail : Nat := 0
  retired : Nat := 0
  tide : Nat := 0
  island : Nat := 0
deriving DecidableEq, Repr

/-- A unit waiting at a DRAM controller or the fabric (R335, R350). -/
structure UnitW where
  polder : Nat
  owner : Nat
  /-- start tag, a fraction of bytes over weight; none for a polder of weight 0 -/
  tag : Option (Nat × Nat)
  /-- its place in the order in which units passed their sluices -/
  no : Nat
deriving DecidableEq, Repr

/-- Units of an owner that have passed a sluice together and have not yet arrived at their server (R335, R338). -/
structure Passed where
  srv : Server
  polder : Nat
  owner : Nat
  no : Nat
  left : Nat
deriving DecidableEq, Repr

/-- A server with virtual time and finish tags as exact fractions (R350). -/
structure Srv where
  v : Nat × Nat := (0, 1)
  f : Map (Nat × Nat) := []
  waiting : List UnitW := []
deriving DecidableEq, Repr

/-- A page move (R312), whose marker bears its number; the command that asked for it. -/
structure Move where
  polder : Nat
  va : Nat
  toT2 : Bool
  cmd : Option Nat := none
  /-- the page is one of 2 MiB (R307) -/
  lg : Bool := false
deriving DecidableEq, Repr

/-- An invalidation in progress (R120, R311): the command or terp that asked for it, and the TLB entries that it dropped, which
the accesses ahead of its markers still use. -/
structure Inval where
  cmd : Option Nat := none
  terp : Option Nat := none
  old : Map Nat := []
deriving DecidableEq, Repr

/-- A polder reset in progress (R264, R349): its begun notice, and whether step 3 has killed the polder's groups. -/
structure Reset where
  notice : Notice
  killed : Bool := false
deriving DecidableEq, Repr

/-- The state of the package. -/
structure State where
  /-- which part moves next (notes/assumptions/1.md) -/
  agenda : List Turn := []
  /-- the sequencer whose word `exec` runs -/
  cur : Nat × Stream := (0, .c)
  /-- the front-end processor whose word `exec` runs -/
  curFep : Nat := 0
  /-- number of the next free value (notes/assumptions/6.md) -/
  fresh : Nat := 0
  /-- number of the next owner, command, marker or move (notes/assumptions/9.md) -/
  nextId : Nat := 1
  /-- REFCLK ticks passed (R5) -/
  tick : Nat := 0
  cores : Map Core := []
  clusters : Map Cluster := []
  terps : Map Terp := []
  feps : Map Fep := []
  /-- memory by physical address (R19, R102) -/
  mem : List Host.Cell := []
  /-- poisoned lines by physical address (R320) -/
  poison : List Nat := []
  /-- version chains by line address (R102, R109) -/
  vers : Map (List Version) := []
  /-- version-pool entries in use, by polder (R314) -/
  pool : Map Nat := []
  tide : Nat := 0
  cmds : Map Cmd := []
  objs : Map ObjX := []
  regions : Map Region := []
  saved : List Saved := []
  qlive : Map QLive := []
  /-- leaves held by the TLBs of cores and clusters, by the key `tlbKey` of TLB, polder and page (R310) -/
  tlb : Map Nat := []
  invals : Map Inval := []
  moves : Map Move := []
  /-- free frames by polder·2 + tier (R309, R312) -/
  frames : Map (List Nat) := []
  /-- leaves found with AC = 0 at the last scan, by polder (R313) -/
  cold : Map (List Nat) := []
  scanAt : Map Nat := []
  qgbase : BitVec 48 := 0
  qpbase : BitVec 48 := 0
  qdbase : BitVec 48 := 0
  ptbase : BitVec 48 := 0
  lrtbase : BitVec 48 := 0
  lrsw : BitVec 16 := 0
  /-- entry numbers written to LRSW whose REMAPACKs wait for credit, oldest first (R328, R332) -/
  lrswWait : List Nat := []
  fwd : Map Fwd := []
  arbfloor : BitVec 64 := 0
  envcnt : BitVec 64 := 0
  /-- number of the next evaluation of the arbiter, and its tick (R352) -/
  arbNo : Nat := 0
  arbAt : Nat := 66000
  nringBase : BitVec 52 := 0
  nringLog2 : BitVec 4 := 4
  nrCons : BitVec 32 := 0
  nrProd : BitVec 32 := 0
  /-- the notice whose bytes the last step wrote: PROD increases in the next step (R362) -/
  nrWritten : Option Notice := none
  /-- notices that wait in their FEP (R323, R362) -/
  notices : List Notice := []
  /-- host memory as notices have written it, by host bus address (R362) -/
  hostMem : Map Byte := []
  hostUp : Bool := true
  /-- PCTL: a START awaits its verdict; ERR; writes held while BUSY, OP and POL (R348) -/
  pctlBusy : Bool := false
  pctlErr : Bool := false
  pctlHeld : List (Nat × Nat) := []
  /-- the levee engine (R336 to R345) -/
  owners : Map OEntry := []
  levQ : List LevReq := []
  /-- writes of LEVREQ held while BUSY is 1 (R345) -/
  levHeld : List LevReq := []
  levRes : BitVec 2 := 0
  levReason : BitVec 8 := 0
  levNamed : BitVec 10 := 0
  levExcess : BitVec 32 := 0
  levSeq : Nat := 0
  /-- frozen TDLK figures by polder (R334) -/
  tdlk : Map Nat := []
  ports : Map Port := []
  t2 : Map T2Port := []
  islands : Map Island := []
  dram : Map Srv := []
  fab : Srv := {}
  passed : List Passed := []
  /-- polder resets in progress (R264, R349) -/
  presets : Map Reset := []
  /-- polders with a nimdbg breakpoint armed (R152) -/
  brkArmed : List Nat := []
  /-- the package stays in reset (R24) -/
  inReset : Bool := false
  /-- the identity key pair in the enclave, public and secret, and its certificate in the flash, from provisioning on (R24) -/
  identity : List Byte × List Byte := ([], [])
  certificate : List Byte := []
  /-- how the last load of an image ended: 0 none yet, 1 success, 2 SIGFAIL, 3 a malformed image (R53) -/
  loadEnd : Nat := 0
deriving DecidableEq, Repr

/-- The machine right after reset. -/
def State.reset : State := {}

end Sys2Proof.Machine
end

