-- ==== Sys2Proof/Machine/Ops.lean ====
section
/-! DEFINITION. The shared operations: accessors of the state, memory by bytes, translation, and taking a trap and returning
from one. -/

namespace Sys2Proof.Machine

/-! Accessors. -/

/-- A core. -/
def State.core (s : State) (k : Nat) : Core := Map.get {} s.cores k
/-- Replaces a core. -/
def State.setCore (s : State) (k : Nat) (c : Core) : State := { s with cores := Map.put s.cores k c }
/-- Changes a core. -/
def State.updCore (s : State) (k : Nat) (f : Core → Core) : State := s.setCore k (f (s.core k))

/-- A bank context of a core: `false` bank A, `true` bank B (R230). -/
def Core.ctx (c : Core) (bank : Bool) : Ctx := if bank then c.b else c.a
/-- Replaces a bank context. -/
def Core.setCtx (c : Core) (bank : Bool) (x : Ctx) : Core := if bank then { c with b := x } else { c with a := x }

/-- A bank context. -/
def State.ctx (s : State) (k : Nat) (bank : Bool) : Ctx := (s.core k).ctx bank
/-- Replaces a bank context. -/
def State.setCtx (s : State) (k : Nat) (bank : Bool) (x : Ctx) : State := s.updCore k (fun c => c.setCtx bank x)
/-- Changes a bank context. -/
def State.updCtx (s : State) (k : Nat) (bank : Bool) (f : Ctx → Ctx) : State := s.setCtx k bank (f (s.ctx k bank))
/-- The active bank of a core. -/
def State.bank (s : State) (k : Nat) : Bool := (s.core k).activeB
/-- The active context of a core. -/
def State.act (s : State) (k : Nat) : Ctx := s.ctx k (s.bank k)
/-- Changes the active context of a core. -/
def State.updAct (s : State) (k : Nat) (f : Ctx → Ctx) : State := s.updCtx k (s.bank k) f

/-- A sequencer of a context. -/
def Ctx.seq (c : Ctx) : Stream → Seq
  | .c => c.seqC | .l => c.seqL | .e => c.seqE | .s => c.seqS
/-- Replaces a sequencer of a context. -/
def Ctx.setSeq (c : Ctx) (st : Stream) (q : Seq) : Ctx :=
  match st with
  | .c => { c with seqC := q } | .l => { c with seqL := q } | .e => { c with seqE := q } | .s => { c with seqS := q }
/-- Changes a sequencer of a context. -/
def Ctx.updSeq (c : Ctx) (st : Stream) (f : Seq → Seq) : Ctx := c.setSeq st (f (c.seq st))

/-- A sequencer of the active context of a core. -/
def State.seq (s : State) (k : Nat) (st : Stream) : Seq := (s.act k).seq st
/-- Changes a sequencer of the active context of a core. -/
def State.updSeq (s : State) (k : Nat) (st : Stream) (f : Seq → Seq) : State := s.updAct k (fun c => c.updSeq st f)

/-- x[r]; x0 reads 0 (R123). -/
def Seq.get (q : Seq) (r : XReg) : Word := if r = 0 then 0 else Map.get 0 q.x r.toNat
/-- x[r] := v; a write to x0 is discarded (R123). -/
def Seq.set (q : Seq) (r : XReg) (v : Word) : Seq := if r = 0 then q else { q with x := Map.set 0 q.x r.toNat v }
/-- A loop level (R123). -/
def Seq.level (q : Seq) (n : Nat) : Level := Map.get {} q.lv n
/-- Replaces a loop level. -/
def Seq.setLevel (q : Seq) (n : Nat) (l : Level) : Seq := { q with lv := Map.put q.lv n l }

/-- x[r] of the sequencer that runs. -/
def State.x (s : State) (r : XReg) : Word := (s.seq s.cur.1 s.cur.2).get r
/-- x[r] := v in the sequencer that runs. -/
def State.setX (s : State) (r : XReg) (v : Word) : State := s.updSeq s.cur.1 s.cur.2 (fun q => q.set r v)
/-- The sequencer that runs. -/
def State.me (s : State) : Seq := s.seq s.cur.1 s.cur.2
/-- Changes the sequencer that runs. -/
def State.updMe (s : State) (f : Seq → Seq) : State := s.updSeq s.cur.1 s.cur.2 f
/-- The context that runs. -/
def State.myCtx (s : State) : Ctx := s.act s.cur.1
/-- Changes the context that runs. -/
def State.updMyCtx (s : State) (f : Ctx → Ctx) : State := s.updAct s.cur.1 f

/-- A cluster. -/
def State.cluster (s : State) (c : Nat) : Cluster := Map.get {} s.clusters c
/-- Changes a cluster. -/
def State.updCluster (s : State) (c : Nat) (f : Cluster → Cluster) : State :=
  { s with clusters := Map.put s.clusters c (f (s.cluster c)) }
/-- A terp's front end. -/
def State.terp (s : State) (t : Nat) : Terp := Map.get {} s.terps t
/-- Changes a terp's front end. -/
def State.updTerp (s : State) (t : Nat) (f : Terp → Terp) : State := { s with terps := Map.put s.terps t (f (s.terp t)) }
/-- A front-end processor. -/
def State.fep (s : State) (n : Nat) : Fep := Map.get {} s.feps n
/-- Changes a front-end processor. -/
def State.updFep (s : State) (n : Nat) (f : Fep → Fep) : State := { s with feps := Map.put s.feps n (f (s.fep n)) }
/-- A region record. -/
def State.region (s : State) (r : Nat) : Region := Map.get {} s.regions r
/-- Changes a region record. -/
def State.updRegion (s : State) (r : Nat) (f : Region → Region) : State :=
  { s with regions := Map.put s.regions r (f (s.region r)) }
/-- An island. -/
def State.island (s : State) (i : Nat) : Island := Map.get {} s.islands i
/-- Changes an island. -/
def State.updIsland (s : State) (i : Nat) (f : Island → Island) : State :=
  { s with islands := Map.put s.islands i (f (s.island i)) }
/-- A dike-link port. -/
def State.port (s : State) (d : Nat) : Port := Map.get {} s.ports d
/-- Changes a dike-link port. -/
def State.updPort (s : State) (d : Nat) (f : Port → Port) : State := { s with ports := Map.put s.ports d (f (s.port d)) }
/-- An object's device-held part. -/
def State.obj (s : State) (pa : Nat) : ObjX := Map.get {} s.objs pa
/-- Changes an object's device-held part. -/
def State.updObj (s : State) (pa : Nat) (f : ObjX → ObjX) : State := { s with objs := Map.put s.objs pa (f (s.obj pa)) }
/-- What the front end keeps of a queue. -/
def State.live (s : State) (q : Nat) : QLive := Map.get {} s.qlive q
/-- Changes what the front end keeps of a queue. -/
def State.updLive (s : State) (q : Nat) (f : QLive → QLive) : State := { s with qlive := Map.put s.qlive q (f (s.live q)) }
/-- An owner table entry. -/
def State.owner (s : State) (o : Nat) : OEntry := Map.get {} s.owners o
/-- Changes an owner table entry. -/
def State.updOwner (s : State) (o : Nat) (f : OEntry → OEntry) : State :=
  { s with owners := Map.put s.owners o (f (s.owner o)) }
/-- Changes a command, if it exists. -/
def State.updCmd (s : State) (id : Nat) (f : Cmd → Cmd) : State :=
  match Map.find s.cmds id with
  | some c => { s with cmds := Map.put s.cmds id (f c) }
  | none => s
/-- Counts a free value as used (notes/assumptions/6.md). -/
def State.bump (s : State) : State := { s with fresh := s.fresh + 1 }

/-- The four sequencers in the order of R233. -/
def streams : List Stream := [.c, .l, .e, .s]
/-- The code of a sequencer (R234). -/
def streamCode : Stream → Nat
  | .c => 0 | .l => 1 | .e => 2 | .s => 3

/-- Cluster of a core (R14). -/
def clusterOf (core : Nat) : Nat := core / 4
/-- Terp of a core (R14). -/
def terpOf (core : Nat) : Nat := core / 32
/-- Island of a core (R20). -/
def coreIsland (core : Nat) : Nat := 6 * (core / 4) + core % 4
/-- The island of a cluster's copy engine (R20). -/
def cpeIsland (cl : Nat) : Nat := 6 * cl + 5
/-- The island of a cluster's array (R20). -/
def mxaIsland (cl : Nat) : Nat := 6 * cl + 4
/-- The island of the half of a terp's SRAM die that serves a cluster: the first half its first four clusters (R16, R20,
notes/assumptions/113.md). -/
def sramIsland (cl : Nat) : Nat := 204 + 16 * (cl / 8) + cl % 8 / 4
/-- The island of a terp's front end (R20). -/
def frontIsland (terp : Nat) : Nat := 206 + 16 * terp
/-- The island of a terp's link ports (R20). -/
def linkIsland (terp : Nat) : Nat := 207 + 16 * terp

/-- The island takes a cycle: it is on, not stopped by a MARGIN event, and not within a skip of its droop detector (R351, R355,
R356). -/
def State.islandOn (s : State) (i : Nat) : Bool :=
  let x := s.island i
  decide (x.pst = 1) && !x.margin && decide (x.skipLeft = 0)

/-- What passes between host and package goes over the host link, which is up and in an island that takes cycles (R322, R323). -/
def State.hostIn (s : State) : Bool := s.hostUp && s.islandOn (linkIsland 0)

/-- Ticks as the counters of an island count them: the edges that it skips are none (R6, R355). -/
def State.islandTime (s : State) (i : Nat) : Nat := s.tick - (s.island i).skipped

/-- Every core and bank. -/
def allBanks : List (Nat × Bool) := (List.range 128).flatMap (fun k => [(k, false), (k, true)])

/-- Where the context of a group stands, by its owner number. -/
def State.findOid (s : State) (oid : Nat) : Option (Nat × Bool) :=
  (s.cores.flatMap (fun e => [(e.1, false), (e.1, true)])).find?
    (fun kb => decide ((s.ctx kb.1 kb.2).oid = oid) && decide ((s.ctx kb.1 kb.2).st ≠ .empty))

/-- Changes the context of a group wherever it is: on a core or in a saved image (R288). -/
def State.updOid (s : State) (oid : Nat) (f : Ctx → Ctx) : State :=
  match s.findOid oid with
  | some (k, b) => s.updCtx k b f
  | none => { s with saved := s.saved.map (fun v => if v.ctx.oid = oid then { v with ctx := f v.ctx } else v) }

/-! Memory. -/

/-- What a byte of memory reads as that nothing has written (notes/assumptions/3.md). -/
def memDefault : Byte := 0

/-- The canonical form of memory: addresses strictly rising, no entry equal to what an unlisted address reads as. -/
abbrev Memory.wf (m : List Host.Cell) : Prop := Map.wf memDefault m = true

/-- A byte of memory. -/
def State.readByte (s : State) (pa : Nat) : Byte := Map.get memDefault s.mem pa
/-- Writes a byte of memory. -/
def State.writeByte (s : State) (pa : Nat) (b : Byte) : State := { s with mem := Map.set memDefault s.mem pa b }

/-- `n` bytes of memory from an address. -/
def State.readBytes (s : State) (pa : Nat) : Nat → List Byte
  | 0 => []
  | n + 1 => s.readByte pa :: s.readBytes (pa + 1) n

/-- Writes bytes of memory from an address. -/
def State.writeBytes (s : State) (pa : Nat) : List Byte → State
  | [] => s
  | b :: t => (s.writeByte pa b).writeBytes (pa + 1) t

/-- A little-endian number in memory (R3). -/
def State.readLE (s : State) (pa n : Nat) : Nat := leOf (s.readBytes pa n)
/-- Writes a little-endian number to memory (R3). -/
def State.writeLE (s : State) (pa n v : Nat) : State := s.writeBytes pa (leBytes n v)

/-- Clears a range of memory to zero bytes. -/
def State.zeroRange (s : State) (lo n : Nat) : State :=
  { s with mem := s.mem.filter (fun e => decide (e.1 < lo) || decide (lo + n ≤ e.1)) }

/-- The line of a physical address. -/
def lineOf (pa : Nat) : Nat := pa / 128 * 128

/-- The line is poisoned (R320). -/
def State.poisoned (s : State) (pa : Nat) : Bool := s.poison.contains (lineOf pa)
/-- Added to a mark of a list, it says that the mark comes of a MARGIN event (R356). -/
def marginTag : Nat := 2 ^ 64
/-- What a mark names, with or without the tag. -/
def markOf (m : Nat) : Nat := m % marginTag
/-- The marks of a list that come of MARGIN events. -/
def marginMarks (l : List Nat) : List Nat := l.filterMap (fun m => if marginTag ≤ m then some (m - marginTag) else none)
/-- A list of marks with one more, of a MARGIN event or not. -/
def addMark (margin : Bool) (m : Nat) (l : List Nat) : List Nat :=
  let l := if l.contains m then l else m :: l
  if margin && !l.contains (m + marginTag) then (m + marginTag) :: l else l

/-- Marks the line poisoned, by a MARGIN event or not (R320, R356). -/
def State.markPoison (s : State) (margin : Bool) (pa : Nat) : State := { s with poison := addMark margin (lineOf pa) s.poison }
/-- Marks the line poisoned (R320). -/
def State.addPoison (s : State) (pa : Nat) : State := s.markPoison false pa
/-- Clears the line's mark (R321). -/
def State.delPoison (s : State) (pa : Nat) : State := { s with poison := s.poison.filter (fun m => markOf m != lineOf pa) }

/-- A context in which only the marks of MARGIN events stand. -/
def Ctx.marginOnly (c : Ctx) : Ctx :=
  { c with wPoison := marginMarks c.wPoison, mPoison := marginMarks c.mPoison,
           q := c.q.map (fun e => (e.1, e.2.map (fun x => { x with poison := x.poison.filter id }))),
           y := c.y.map (fun e => (e.1, e.2.map (fun x => { x with poison := x.poison.filter id }))) }

/-- A core in which only the marks of MARGIN events stand. -/
def Core.marginOnly (c : Core) : Core := { c with spPoison := marginMarks c.spPoison, a := c.a.marginOnly, b := c.b.marginOnly }

/-- The state in which only the marks of MARGIN events stand. -/
def State.marginOnly (s : State) : State :=
  { s with poison := marginMarks s.poison, cores := s.cores.map (fun e => (e.1, e.2.marginOnly)),
           clusters := s.clusters.map (fun e => (e.1, { e.2 with acsPoison := marginMarks e.2.acsPoison })),
           vers := s.vers.map (fun e => (e.1, e.2.map (fun v => { v with poison := v.margin }))) }

/-- DETAIL of the record of a fault: for POISON, 0x80 where the fault stands by the marks of MARGIN events alone (R234, R356). -/
def State.poisonDetail (s : State) (f : Cause) (again : State → Option Cause) : Nat :=
  if f = .poison ∧ again s.marginOnly = some .poison then 0x80 else 0

/-- Bonded DRAM (R19). -/
def inDram (pa : Nat) : Bool := decide (pa < 0x3000000000)

/-- The tier-2 port whose assigned range holds an address (R19, R324). The model's choice: of ranges that overlap, the lowest port's
(notes/assumptions/116.md). -/
def State.t2PortOf (s : State) (pa : Nat) : Option Nat :=
  ((List.range 12).find? (fun p =>
    let t : T2Port := Map.get {} s.t2 p
    decide (t.base ≤ pa) && decide (pa < t.base + t.sizeMiB * 1048576)))

/-- A physical address that exists and answers: bonded DRAM, or a tier-2 range assigned to a port that is up (R19, R306,
R324). -/
def State.paOk (s : State) (pa : Nat) : Bool :=
  inDram pa || match s.t2PortOf pa with
    | some p => (Map.get ({} : T2Port) s.t2 p).up
    | none => false

/-! The polder table (R347). -/

/-- The address of a polder's table entry. -/
def State.ptAddr (s : State) (p : Nat) : Nat := s.ptbase.toNat + 256 * p
/-- A field of a polder's table entry. -/
def State.ptField (s : State) (p off n : Nat) : Nat := s.readLE (s.ptAddr p + off) n
/-- Polder state code (R348). -/
def State.polderSt (s : State) (p : Nat) : Nat := s.ptField p 0 1
/-- The cluster belongs to the polder. -/
def State.holdsCluster (s : State) (p c : Nat) : Bool := (s.ptField p 4 4 >>> c) % 2 == 1
/-- The level-0 table of a polder. -/
def State.root (s : State) (p : Nat) : Nat := s.ptField p 16 8

/-- Every byte of a range is zero. -/
def zeroBytes (s : State) (pa n : Nat) : Bool := (s.readBytes pa n).all (fun b => decide (b = 0))

/-! Nodes (R265, R266). -/

/-- KIND. -/
def nodeKind (s : State) (n : Nat) : Nat := s.readLE n 1
/-- TIER. -/
def nodeTier (s : State) (n : Nat) : Nat := s.readLE (n + 2) 1
/-- POLICY. -/
def nodePolicy (s : State) (n : Nat) : Nat := s.readLE (n + 3) 1
/-- FDOM. -/
def nodeFdom (s : State) (n : Nat) : Nat := s.readLE (n + 4) 2
/-- ID. -/
def nodeId (s : State) (n : Nat) : Nat := s.readLE (n + 6) 2
/-- PARENT. -/
def nodeParent (s : State) (n : Nat) : Nat := s.readLE (n + 8) 8
/-- GUEST. -/
def nodeGuest (s : State) (n : Nat) : Nat := s.readLE (n + 16) 8
/-- MAXC. -/
def nodeMaxc (s : State) (n : Nat) : Nat := s.readLE (n + 40) 2

/-- A node of a kind without a malformed field (R265); a root holds no inherit code (R266). -/
def nodeOk (s : State) (kind n : Nat) : Bool :=
  decide (n % 64 = 0) && s.paOk n && decide (nodeKind s n = kind) && decide (s.readLE (n + 1) 1 < 4)
  && (decide (nodeTier s n ≤ 3) || decide (nodeTier s n = 0xFF)) && decide (nodePolicy s n ≤ 4) && decide (nodeMaxc s n ≤ 128)
  && zeroBytes s (n + 42) 6 && zeroBytes s (n + 64) 64
  && (if kind = 2 then decide (nodeId s n < 16) else if kind = 3 then decide (nodeId s n < 1024) else decide (nodeId s n = 0))
  && (decide (nodeGuest s n ≠ 0) == decide (kind = 4))
  && (if kind = 1 then
        decide (nodeParent s n = 0) && decide (nodeTier s n ≠ 0xFF) && decide (nodePolicy s n ≠ 0)
        && decide (nodeFdom s n ≠ 0) && decide (nodeMaxc s n ≠ 0)
      else decide (nodeParent s n ≠ 0))

/-- The valid chain from a node of a kind: region, owner, polder, root (R266). -/
def nodeChain (s : State) : Nat → Nat → Option (List Nat)
  | 0, _ => none
  | 1, n => if nodeOk s 1 n then some [n] else none
  | k + 2, n => if nodeOk s (k + 2) n then (nodeChain s (k + 1) (nodeParent s n)).map (fun c => n :: c) else none

/-- The valid chain from a region node (R266). -/
def chainFrom (s : State) (n : Nat) : Option (List Nat) := nodeChain s 4 n

/-- The nodes of RCBs that memory holds: those of every valid chain from a polder, an owner or a region node
(notes/assumptions/100.md). -/
def rcbNodes (s : State) : List Nat :=
  (s.mem.filter (fun c => decide (c.1 % 64 = 0) && decide (2 ≤ c.2.toNat) && decide (c.2.toNat ≤ 4))).flatMap (fun c =>
    (nodeChain s c.2.toNat c.1).getD [])

/-! The QCB cache and the doorbell (R243 to R251). -/

/-- A number as bytes, for building records. -/
def field (n v : Nat) : List Byte := leBytes n v

/-- The doorbell element that a physical address lies in (R243). -/
def State.doorbellOf (s : State) (pa : Nat) : Option Nat :=
  let b := s.qdbase.toNat
  if b ≤ pa && decide (pa < b + 0x10000000) && decide (b ≠ 0) then some ((pa - b) / 256) else none

/-- A queue state's code (R250). -/
def qcode : QState → Nat
  | .disabled => 0 | .idle => 1 | .active => 2 | .waiting => 3 | .draining => 4 | .error => 5

/-- The cached entry of a queue, in whichever terp holds it (R248). -/
def State.cached (s : State) (q : Nat) : Option (Nat × Qcb) :=
  (List.range 4).findSome? (fun t => (Map.find (s.terp t).cache q).map (fun e => (t, e)))

/-- The guest part of a QCB (R243). -/
def State.qGuest (s : State) (q : Nat) : Nat := s.qgbase.toNat + 256 * q
/-- The privileged part of a QCB (R243). -/
def State.qPriv (s : State) (q : Nat) : Nat := s.qpbase.toNat + 256 * q
/-- HOME of a QCB (R246). -/
def State.qHome (s : State) (q : Nat) : Nat := s.readLE (s.qPriv q + 1) 1 % 4

/-- STATUS of a cached entry (R245). -/
def statusOf (e : Qcb) : Nat :=
  qcode e.st + (if e.dberr then 8 else 0) + (if e.wdogBit then 16 else 0) + (if e.recerr then 32 else 0)
    + (if e.reset then 64 else 0)

/-- A state from its code (R250); codes 6 and 7 are not used. -/
def qstateOf (n : Nat) : QState :=
  if n = 1 then .idle else if n = 2 then .active else if n = 3 then .waiting else if n = 4 then .draining
  else if n = 5 then .error else .disabled

/-- Writes the dynamic fields back to the guest part (R248). -/
def State.qWriteBack (s : State) (q : Nat) (e : Qcb) : State :=
  (s.writeBytes (s.qGuest q + 16) (field 4 e.head.toNat ++ field 4 e.tail.toNat ++ field 4 (statusOf e))).writeBytes
    (s.qGuest q + 32) (field 8 e.retired.toNat ++ field 8 e.fetched.toNat)

/-- The guest part is refused at fill (R245). -/
def badGuest (s : State) (q : Nat) : Bool :=
  let a := s.qGuest q
  let ring := s.readLE a 8
  let l := s.readLE (a + 8) 1
  decide (ring % 64 ≠ 0) || decide (2 ^ 56 ≤ ring) || decide (l < 4) || decide (20 < l)
    || !zeroBytes s (a + 9) 7 || !zeroBytes s (a + 28) 4 || !zeroBytes s (a + 48) 208

/-- Curves of the owner are in force (R246). -/
def State.inForce (s : State) (o : Nat) : Bool :=
  match (s.owner o).st, (s.owner o).prior with
  | .admitted, _ | .evaluating, .admitted => true
  | _, _ => false

/-- The privileged part is refused at fill (R246). -/
def badPriv (s : State) (q : Nat) : Bool :=
  let a := s.qPriv q
  decide (4 ≤ s.readLE a 1) || decide (4 ≤ s.readLE (a + 1) 1) || decide (8 ≤ s.readLE (a + 2) 1)
    || decide (4 ≤ s.readLE (a + 3) 1) || decide (16 ≤ s.readLE (a + 4) 1) || decide (s.readLE (a + 5) 1 ≠ 0)
    || decide (1024 ≤ s.readLE (a + 6) 2) || !zeroBytes s (a + 20) 236
    || (decide (s.readLE a 1 / 2 % 2 = 0) && s.inForce (s.readLE (a + 6) 2))

/-- The entry as a fill reads it, before the events of R251. -/
def qRead (s : State) (q : Nat) : Qcb :=
  let g := s.qGuest q
  let p := s.qPriv q
  let st := s.readLE (g + 24) 4
  { ring := s.readLE g 8, log2 := s.readLE (g + 8) 1, head := .ofNat 32 (s.readLE (g + 16) 4),
    tail := .ofNat 32 (s.readLE (g + 20) 4), st := qstateOf (st % 8), dberr := st.testBit 3, wdogBit := st.testBit 4,
    recerr := st.testBit 5, reset := st.testBit 6, retired := .ofNat 64 (s.readLE (g + 32) 8),
    fetched := .ofNat 64 (s.readLE (g + 40) 8), en := (s.readLE p 1).testBit 0, enf := (s.readLE p 1).testBit 1,
    home := s.readLE (p + 1) 1 % 4, fepn := s.readLE (p + 2) 1 % 8, tier := s.readLE (p + 3) 1 % 4,
    polder := s.readLE (p + 4) 1 % 16, owner := s.readLE (p + 6) 2 % 1024, rcb := s.readLE (p + 8) 8,
    wdog := s.readLE (p + 16) 4 }

/-- The events of a fill (R245, R246, R251): ENABLE, DISABLE, or a refusal; a queue with RESET stays DISABLED whatever its parts
hold (R251, R365). -/
def qFillEvents (s : State) (q : Nat) (e : Qcb) : Qcb :=
  if e.st = .draining then e
  else if e.reset then { e with st := .disabled }
  else if badGuest s q || badPriv s q then { e with st := .error, recerr := true }
  else if !e.en then { e with st := .disabled }
  else if e.st = .disabled then
    { e with st := .idle, dberr := false, wdogBit := false, recerr := false, reset := false }
  else e

/-- The largest recency in a cache. -/
def lastUsed (m : Map Qcb) : Nat := m.foldl (fun a e => max a e.2.used) 0

/-- The least recently used entry among some. -/
def oldestOf (l : List (Nat × Qcb)) : Option (Nat × Qcb) :=
  l.foldl (fun best e => match best with
    | some b => if e.2.used < b.2.used then some e else best
    | none => some e) none

/-- The entry that a fill of a set evicts: none while a way is free (R248). -/
def victim (m : Map Qcb) (q : Nat) : Option (Nat × Qcb) :=
  let ways := m.filter (fun e => e.1 % 512 == q % 512)
  if ways.length < 8 then none
  else
    match oldestOf (ways.filter (fun e => e.2.st ≠ .active && decide (e.2.st ≠ .waiting))) with
    | some e => some e
    | none => oldestOf ways

/-- Evicts an entry of a terp's cache. -/
def State.qEvict (s : State) (t : Nat) (v : Option (Nat × Qcb)) : State :=
  match v with
  | none => s
  | some (n, e) => (s.qWriteBack n e).updTerp t (fun x => { x with cache := Map.del x.cache n })

/-- The entry of a QCB in its home terp's cache, filled if it was not cached (R248). -/
def State.qFill (s : State) (q : Nat) : State :=
  match s.cached q with
  | some (t, _) =>
    s.updTerp t (fun x => { x with cache := match Map.find x.cache q with
      | some e => Map.put x.cache q { e with used := lastUsed x.cache + 1 }
      | none => x.cache })
  | none =>
    let t := s.qHome q
    let s := s.qEvict t (victim (s.terp t).cache q)
    let raw := qRead s q
    let e := qFillEvents s q raw
    let s := if raw.st = .disabled && decide (e.st = .idle) then s.updLive q (fun l => { l with wd := 0 }) else s
    let s := if e.st = .disabled || decide (e.st = .error) then s.updLive q (fun l => { l with exps := [], faulted := false }) else s
    s.updTerp t (fun x => { x with cache := Map.put x.cache q { e with used := lastUsed x.cache + 1 } })

/-- The cached entry of a queue. -/
def State.qcb (s : State) (q : Nat) : Qcb :=
  match s.cached q with
  | some (_, e) => e
  | none => {}

/-- Changes the cached entry of a queue, if it is cached. -/
def State.updQcb (s : State) (q : Nat) (f : Qcb → Qcb) : State :=
  match s.cached q with
  | some (t, e) => s.updTerp t (fun x => { x with cache := Map.put x.cache q (f e) })
  | none => s

/-- RECFAULT of an enabled queue (R251). -/
def State.recfault (s : State) (q : Nat) : State :=
  if (s.qcb q).st = .disabled ∨ (s.qcb q).st = .draining then s
  else (s.updQcb q (fun e => { e with st := .error, recerr := true })).updLive q (fun l => { l with exps := [], faulted := false })

/-- EMPTY (R251): HEAD = TAIL, every operator retired, no entry in expansion. -/
def State.qEmpty (s : State) (q : Nat) : State :=
  let e := s.qcb q
  let l := s.live q
  if e.st = .active && decide (e.head = e.tail) && decide (l.unret = 0) && l.exps.isEmpty && !l.faulted then
    (s.updQcb q (fun e => { e with st := .idle })).updLive q (fun l => { l with wd := 0 })
  else s

/-- A doorbell accepts a new TAIL (R247). -/
def doorbellOk (e : Qcb) (t : BitVec 32) : Bool :=
  decide ((t - e.tail).toNat < 2 ^ 31) && decide ((t - e.head).toNat ≤ 2 ^ e.log2)

/-- A write to a doorbell's element (R247, R251). -/
def State.ring (s : State) (q off : Nat) (data : List Byte) : State :=
  let s := s.qFill q
  let e := s.qcb q
  let t : BitVec 32 := .ofNat 32 (leOf (data.take 4))
  if off = 0 && decide (4 ≤ data.length) && doorbellOk e t then
    s.updQcb q (fun e => { e with tail := t, st := if e.st = .idle && decide (t ≠ e.head) then .active else e.st })
  else s.updQcb q (fun e => { e with dberr := true })

/-- Bytes of a plain write within one line reach memory: a doorbell takes them (R247); a poisoned line discards them unless
they cover it whole, which clears its mark (R321). -/
def State.plainWrite (s : State) (pa : Nat) (data : List Byte) : State :=
  match s.doorbellOf pa with
  | some q => s.ring q ((pa - s.qdbase.toNat) % 256) data
  | none =>
    if 128 ≤ data.length then (s.delPoison pa).writeBytes pa data
    else if s.poisoned pa then s else s.writeBytes pa data

/-- What a read of a doorbell's 256-byte element returns at an offset: HEAD and the state code of the entry, which is filled
first where it is not cached (R247, R248). -/
def doorbellByte (s : State) (q off : Nat) : Byte :=
  let e := (s.qFill q).qcb q
  let v := e.head.toNat + qcode e.st * 2 ^ 32
  if off < 8 then .ofNat 8 (v / 256 ^ off) else 0

/-- Bytes of plain memory, doorbells answering for themselves (R247). -/
def State.plainBytes (s : State) (pa n : Nat) : List Byte :=
  match s.doorbellOf pa with
  | some q => (List.range n).map (fun i => doorbellByte s q ((pa - s.qdbase.toNat) % 256 + i))
  | none => s.readBytes pa n

/-! Translation (R304 to R307, R310). -/

/-- Field test of a leaf (R305). -/
def leafBit (l n : Nat) : Bool := (l >>> n) % 2 == 1
/-- POLDER of a leaf. -/
def leafPolder (l : Nat) : Nat := bitsOf l 63 60

/-- The table entry is valid and well-formed (R305, R306). -/
def tableEntryOk (s : State) (e : Nat) : Bool :=
  leafBit e 0 && decide (bitsOf e 12 1 = 0) && decide (bitsOf e 63 48 = 0) && s.paOk (bitsOf e 47 13 * 8192)

/-- The frame of a leaf for a virtual address: the physical address the leaf maps it to. -/
def leafPa (l va : Nat) : Nat :=
  if leafBit l 6 then bitsOf l 47 21 * 2097152 + va % 2097152 else bitsOf l 47 16 * 65536 + va % 65536

/-- The whole frame of a leaf lies at addresses that exist: a tier-2 range begins and ends at a MiB (R306, R307, R324). -/
def frameOk (s : State) (l : Nat) : Bool :=
  (if leafBit l 6 then [0, 1048575, 1048576, 2097151] else [0, 65535]).all (fun i => s.paOk (leafPa l 0 + i))

/-- The leaf is valid and well-formed, with its frame at addresses that exist (R305, R306). -/
def leafOk (s : State) (l : Nat) : Bool :=
  leafBit l 0 && decide (bitsOf l 59 48 = 0) && decide (bitsOf l 12 9 = 0) && !leafBit l 7
  && !(leafBit l 3 && (leafBit l 2 || leafBit l 5))
  && (if leafBit l 1 then decide (bitsOf l 47 13 = 0)
      else decide (bitsOf l 15 13 = 0) && (!leafBit l 6 || decide (bitsOf l 20 16 = 0)) && frameOk s l)

/-- Walks the levels left below a table: the address of the leaf (R304). -/
def walkFrom (s : State) (va : Nat) : List Nat → Nat → Option Nat
  | [], _ => none
  | [lo], table => some (table + 8 * bitsOf va (lo + 9) lo)
  | lo :: rest, table =>
    let e := s.readLE (table + 8 * bitsOf va (lo + 9) lo) 8
    if tableEntryOk s e then walkFrom s va rest (bitsOf e 47 13 * 8192) else none

/-- The address of the leaf of a virtual address in a polder's tables; none where a table entry is not valid (R304, R306). -/
def State.leafAddr (s : State) (polder va : Nat) : Option Nat :=
  if va < 2 ^ 56 then walkFrom s va [46, 36, 26, 16] (s.root polder) else none

/-- The island that serves a physical address: that of its DRAM controller, or of the link ports where its tier-2 port lies (R19,
R20). -/
def State.memoryIsland (s : State) (pa : Nat) : Option Nat :=
  if inDram pa then
    let k := pa / 0x180000000
    some (192 + 16 * (k / 8) + k % 8)
  else (s.t2PortOf pa).map (fun p => linkIsland (p / 3))

/-- The island that serves a physical address, with its terp: for a doorbell the front end of its queue's home, else that of the
memory (R20, R248). -/
def State.servedBy (s : State) (pa : Nat) : Option (Nat × Nat) :=
  match s.doorbellOf pa with
  | some q =>
    let t := match s.cached q with
      | some (t, _) => t
      | none => s.qHome q
    some (frontIsland t, t)
  | none => (s.memoryIsland pa).map (fun i => (i, (i - 192) / 16))

/-- The islands of the fabric between two terps: the quadrants of both, and none within one terp. -/
def fabricBetween (t u : Nat) : List Nat := if u = t then [] else [t, u].flatMap (fun v => (List.range 4).map (200 + 16 * v + ·))

/-- The fabric between two terps takes cycles (R351). -/
def State.crossOn (s : State) (t u : Nat) : Bool := (fabricBetween t u).all (fun i => s.islandOn i)

/-- The islands that an access crosses between a place (0 to 31 a cluster, 32 + t any other part of terp t) and a physical
address: for a cluster its basin's and its half of the SRAM die, between two terps the fabric of both, and the island that serves
the address (R16, R19, R20, notes/assumptions/113.md). -/
def State.pathTo (s : State) (src pa : Nat) : List Nat :=
  let t := if src < 32 then src / 8 else src - 32
  (if src < 32 then [cpeIsland src, sramIsland src] else [])
  ++ match s.servedBy pa with
    | none => []
    | some (i, u) => i :: fabricBetween t u

/-- An access from a place to a physical address meets an island that takes no cycles: it waits (R351, R355). -/
def State.paStopped (s : State) (src pa : Nat) : Bool := (s.pathTo src pa).any (fun i => !s.islandOn i)

/-- An access from a place to the page of an address meets an island that takes no cycles. -/
def State.memoryStopped (s : State) (src polder va : Nat) : Bool :=
  s.islands.any (fun e => !s.islandOn e.1)
  && match s.leafAddr polder va with
    | none => false
    | some la =>
      let l := s.readLE la 8
      leafOk s l && !leafBit l 1 && s.paStopped src (leafPa l va)

/-- The move is of the page that an address lies in (R307, R312). -/
def Move.covers (m : Move) (polder va : Nat) : Bool :=
  decide (m.polder = polder) && if m.lg then m.va / 2097152 == va / 2097152 else m.va / 65536 == va / 65536

/-- An access is held: by a move of its page, unless it is ahead of the move's marker (R120, R312), here as an entry of an issue
buffer in which the marker still stands behind it; or by an island between it and its memory (R351). -/
def State.moving (s : State) (src polder va : Nat) (ib : List IbEntry) : Bool :=
  s.moves.any (fun m => m.2.covers polder va &&
    !ib.any (fun e => decide (e.op = .marker m.1)))
  || s.memoryStopped src polder va

/-- Some of the front end's accesses in a polder, as ranges of bytes no longer than a page, are held (R312, R351). -/
def State.feHolds (s : State) (terp polder : Nat) (l : List (Nat × Nat)) : Bool :=
  l.any (fun r => decide (r.2 ≠ 0) && [r.1, r.1 + r.2 - 1].any (fun a => s.moving (32 + terp) polder a []))

/-- What the front end reads and writes of a live region: its guest part, its stage table, the next record of its fault queue, and its
completion signal word (R270, R271). -/
def Region.tables (r : Region) : List (Nat × Nat) :=
  [(r.guest, 128), (r.table, 32 * r.stages.length), (r.fq + 128 * (r.fqtail % 2 ^ r.fqlog2), 128)]
  ++ if r.csig = 0 then [] else [(r.csig, 8)]

/-- The front end's accesses to what it keeps of a region are held. -/
def State.guestHeld (s : State) (rk : Nat) : Bool :=
  let r := s.region rk
  s.feHolds r.terp r.polder r.tables

/-- Whom an access is translated for: its polder, the TLBs on its way (R310: 0 to 127 the cores', 128 + c the second level of
cluster c), and the invalidations whose markers stand behind it (R120). -/
structure Via where
  polder : Nat
  tlbs : List Nat := []
  ahead : List Nat := []
deriving DecidableEq, Repr

/-- The way of an access of a core's context that stands in no issue buffer: a fetch, a word held at issue. -/
def State.viaIssue (s : State) (k : Nat) (bank : Bool) : Via :=
  { polder := (s.ctx k bank).polder, tlbs := [k, 128 + clusterOf k] }

/-- The markers in an issue buffer, all behind its head. -/
def markersOf (ib : List IbEntry) : List Nat :=
  ib.filterMap (fun e => match e.op with
    | .marker id => some id
    | _ => none)

/-- The way of the access at the head of an issue buffer. -/
def State.viaIb (s : State) (k : Nat) (bank : Bool) (st : Stream) : Via :=
  { s.viaIssue k bank with ahead := markersOf ((s.ctx k bank).seq st).ib }

/-- The way of a command's access: it stands ahead of the marker of every invalidation that began after its push
(notes/assumptions/98.md). -/
def State.viaCmd (s : State) (c : Cmd) : Via :=
  { polder := c.polder, tlbs := [128 + clusterOf c.core],
    ahead := (s.invals.filter (fun e => decide (c.id < e.1))).map (·.1) }

/-- The key of a TLB's entry for a page: a 2 MiB page has one entry (R307, R310). -/
def tlbKey (unit polder va : Nat) (lg : Bool) : Nat :=
  ((unit * 16 + polder) * 2 + (if lg then 1 else 0)) * 2 ^ 40 + (if lg then va / 2097152 else va / 65536)

/-- The leaf that a TLB holds for a page. -/
def tlbFind (m : Map Nat) (polder va unit : Nat) : Option Nat :=
  match Map.find m (tlbKey unit polder va true) with
  | some l => some l
  | none => Map.find m (tlbKey unit polder va false)

/-- The entry of a key covers one of `n` pages of a polder from `va` on. -/
def tlbCovers (polder va n key : Nat) : Bool :=
  let page := key % 2 ^ 40
  let lo := va / 65536
  decide (key / 2 ^ 41 % 16 = polder) &&
    if key / 2 ^ 40 % 2 = 1 then decide (page * 32 < lo + n) && decide (lo < page * 32 + 32)
    else decide (lo ≤ page) && decide (page < lo + n)

/-- The entries of every TLB for pages of a polder are dropped (R311). -/
def State.dropTlb (s : State) (polder va n : Nat) : State :=
  { s with tlb := s.tlb.filter (fun e => !tlbCovers polder va n e.1) }

/-- The mapping in force before an invalidation whose marker still stands behind the access: what its own TLBs held, else what
any TLB held (R120, notes/assumptions/98.md). -/
def State.oldLeaf (s : State) (v : Via) (va : Nat) : Option Nat :=
  v.ahead.findSome? (fun id => match Map.find s.invals id with
    | some i => if i.old.isEmpty then none else (v.tlbs ++ List.range 160).findSome? (tlbFind i.old v.polder va)
    | none => none)

/-- The LG leaves of the block that a leaf's address lies in, well-formed, each with its address (R307). -/
def lgLeaves (s : State) (la : Nat) : List (Nat × Nat) :=
  ((s.mem.filter (fun c => decide (c.1 / 256 = la / 256) && decide (c.1 % 8 = 0) && c.2.toNat.testBit 6)).map
    (fun c => (c.1, s.readLE c.1 8))).filter (fun e => leafOk s e.2)

/-- The leaf that a walk finds for an address, with its own address: the leaf in memory or, where an LG leaf stands in its
block, any of these (R307). -/
def State.walkLeaf (s : State) (polder va : Nat) : Option (Nat × Nat) :=
  match s.leafAddr polder va with
  | none => none
  | some la =>
    let own := (la, s.readLE la 8)
    match lgLeaves s la with
    | [] => some own
    | l => some ((l ++ [own]).getD (Config.lgPick s.fresh % (l.length + 1)) own)

/-- The leaf that translates an access, with its address, and whether a TLB served it: the mapping of an invalidation that the
access is ahead of (R120), a leaf that a TLB still holds and that differs from the tables' (R310), or the leaf that a walk finds. -/
def State.leafFor (s : State) (v : Via) (va : Nat) : Option (Nat × Nat × Bool) :=
  let walk := (s.walkLeaf v.polder va).map (fun e => (e.1, e.2, false))
  match (if va < 2 ^ 56 then s.oldLeaf v va else none) with
  | some l => some (0, l, true)
  | none =>
    if 2 ^ 56 ≤ va then none else
    match (v.tlbs.filterMap (tlbFind s.tlb v.polder va)).filter (fun l => decide (walk.map (·.2.1) ≠ some l)) with
    | [] => walk
    | held =>
      match held[Config.tlbUse s.fresh % (held.length + 1)]? with
      | some l => some (0, l, true)
      | none => walk

/-- What an access does to the page it names. -/
inductive Access where
  /-- a load, a copy's read -/
  | read
  /-- a plain store, a copy's write -/
  | write
  /-- a word of chapter 14 that only reads its object -/
  | objRead
  /-- a word of chapter 14 that changes its object -/
  | objWrite
deriving DecidableEq, Repr

/-- The access writes. -/
def Access.writes : Access → Bool
  | .write | .objWrite => true
  | _ => false

/-- A 64 KiB page that holds a privileged part: the privileged QCB array (R244) or a node of an RCB, launched or not (R265). -/
def State.privPage (s : State) (pa : Nat) : Bool :=
  (decide (s.qpbase ≠ 0) && decide (s.qpbase.toNat ≤ pa) && decide (pa < s.qpbase.toNat + 0x10000000))
  || (s.regions.flatMap (fun r => r.2.chain) ++ rcbNodes s).any (fun n => n / 65536 == pa / 65536)

/-- A translated page: the physical address, the leaf and where it lies. -/
structure Xlat where
  pa : Nat
  leaf : Nat
  leafAt : Nat
  /-- a TLB served the access: no walk was made -/
  hit : Bool := false
deriving DecidableEq, Repr

/-- V attribute. -/
def Xlat.v (x : Xlat) : Bool := leafBit x.leaf 2
/-- Y attribute. -/
def Xlat.y (x : Xlat) : Bool := leafBit x.leaf 3
/-- DEM: no frame yet. -/
def Xlat.dem (x : Xlat) : Bool := leafBit x.leaf 1

/-- Translates an access and checks it in the order of R306, POISON apart. -/
def State.translate (s : State) (v : Via) (va : Nat) (acc : Access) : Except Cause Xlat :=
  match s.leafFor v va with
  | none => .error .pageAbsent
  | some (la, l, hit) =>
    let x : Xlat := { pa := leafPa l va, leaf := l, leafAt := la, hit := hit }
    if !leafOk s l then .error .pageAbsent
    else if leafPolder l ≠ v.polder then .error .pageProt
    else if acc.writes && leafBit l 4 then .error .pageProt
    else if acc.writes && !x.dem && s.privPage x.pa then .error .pageProt
    else
      match acc with
      | .write => if x.y then .error .pageType else .ok x
      | .objRead | .objWrite => if x.y then .ok x else .error .pageType
      | .read => .ok x

/-- The walk's own effect: AC is set in the leaf, and the TLBs on the way hold it; an access that a TLB serves makes no walk
(R310). A leaf without a frame enters no TLB (notes/assumptions/99.md). -/
def State.walked (s : State) (v : Via) (va : Nat) (x : Xlat) : State :=
  if x.hit then s
  else
    let now := s.readLE x.leafAt 8
    let l := if leafBit now 8 then now else now + 256
    let s := if leafBit now 8 then s else s.writeLE x.leafAt 8 l
    if leafBit l 1 then s
    else { s with tlb := v.tlbs.foldl (fun m u => Map.put m (tlbKey u v.polder va (leafBit l 6)) l) s.tlb }

/-- The physical address of a virtual one for the front end's own accesses, which no protection of a write refuses (R265), but
which reach no other polder's page (R308). -/
def State.feAddr (s : State) (polder va : Nat) : Option Nat :=
  match s.leafAddr polder va with
  | some la =>
    let l := s.readLE la 8
    if leafOk s l && !leafBit l 1 && decide (leafPolder l = polder) then some (leafPa l va) else none
  | none => none

/-- Reads bytes as the front end; zero where the address does not translate. -/
def State.feRead (s : State) (polder va n : Nat) : Nat :=
  match s.feAddr polder va with
  | some pa => leOf (s.plainBytes pa n)
  | none => 0

/-- Bytes written to doorbells: each element takes its part (R247). -/
def State.ringAll (s : State) (pa : Nat) : Nat → List Byte → State
  | 0, _ => s
  | f + 1, data =>
    let off := (pa - s.qdbase.toNat) % 256
    match data, s.doorbellOf pa with
    | [], _ | _, none => s
    | _, some q => (s.ring q off (data.take (256 - off))).ringAll (pa + (256 - off)) f (data.drop (256 - off))

/-- Writes bytes as the front end; a doorbell takes what is written to it (R247). -/
def State.feWrite (s : State) (polder va : Nat) (data : List Byte) : State :=
  match s.feAddr polder va with
  | some pa => if (s.doorbellOf pa).isSome then s.ringAll pa (data.length / 256 + 2) data else s.writeBytes pa data
  | none => s

/-! Traps: the events of R231 to R236. -/

/-- The CAUSE code (R235). -/
def causeCode : Cause → Nat
  | .illegalEnc => 0x01 | .wRange => 0x02 | .queueMisuse => 0x03 | .pageAbsent => 0x10 | .pageProt => 0x11
  | .pageType => 0x12 | .poison => 0x13 | .quotaMem => 0x20 | .quotaVer => 0x21 | .barrierFault => 0x30
  | .barrierReset => 0x31 | .engineFault => 0x40 | .migrationRedirect => 0x41 | .abortLine => 0x70

/-- A FAULT already taken in this E-cycle by a sequencer that comes later in the order of R233, or none yet. -/
def faultYields (c : Ctx) (cyc : Nat) (st : Stream) : Bool :=
  match c.drain with
  | some (.trap t) => !t.async && decide (c.eventAt = cyc) && decide (streamCode st < streamCode t.st)
  | _ => false

/-- FAULT of a word: the context drains toward the record (R231 to R233). The word changes nothing. A context that already
drains keeps its event, but for a fault of the same E-cycle by a later sequencer (R233). -/
def State.raise (s : State) (k : Nat) (st : Stream) (t : TrapReq) : State :=
  let cyc := (s.core k).cyc
  s.updAct k (fun c =>
    if c.st = .running then { c with st := .draining, drain := some (.trap t), eventAt := cyc }
    else if c.st = .draining && faultYields c cyc st then { c with drain := some (.trap t) }
    else c)

/-- FAULT of the word that runs, found at issue (R126). While an earlier entry of its own issue buffer stands, the word has not
issued and is attempted again; its trap comes after that entry has performed (R122, R232). -/
def State.raiseReq (s : State) (t : TrapReq) : State :=
  if s.me.ib.isEmpty then s.raise s.cur.1 s.cur.2 t else s.updMe (fun q => { q with held := .none })

/-- FAULT of the word that runs: WPC names it (R234). -/
def State.raiseAt (s : State) (cause : Cause) (faddr detail index : Nat) : State :=
  s.raiseReq { cause := cause, st := s.cur.2, wpc := s.me.pc, faddr := faddr, detail := detail, index := index }

/-- The trap of a cause alone. -/
def State.trap (s : State) (cause : Cause) : State := s.raiseAt cause 0 0 0

/-- TRAP: delivered to the group's context, where it waits for the next word boundary (R233). -/
def State.deliver (s : State) (oid : Nat) (t : TrapReq) : State :=
  s.updOid oid (fun c => { c with traps := c.traps ++ [{ t with async := true }] })

/-- QOCC: entries in q0 to q7 then y0 to y3, 4 bits each (R234). -/
def qocc (c : Ctx) : Nat :=
  ((List.range 12).foldl (fun acc i =>
    acc + (if i < 8 then (Map.get [] c.q i).length else ((Map.get [] c.y i).filter (·.ready)).length) * 16 ^ i) 0)

/-- The 128 bytes of a trap record (R234, R367). -/
def recordBytes (s : State) (k : Nat) (bank : Bool) (c : Ctx) (t : TrapReq) (shd : Nat) : List Byte :=
  field 1 (causeCode t.cause)
  ++ field 1 (streamCode t.st + (if bank then 4 else 0) + (if t.async then 8 else 0))
  ++ field 1 (min shd 255) ++ field 1 t.detail ++ field 2 c.lcore.toNat ++ field 2 k
  ++ field 8 c.seqC.pc.toNat ++ field 8 c.seqL.pc.toNat ++ field 8 c.seqE.pc.toNat ++ field 8 c.seqS.pc.toNat
  ++ field 8 t.faddr ++ field 2 t.tag ++ field 1 t.opc ++ field 1 t.sub ++ field 4 t.index ++ field 8 t.done
  ++ field 8 s.tide ++ field 8 c.ecyc.toNat ++ field 6 (qocc c) ++ field 1 c.kme.length ++ field 1 0
  ++ field 8 (if t.async then 0 else t.wpc.toNat) ++ field 32 0

/-- FQHEAD of a region's guest part (R270). -/
def State.fqHead (s : State) (r : Region) : Nat := s.feRead r.polder (r.guest + 40) 4

/-- The fault queue of a region has room (R270). -/
def State.fqRoom (s : State) (r : Region) : Bool :=
  decide ((r.fqtail + 2 ^ 32 - s.fqHead r % 2 ^ 32) % 2 ^ 32 < 2 ^ r.fqlog2)

/-- A record can be written: the fault queue has room (R270), and the accesses to it are not held (R312, R351). -/
def State.recordRoom (s : State) (rk : Nat) : Bool := s.fqRoom (s.region rk) && !s.guestHeld rk

/-- Writes one record to the fault queue in one step (R234, R270). -/
def State.writeRecord (s : State) (rk : Nat) (data : List Byte) : State :=
  let r := s.region rk
  let s := s.feWrite r.polder (r.fq + 128 * (r.fqtail % 2 ^ r.fqlog2)) data
  let tail := (r.fqtail + 1) % 2 ^ 32
  (s.feWrite r.polder (r.guest + 44) (leBytes 4 tail)).updRegion rk (fun r => { r with fqtail := tail })

/-- Clears the first mark of kme: recording the POISON of a take clears it (R199). -/
def clearMark : List (Option Nat) → List (Option Nat)
  | [] => []
  | some _ :: t => none :: t
  | none :: t => none :: clearMark t

/-- Taking a trap (R232, R234): the record is written to the fault queue of the group's region and the context stops. It
waits, DRAINING, while the fault queue is full (R270) or its page moves (R312). -/
def State.takeTrap (s : State) (k : Nat) (bank : Bool) (t : TrapReq) : State :=
  let c := s.ctx k bank
  if s.recordRoom c.group.region then
    (s.writeRecord c.group.region (recordBytes s k bank c t c.shd)).updCtx k bank
      (fun c => { c with st := .stopped, drain := none, taken := some t, notified := false,
                         kme := if t.mark then clearMark c.kme else c.kme })
  else s.updCtx k bank (fun c => { c with taken := some t })

/-- The return from a trap (R236): the context continues from the state of R230 exactly, RUNNING in the active bank and
PARKED in the shadow bank. -/
def State.resumeCtx (s : State) (k : Nat) (bank : Bool) : State :=
  let active := decide (s.bank k = bank)
  s.updCtx k bank (fun c => { c with st := if active then .running else .parked, taken := none, notified := false })

/-- Taking an exception of a front-end processor (R257; the machine mode of the RISC-V privileged architecture,
notes/assumptions/15.md): mepc, mcause and mtval are written, MIE moves to MPIE, and pc goes to the handler at mtvec. -/
def State.fepTrap (s : State) (n code val : Nat) : State :=
  s.updFep n (fun f =>
    let mie := bitsOf f.mstatus.toNat 3 3
    let rest := f.mstatus.toNat - mie * 8 - bitsOf f.mstatus.toNat 7 7 * 128 - bitsOf f.mstatus.toNat 12 11 * 2048
    { f with mepc := f.pc, mcause := .ofNat 64 code, mtval := .ofNat 64 val,
             mstatus := .ofNat 64 (rest + mie * 128 + 3 * 2048), pc := .ofNat 64 (f.mtvec.toNat / 4 * 4) })

/-- Return from an exception of a front-end processor (mret, notes/assumptions/15.md). -/
def State.fepReturn (s : State) (n : Nat) : State :=
  s.updFep n (fun f =>
    let mpie := bitsOf f.mstatus.toNat 7 7
    let rest := f.mstatus.toNat - bitsOf f.mstatus.toNat 3 3 * 8 - mpie * 128
    { f with pc := f.mepc, mstatus := .ofNat 64 (rest + mpie * 8 + 128) })

/-- x[r] of a front-end processor; x0 reads 0. -/
def Fep.get (f : Fep) (r : BitVec 5) : Word := if r = 0 then 0 else Map.get 0 f.x r.toNat
/-- x[r] := v of a front-end processor; a write to x0 is discarded (R256). -/
def Fep.set (f : Fep) (r : BitVec 5) (v : Word) : Fep := if r = 0 then f else { f with x := Map.set 0 f.x r.toNat v }

end Sys2Proof.Machine
end

