-- ==== Sys2Proof/Machine/Operands.lean ====
section
/-! DEFINITION. Wide operands: slice positions, queue entries, masks, and the checks of a vector word's operands (R64 to R68,
R79, R157). -/

namespace Sys2Proof.Machine

/-- The last linear position of a bank (R66). -/
def wLast : Nat := 767 * 128 + 127

/-- A slice of the W bank. -/
def Ctx.slice (c : Ctx) (lin : Nat) : BitVec 4 := Map.get 0 c.w lin

/-- `slice_read` (R79): n slices from a position, the lowest in the low nibble. -/
def Ctx.sliceRead (c : Ctx) (lin : Nat) : Nat → Nat
  | 0 => 0
  | n + 1 => (c.slice lin).toNat + 16 * c.sliceRead (lin + 1) n

/-- The slices of a value: the writes of `slice_write` (R79). -/
def sliceWrites (lin : Nat) : Nat → Nat → List (Nat × BitVec 4)
  | 0, _ => []
  | n + 1, v => (lin, .ofNat 4 v) :: sliceWrites (lin + 1) n (v / 16)

/-- The start of element i of a W operand, not checked (`elem_pos` of R79): `rb` is the rotating base. -/
def elemPos (f : WOp) (rb i w : Nat) : Nat :=
  let s := f.str.toNat + 1
  let b := f.row.toNat + (if f.rb then rb else 0)
  match f.dir with
  | .r => b * 128 + f.slc.toNat + i * w * s
  | .c => (b + i * s) * 128 + f.slc.toNat
  | .d => (b + i * s) * 128 + (f.slc.toNat + i * w * s) % 128
  | .a => (b + i * s) * 128 + ((f.slc.toNat : Int) - (i * w * s : Nat)).emod 128 |>.toNat

/-- The start of element i in a queue entry (R67). -/
def queuePos (f : WOp) (i w : Nat) : Nat := f.slc.toNat + i * w * (f.str.toNat + 1)

/-- Bits of a queue entry: w slices from slice lin (R67). -/
def entrySlices (e : BitVec 512) (lin w : Nat) : Nat := e.toNat / 16 ^ lin % 16 ^ w

/-- The mask's 128 bits; m0 reads as all ones (R63). -/
def Ctx.mask (c : Ctx) (m : MReg) : BitVec 128 := if m = 0 then .allOnes 128 else Map.get 0 c.masks m.toNat

/-- Lane i of a mask (R68). -/
def active (m : BitVec 128) (i : Nat) : Bool := m.getLsbD i

/-- The operand queue that a source field names. -/
def queueOf (f : WOp) : Nat := f.row.toNat - 1016

/-- The head entry of the operand queue that a field names. -/
def Ctx.headEntry (c : Ctx) (f : WOp) : BitVec 512 :=
  match Map.get [] c.q (queueOf f) with
  | e :: _ => e.data
  | [] => 0

/-- Sign- or zero-extension of a source element (R65). -/
def extend (ty : Ty) (w v : Nat) : Int := if tySigned ty then signed v (4 * w) else (v : Int)

/-- `elem_read` (R79) with an element width: the raw value of element i. -/
def Ctx.elemRaw (c : Ctx) (rb : Nat) (f : WOp) (i w : Nat) : Nat :=
  if isQueue f then entrySlices (c.headEntry f) (queuePos f i w) w else c.sliceRead (elemPos f rb i w) w

/-- `elem_read` (R79): element i as an integer, extended under R65. -/
def Ctx.elemInt (c : Ctx) (rb : Nat) (f : WOp) (i : Nat) (ty : Ty) : Int :=
  extend ty (opw f ty) (c.elemRaw rb f i (opw f ty))

/-- Element i as the raw bits of the type, extended under R65. -/
def Ctx.elemBits (c : Ctx) (rb : Nat) (f : WOp) (i : Nat) (ty : Ty) : Nat := wrapNat (c.elemInt rb f i ty) (tyBits ty)

/-- The entry that a queue operand reads holds an uncorrectable error (R320). -/
def Ctx.badEntry (c : Ctx) (f : WOp) : Bool :=
  match Map.get [] c.q (queueOf f) with
  | e :: _ => e.poison.isSome
  | [] => false

/-- The fault of an element of an operand: W_RANGE under R66, QUEUE_MISUSE under R67, POISON under R157 and R320. -/
def Ctx.elemFault (c : Ctx) (rb : Nat) (reads : Bool) (f : WOp) (i w : Nat) : Option Cause :=
  if isQueue f then
    (if 128 < queuePos f i w + w then some .queueMisuse else if reads && c.badEntry f then some .poison else none)
  else
    let p := elemPos f rb i w
    if wLast < p + w - 1 then some .wRange
    else if reads && (List.range w).any (fun j => c.wPoison.contains (p + j)) then some .poison
    else none

/-- The first fault of the elements of an operand, in lane order. -/
def Ctx.opFault (c : Ctx) (rb : Nat) (reads : Bool) (f : WOp) (w : Nat) (elems : List Nat) : Option Cause :=
  elems.findSome? (fun i => c.elemFault rb reads f i w)

/-- The lanes of a list that are active. -/
def activeLanes (m : BitVec 128) (n : Nat) : List Nat := (List.range n).filter (active m)

/-- The W slices that a destination operand's results write: position and nibble (`elem_write` of R79). -/
def wWrites (f : WOp) (rb w : Nat) (res : List (Nat × Nat)) : List (Nat × BitVec 4) :=
  res.flatMap (fun r => sliceWrites (elemPos f rb r.1 w) w r.2)

/-- The y entry that a destination operand's results make: slices of no active lane are 0 (R67). -/
def yEntry (f : WOp) (w : Nat) (res : List (Nat × Nat)) : BitVec 512 :=
  .ofNat 512 (res.foldl (fun acc r =>
    let sh := 16 ^ queuePos f r.1 w
    let old := acc / sh % 16 ^ w
    acc - old * sh + (r.2 % 16 ^ w) * sh) 0)

/-- W row r of the active bank as an entry of 512 bits (R149). -/
def Ctx.wRow (c : Ctx) (r : Nat) : BitVec 512 := .ofNat 512 (c.sliceRead (r * 128) 128)

/-- The mask register's bits as a 128-bit value from a list of lanes. -/
def maskOfLanes (l : List Nat) : BitVec 128 := .ofNat 128 (l.foldl (fun acc i => acc ||| 2 ^ i) 0)

/-- 1 in bits 0 to n − 1. -/
def lowOnes (n : Nat) : BitVec 128 := .ofNat 128 (2 ^ n - 1)

/-- An ACS element's place from an ACS address and the x register's value: tile, and the lane's element index (R175). -/
def acsIndex (a : AcsAddr) (xr : Word) (lane : Nat) : Nat :=
  let g := (a.row.toNat * 8 + a.cg.toNat + xr.toNat) % 1024
  a.tile.toNat * 16384 + g / 8 * 128 + 16 * (g % 8) + lane

end Sys2Proof.Machine
end

