-- ==== Sys2Proof/Machine/Flags.lean ====
section
/-! DEFINITION. Flags: the flag word wf and when C sees it (R128, R169), NSTAT (R95), and the branch conditions (R59). -/

namespace Sys2Proof.Machine

/-- Number of set bits among the n low ones. -/
def countOnes (m : BitVec 128) (n : Nat) : Nat := ((List.range n).filter (fun i => m.getLsbD i)).length

/-- The flag word of bits 0 to n − 1 of mask `a` (R128, R169). -/
def flagWord (a : MReg) (m : BitVec 128) (n : Nat) : BitVec 32 :=
  let k := countOnes m n
  .ofNat 32 (k % 128 + (if k ≠ 0 then 128 else 0) + (if k = n then 256 else 0) + (if k = 0 then 512 else 0)
    + a.toNat * 1024)

/-- wf.ANY. -/
def wfAny (w : BitVec 32) : Bool := w.getLsbD 7
/-- wf.ALL. -/
def wfAll (w : BitVec 32) : Bool := w.getLsbD 8
/-- wf.NONE. -/
def wfNone (w : BitVec 32) : Bool := w.getLsbD 9
/-- The full count of R128. -/
def wfCount (w : BitVec 32) : Nat :=
  let c := w.toNat % 128
  if c = 0 && wfAll w then 128 else c

/-- The E-cycles between the landing of a flag word and C's seeing it (R128). -/
def flagDelay : Nat := 6

/-- Flag words whose time has come are the ones that C sees (R128). -/
def Ctx.seeFlags (c : Ctx) (cyc : Nat) : Ctx :=
  { c with wf := (c.wfNext.filter (fun e => decide (e.1 ≤ cyc))).foldl (fun _ e => e.2) c.wf,
           wfNext := c.wfNext.filter (fun e => decide (cyc < e.1)) }

/-- NSTAT events are recorded (R95). -/
def Ctx.record (c : Ctx) (bits : BitVec 32) : Ctx := { c with nstat := c.nstat ||| bits }

/-- A W1C write of NSTAT (R7, R95). -/
def Ctx.clearNstat (c : Ctx) (v : Word) : Ctx := { c with nstat := c.nstat &&& ~~~(v.setWidth 32) &&& 7 }

/-- NSTAT bits of an NV event. -/
def nvBits (b : Bool) : BitVec 32 := if b then nNv else 0

end Sys2Proof.Machine
end

