-- ==== Sys2Proof/Machine/QueueOps.lean ====
section
/-! DEFINITION. What reads and walks do to the QCB cache and the tables, and the host's writes to doorbells (R243 to R251, R310). -/

namespace Sys2Proof.Machine

/-- A plain read that lands in a doorbell's element fills the entry of its queue (R248). -/
def State.rung (s : State) (x : Xlat) : State :=
  match s.doorbellOf x.pa with
  | some q => if x.v || x.dem then s else s.qFill q
  | none => s

/-- What the translations of a list of addresses do, for accesses of one kind: the walks (R310), and for reads the fills of
doorbells' queues (R248). -/
def walkAll (v : Via) (acc : Access) : List Nat → State → State
  | [], s => s
  | va :: t, s =>
    walkAll v acc t (match s.translate v va acc with
      | .ok x => if acc = .read then (s.walked v va x).rung x else s.walked v va x
      | .error _ => s)

/-- A range of bytes cut at line boundaries. -/
def cutLines : Nat → Nat → Nat → List (Nat × Nat)
  | 0, _, _ => []
  | f + 1, va, n =>
    if n = 0 then [] else
    let m := min n (128 - va % 128)
    (va, m) :: cutLines f (va + m) (n - m)

/-- What the front end's read of a range does: a doorbell in it fills its queue's entry (R248). -/
def qTouch (s : State) (polder va n : Nat) : State :=
  (cutLines (n / 128 + 2) va n).foldl (fun s r => match s.translate { polder := polder } r.1 .read with
    | .ok x => s.rung x
    | .error _ => s) s

/-- What such a read does on behalf of a queue, whose own entry is cached again where the fill has evicted it. -/
def qTouchFor (s : State) (q polder va n : Nat) : State := (qTouch s polder va n).qFill q

/-- DOORBELL: a write of the host to a doorbell's element (R247). -/
def execDoorbell (q off : Nat) (data : List Byte) (s : State) : Host.Outcome State Fault Refusal :=
  .next (if q < 2 ^ 20 && decide (off < 256) && decide (data ≠ []) && !s.inReset then s.ring q off data else s)

end Sys2Proof.Machine
end

