-- ==== Sys2Proof/Machine/Versions.lean ====
section
/-! DEFINITION. Charges, versions, owners, commits, conflicts, and what ends a group or a command (R102, R108 to R114, R226,
R267, R286, R309, R314). -/

namespace Sys2Proof.Machine

/-! Charges (R267). -/

/-- The limit and the count of a node that a charge of one more would break: MEMQ and USEDM, or VERQ and USEDV. -/
def overQuota (s : State) (ver : Bool) (node : Nat) : Bool :=
  let q := s.readLE (node + (if ver then 32 else 24)) 8
  let u := s.readLE (node + (if ver then 56 else 48)) 8
  decide (q ≠ 0) && decide (q < u + 1)

/-- Adds to the count of every node of a chain. -/
def addUsed (ver : Bool) (d : Int) : List Nat → State → State
  | [], s => s
  | n :: t, s =>
    let a := n + (if ver then 56 else 48)
    addUsed ver d t (s.writeLE a 8 (wrapNat ((s.readLE a 8 : Nat) + d) 64))

/-- Charges one frame or one version to a chain: refused with the KIND of the nearest node whose limit it would break
(R267). -/
def charge (s : State) (ver : Bool) (chain : List Nat) : Except Nat State :=
  match chain.find? (overQuota s ver) with
  | some n => .error (s.readLE n 1)
  | none => .ok (addUsed ver 1 chain s)

/-- The bytes of a frame: of 64 KiB, or of a 2 MiB page (R307). -/
def frameBytes (lg : Bool) : Nat := if lg then 2097152 else 65536

/-- The frame that a frame list gives: its first, or for a 2 MiB page the first aligned run of 32 that it holds
(notes/assumptions/50.md). -/
def takeFrame (lg : Bool) (l : List Nat) : Option Nat :=
  if lg then l.find? (fun f => decide (f % 2097152 = 0) && (List.range 32).all (fun i => l.contains (f + 65536 * i))) else l.head?

/-- A frame list without the frame that it has given. -/
def leaveFrame (lg : Bool) (f : Nat) (l : List Nat) : List Nat :=
  if lg then l.filter (fun g => decide (g / 2097152 ≠ f / 2097152)) else l.drop 1

/-- The frames that a page gives back to a list. -/
def framesIn (lg : Bool) (f : Nat) : List Nat := (List.range (if lg then 32 else 1)).map (fun i => f + 65536 * i)

/-- The addresses of the leaves of a page: of the one leaf at an address, or of those of its block that a 2 MiB page writes alike
(R307). -/
def blockOf (s : State) (la l : Nat) : List Nat :=
  if leafBit l 6 then ((List.range 32).map (fun i => la / 256 * 256 + 8 * i)).filter (fun a =>
    decide (a = la) || decide (s.readLE a 8 / 512 = l / 512) && decide (s.readLE a 8 % 256 = l % 256))
  else [la]

/-- Allocates the frame of a DEM leaf before a write performs (R309): a chain is charged, the frame comes zeroed from the
polder's DRAM list; refused with the DETAIL of the record. -/
def frameFor (s : State) (polder : Nat) (chain : List Nat) (x : Xlat) : Except Nat State :=
  match charge s false chain with
  | .error k => .error k
  | .ok s1 =>
    let lg := leafBit x.leaf 6
    let free := Map.get [] s1.frames (polder * 2)
    match takeFrame lg free with
    | none => .error 0x81
    | some f =>
      let n := frameBytes lg
      let s2 := ({ s1 with frames := Map.put s1.frames (polder * 2) (leaveFrame lg f free),
                           poison := s1.poison.filter (fun l => markOf l / n != f / n) }).zeroRange f n
      .ok ((blockOf s x.leafAt x.leaf).foldl (fun s a => s.writeLE a 8 (x.leaf - x.leaf % 4 / 2 * 2 + f)) s2)

/-- The frame of a DEM leaf, charged to the chain of a region (R267, R309). -/
def demandFrame (s : State) (polder rk : Nat) (x : Xlat) : Except Nat State := frameFor s polder (s.region rk).chain x

/-! Objects: the slot image (R292) as far as ending a group touches it. -/

/-- KIND of a slot. -/
def State.kind (s : State) (pa : Nat) : Nat := s.readLE pa 1
/-- WAITERS of a slot. -/
def State.waitersOf (s : State) (pa : Nat) : Nat := s.readLE (pa + 12) 4

/-- Sets the waiters of an object: the line of R294, WAITERS, and a barrier's STATE (R297). -/
def State.setWaiters (s : State) (pa : Nat) (ws : List Waiter) : State :=
  let s := s.updObj pa (fun o => { o with waiters := ws })
  let s := s.writeLE (pa + 12) 4 ws.length
  if s.kind pa = 2 && decide (s.readLE (pa + 1) 1 ≠ 0) then s.writeLE (pa + 1) 1 (if ws.isEmpty then 1 else 2) else s

/-- Drops every waiter that a test names (R294). -/
def dropWaitersIn (test : Waiter → Bool) : List (Nat × ObjX) → State → State
  | [], s => s
  | (pa, o) :: t, s =>
    dropWaitersIn test t
      (if o.waiters.any test then s.setWaiters pa (o.waiters.filter (fun w => !test w)) else s)

/-- Drops the waiting words of a group (R294). -/
def State.dropWaiters (s : State) (oid : Nat) : State := dropWaitersIn (fun w => w.oid == oid) s.objs s

/-! Versions. -/

/-- The chain of a line. -/
def State.chain (s : State) (line : Nat) : List Version := Map.get [] s.vers line

/-- Removes the versions of a chain that a test names; each returns its pool entry and its charge (R314). -/
def dropIn (test : Version → Bool) : List Version → State → State
  | [], s => s
  | v :: t, s =>
    if test v then
      dropIn test t (addUsed true (-1) (s.region v.node).chain
        { s with pool := Map.put s.pool v.polder (Map.get 0 s.pool v.polder - 1) })
    else dropIn test t s

/-- Removes the versions that a test names from every line. -/
def dropVersions (test : Version → Bool) : List (Nat × List Version) → State → State
  | [], s => s
  | (line, vs) :: t, s =>
    let s := dropIn test vs s
    dropVersions test t
      (if vs.any test then { s with vers := Map.set [] s.vers line (vs.filter (fun v => !test v)) } else s)

/-- Removes every provisional version of an owner in one step (R110, R114). -/
def State.dropOwner (s : State) (o : Owner) : State := dropVersions (fun v => decide (v.owner = some o)) s.vers s

/-- The committed version of a chain with the largest tide up to a limit. -/
def newestUpTo (limit : Nat) (vs : List Version) : Option Version :=
  vs.foldl (fun best v =>
    if v.owner.isSome || decide (limit < v.tide) then best
    else match best with
      | some b => if b.tide ≤ v.tide then some v else best
      | none => some v) none

/-- The base of a line: the bytes and the mark in the frame (R314). -/
def State.base (s : State) (line : Nat) : List Byte × Bool := (s.readBytes line 128, s.poisoned line)

/-- `v_read` (R109, R319): the first provisional version of the owners of a view, else the committed version of the largest
tide up to the snapshot, else the base; its bytes and its mark. -/
def State.vRead (s : State) (view : List Owner) (snap line : Nat) : List Byte × Bool :=
  let vs := s.chain line
  match view.findSome? (fun o => vs.find? (fun v => decide (v.owner = some o))) with
  | some v => (v.data, v.poison)
  | none =>
    match newestUpTo snap vs with
    | some v => (v.data, v.poison)
    | none => s.base line

/-- Bytes put over bytes from an offset. -/
def mergeBytes (old : List Byte) (off : Nat) (new : List Byte) : List Byte :=
  old.take off ++ new ++ old.drop (off + new.length)

/-! Owners and their age (R110). -/

/-- What decides between two owners (R110). -/
structure OwnInfo where
  pinned : Bool := false
  begin : Nat := 0
  isCmd : Bool := false
  core : Nat := 0
  bank : Nat := 0
  id : Nat := 0
deriving DecidableEq, Repr

/-- The group of an open transaction. -/
def State.txnGroup (s : State) (id : Nat) : Option Nat :=
  let here := (s.cores.flatMap (fun e => [e.2.a, e.2.b])) ++ s.saved.map (·.ctx)
  (here.find? (fun c => match c.txn with
    | some t => t.id == id
    | none => false)).map (·.oid)

/-- The context of a group: on a core, or in a saved image. -/
def State.ctxOid (s : State) (oid : Nat) : Ctx :=
  match s.findOid oid with
  | some (k, b) => s.ctx k b
  | none => match s.saved.find? (fun v => v.ctx.oid == oid) with
    | some v => v.ctx
    | none => {}

/-- What decides an owner's age. A saved image stands on no core and counts above every core (notes/assumptions/11.md). -/
def State.ownInfo (s : State) : Owner → OwnInfo
  | .cmd id =>
    match Map.find s.cmds id with
    | some c => { begin := c.begin, isCmd := true, id := id }
    | none => { isCmd := true, id := id }
  | .group oid =>
    let c := s.ctxOid oid
    let at_ := (s.findOid oid).getD (128, false)
    { pinned := c.pinned, begin := c.begin, core := at_.1, bank := if at_.2 then 1 else 0, id := oid }
  | .remote d id => { begin := Map.get s.tide (s.port d).rcmds id, isCmd := true, id := id }
  | .txn id =>
    let oid := (s.txnGroup id).getD 0
    let c := s.ctxOid oid
    let at_ := (s.findOid oid).getD (128, false)
    match c.txn with
    | some t => { pinned := t.pinned, begin := t.begin, core := at_.1, bank := if at_.2 then 1 else 0, id := oid }
    | none => { id := oid }

/-- `a` is the younger of two owners (R110). -/
def younger (a b : OwnInfo) : Bool :=
  if a.pinned ≠ b.pinned then b.pinned
  else if a.begin ≠ b.begin then decide (b.begin < a.begin)
  else if a.isCmd ≠ b.isCmd then a.isCmd
  else if a.isCmd then decide (b.id < a.id)
  else if a.core ≠ b.core then decide (b.core < a.core)
  else decide (b.bank < a.bank)

/-! Ending commands and groups. -/

/-- Word i of a command, x(8 + i). -/
def Cmd.w (c : Cmd) (i : Nat) : Nat := (c.words.getD i 0).toNat
/-- OPC. -/
def Cmd.opc (c : Cmd) : Nat := c.w 0 % 256
/-- TAG. -/
def Cmd.tagField (c : Cmd) : Nat := bitsOf (c.w 0) 31 16
/-- BND. -/
def Cmd.bnd (c : Cmd) : Bool := bitsOf (c.w 0) 9 9 == 1
/-- CW. -/
def Cmd.cw (c : Cmd) : Bool := bitsOf (c.w 0) 10 10 == 1

/-- A command leaves the machine: its engine, its core's count (R211, R150), its FIFO, its provisional versions. -/
def State.removeCmd (s : State) (id : Nat) : State :=
  match Map.find s.cmds id with
  | none => s
  | some c =>
    let s := s.dropOwner (.cmd id)
    let s := s.updCluster (clusterOf c.core) (fun cl =>
      { cl with cpe := { cl.cpe with
          run := cl.cpe.run.filter (· != id),
          fifo := Map.upd [] cl.cpe.fifo (c.core % 4) (fun l => l.filter (fun e => decide (e ≠ .cmd id))) } })
    let s := s.updCore c.cnt (fun k => { k with inflight := k.inflight - 1 })
    { s with cmds := Map.del s.cmds id,
             objs := s.objs.map (fun o => (o.1, { o.2 with arrivals := o.2.arrivals.filter (· != id) })) }

/-- The physical address of a completion word: a plain, writable page (R206), else the cause that refuses it. -/
def State.cwAddr (s : State) (c : Cmd) : Except Cause Xlat :=
  if c.w 7 / 2 ^ 20 = 2 ^ 36 - 1 then .error .pageAbsent
  else match s.translate (s.viaCmd c) (c.w 7) .write with
  | .error e => .error e
  | .ok x => if x.v then .error .pageType else .ok x

/-- A faulting command still has a completion word to write: CW is set and its address stands (R206, R212). -/
def State.faultWord (s : State) (c : Cmd) : Bool :=
  c.cw && decide (c.w 7 % 8 = 0) && match s.cwAddr c with
    | .ok _ => true
    | .error _ => false

/-- The record fields of a command's trap (R226). -/
def cmdTrap (c : Cmd) (cause : Cause) (sub faddr detail : Nat) : TrapReq :=
  { cause := cause, async := true, st := c.st, faddr := faddr, tag := c.tagField, opc := c.opc, sub := sub, detail := detail,
    index := if c.opc ∈ [4, 5, 6] then c.cur else 0, done := c.done, cmd := some c.id }

/-- A command ends with ENGINE_FAULT (R226): its versions are removed and its pusher takes the trap; a completion word is then
the last step of its end (R212). A killed command only goes (R229). -/
def State.faultCmd (s : State) (id sub faddr : Nat) : State :=
  match Map.find s.cmds id with
  | none => s
  | some c =>
    if c.killed then s.removeCmd id
    else if c.ending = .faulted then s
    else
      let s := (s.dropOwner (.cmd id)).deliver c.oid (cmdTrap c .engineFault sub faddr 0)
      if s.faultWord c then s.updCmd id (fun c => { c with status := 1, ending := .faulted, susp := false, wait := none })
      else s.removeCmd id

/-- A started command is killed: it ends at its next step, and an arrival of it that is held is dropped (R229, R299). -/
def State.killStarted (s : State) (id : Nat) : State :=
  { (s.updCmd id (fun c => { c with killed := true })) with
    objs := s.objs.map (fun o => (o.1, { o.2 with arrivals := o.2.arrivals.filter (· != id) })) }

/-- The commands of a group end as R229 states for a kill: those not started are discarded, those started end at their next
step. -/
def killCmds (oid : Nat) : List (Nat × Cmd) → State → State
  | [], s => s
  | (id, c) :: t, s =>
    killCmds oid t (if c.oid = oid then (if c.started then s.killStarted id else s.removeCmd id) else s)

/-- The bank context becomes EMPTY: its waiters are dropped, its provisional versions removed, its culverts closed, its term
ended, its remap entry freed (R114, R190, R194, R231, R302). -/
def State.freeCtx (s : State) (k : Nat) (bank : Bool) : State :=
  let c := s.ctx k bank
  let s := s.dropWaiters c.oid
  let s := s.dropOwner (.group c.oid)
  let s := match c.txn with
    | some t => s.dropOwner (.txn t.id)
    | none => s
  let s := s.updCore k (fun co =>
    { co with cul := (List.range 4).foldl (fun m i => if c.culs.getD i 0 ≠ 0 then Map.put m i {} else m) co.cul })
  let s := s.updCluster (clusterOf k) (fun cl =>
    if cl.mxa.holder = some k && decide (s.bank k = bank) then { cl with mxa := { cl.mxa with holder := none } } else cl)
  let s := s.updRegion c.group.region (fun r => { r with remap := r.remap.filter (fun e => e.2 != 2 * k + (if bank then 1 else 0)) })
  s.setCtx k bank {}

/-- A group restarts (R286): discarded as for a kill, its grid position returns to PENDING with its begin tide. -/
def State.restartGroup (s : State) (oid : Nat) : State :=
  let back (c : Ctx) (s : State) : State :=
    s.updRegion c.group.region (fun r =>
      { r with returned := r.returned ++ [{ stage := c.group.stage, gidx := c.group.gidx, begin := c.begin, grun := c.grun }] })
  match s.findOid oid with
  | some (k, b) =>
    let c := s.ctx k b
    back c ((killCmds oid s.cmds s).freeCtx k b)
  | none =>
    match s.saved.find? (fun v => v.ctx.oid == oid) with
    | some v =>
      let s := killCmds oid s.cmds s
      let s := (s.dropWaiters oid).dropOwner (.group oid)
      let s := match v.ctx.txn with
        | some t => s.dropOwner (.txn t.id)
        | none => s
      back v.ctx { s with saved := s.saved.filter (fun v => v.ctx.oid != oid) }
    | none => s

/-- `abort(o)` (R110): a group restarts, a transaction is doomed, a command ends with SUB 6 CONFLICT,
and a peer's command is refused from here on (R327). -/
def State.abortOwner (s : State) (o : Owner) : State :=
  match o with
  | .group oid => s.restartGroup oid
  | .txn id =>
    let oid := (s.txnGroup id).getD 0
    (s.dropOwner o).updOid oid (fun c =>
      { c with txn := c.txn.map (fun t => if t.id = id then { t with doomed := true } else t) })
  | .cmd id => s.faultCmd id 6 0
  | .remote d id => (s.dropOwner o).updPort d (fun p => { p with dead := p.dead ++ [id] })

/-- `abort(o)` of the writer itself, whose step at an address failed: a command's record names that address (R226). -/
def State.abortWriter (s : State) (o : Owner) (va : Nat) : State :=
  match o with
  | .cmd id => s.faultCmd id 6 va
  | _ => s.abortOwner o

/-! `v_write` (R109, R314, R318, R319, R321). -/

/-- Who writes a line, and on what terms. -/
structure Writer where
  owner : Owner
  /-- the writer's own group, which a transaction never conflicts with (R319) -/
  group : Option Owner := none
  snap : Nat
  pinned : Bool := false
  polder : Nat
  node : Nat
deriving DecidableEq, Repr

/-- How a V-page write ends. -/
inductive VWrite where
  | done (s : State)
  | wait (s : State)
  /-- the writer lost the conflict and is aborted -/
  | aborted (s : State)
  | fault (c : Cause) (detail : Nat)

/-- Resolves the conflicts of a write with the other owners of provisional versions of the line (R109, R110): an owner that an
earlier abort has left without one is none of them. -/
def resolveAll (w : Writer) (va line : Nat) : List Owner → State → VWrite
  | [], s => .done s
  | q :: t, s =>
    if !(s.chain line).any (fun v => decide (v.owner = some q)) then resolveAll w va line t s else
    let a := s.ownInfo w.owner
    let b := s.ownInfo q
    if a.pinned && b.pinned then .wait s
    else if younger a b then .aborted (s.abortWriter w.owner va)
    else resolveAll w va line t (s.abortOwner q)

/-- The owners of provisional versions that conflict with a writer. -/
def rivals (w : Writer) (vs : List Version) : List Owner :=
  vs.filterMap (fun v => match v.owner with
    | some q => if q = w.owner || some q = w.group then none else some q
    | none => none)

/-- The mark of the bytes that a new version starts from comes of a MARGIN event (R356). -/
def marginFrom (w : Writer) (vs : List Version) (s : State) (line : Nat) : Bool :=
  match w.group.bind (fun g => vs.find? (fun v => decide (v.owner = some g))), newestUpTo (2 ^ 64) vs with
  | some v, _ | none, some v => v.margin
  | none, none => (marginMarks s.poison).contains line

/-- The new provisional version of a writer, once no conflict stands (R109, R314). -/
def newVersion (w : Writer) (va line off : Nat) (data : List Byte) (s : State) : VWrite :=
  let vs := s.chain line
  let c := newestUpTo (2 ^ 64) vs
  let newer := match c with
    | some v => decide (w.snap < v.tide)
    | none => false
  if newer && !w.pinned then .aborted (s.abortWriter w.owner (va + off))
  else
    let from_ := match w.group.bind (fun g => vs.find? (fun v => decide (v.owner = some g))), c with
      | some v, _ => (v.data, v.poison)
      | none, some v => (v.data, v.poison)
      | none, none => s.base line
    let full := decide (128 ≤ data.length)
    if from_.2 && !full then .fault .poison (if marginFrom w vs s line then 0x80 else 0)
    else if 15 ≤ vs.length then .wait s
    else if s.ptField w.polder 32 8 ≤ Map.get 0 s.pool w.polder then .fault .quotaVer 0
    else
      match charge s true (s.region w.node).chain with
      | .error k => .fault .quotaVer k
      | .ok s =>
        let v : Version := { owner := some w.owner, data := mergeBytes from_.1 off data, node := w.node, polder := w.polder,
                             va := va }
        .done { s with pool := Map.put s.pool w.polder (Map.get 0 s.pool w.polder + 1),
                       vers := Map.put s.vers line (vs ++ [v]) }

/-- `v_write` of bytes within one line (R109), at the line's virtual address. -/
def State.vWrite (s : State) (w : Writer) (va line off : Nat) (data : List Byte) : VWrite :=
  let vs := s.chain line
  match vs.find? (fun v => decide (v.owner = some w.owner)) with
  | some v =>
    if v.poison && decide (data.length < 128) then .fault .poison (if v.margin then 0x80 else 0)
    else
      .done { s with vers := Map.put s.vers line (vs.map (fun u =>
        if u.owner = some w.owner then { u with data := mergeBytes u.data off data, poison := false, margin := false }
        else u)) }
  | none =>
    match resolveAll w (va + off) line (rivals w vs) s with
    | .done s => newVersion w va line off data s
    | r => r

/-! Commits (R112, R113, R115, R296). -/

/-- Stamps the versions of an owner that P names with a tide (`commit_versions`, R112). -/
def stamp (o : Owner) (t : Nat) (inP : Version → Bool) (m : Map (List Version)) : Map (List Version) :=
  m.map (fun e =>
    (e.1, e.2.map (fun v => if v.owner = some o && inP v then { v with owner := none, tide := t } else v)))

/-- The commit step (R112): the tide advances by 1 and the owner's versions in P carry it. -/
def State.commit (s : State) (o : Owner) (inP : Version → Bool) : State :=
  { s with tide := s.tide + 1, vers := stamp o (s.tide + 1) inP s.vers }

/-- The owner holds a provisional version in P. -/
def State.holds (s : State) (o : Owner) (inP : Version → Bool) : Bool :=
  s.vers.any (fun e => e.2.any (fun v => decide (v.owner = some o) && inP v))

/-- The owner of the V-page writes of a context: its open transaction, else its group (R318). -/
def Ctx.writer (c : Ctx) : Owner :=
  match c.txn with
  | some t => .txn t.id
  | none => .group c.oid

/-- The owners whose provisional versions a context reads, first to last (R319). -/
def Ctx.view (c : Ctx) : List Owner :=
  match c.txn with
  | some t => if t.doomed then [] else [.txn t.id, .group c.oid]
  | none => [.group c.oid]

/-- The snapshot under which a context reads (R108, R318). -/
def Ctx.readSnap (c : Ctx) : Nat :=
  match c.txn with
  | some t => t.snap
  | none => c.snap

/-- The terms under which a context writes V pages. -/
def Ctx.writerOf (c : Ctx) : Writer :=
  match c.txn with
  | some t => { owner := .txn t.id, group := some (.group c.oid), snap := t.snap, pinned := t.pinned, polder := c.polder,
                node := c.group.region }
  | none => { owner := .group c.oid, snap := c.snap, pinned := c.pinned, polder := c.polder, node := c.group.region }

/-- The acquire's snapshot step for the context's owner (R108, R116). -/
def Ctx.snapshot (c : Ctx) (tide : Nat) : Ctx :=
  match c.txn with
  | some t => { c with txn := some { t with snap := tide } }
  | none => { c with snap := tide }

/-- The owner is pinned (R111). -/
def Ctx.pin (c : Ctx) : Ctx :=
  match c.txn with
  | some t => { c with txn := some { t with pinned := true } }
  | none => { c with pinned := true }

end Sys2Proof.Machine
end

