-- ==== Sys2Proof/Machine/Issue.lean ====
section
/-! DEFINITION. Fetch and issue: the words of a sequencer, interlocks, guards, false slots, blocking, and the data a
sequencer reaches (R56, R57, R103 to R106, R125, R133, R138, R141, R155). -/

namespace Sys2Proof.Machine

/-! Data reached by a sequencer. -/

/-- An address of the scratchpad window (R133). -/
def inWindow (va : Nat) : Bool := va / 2 ^ 20 == 2 ^ 36 - 1
/-- Bank and offset of a window address, as bank·32,768 + offset (R133). -/
def windowOff (va : Nat) : Nat := va % 2 ^ 20

/-- The fault of a scratchpad access of `n` bytes at an offset: bank 24 to 31, a bank outside the group's set (R133). -/
def bankFault (set : BitVec 24) (off n : Nat) : Option Cause :=
  let lo := off / 32768
  let hi := (off + n - 1) / 32768
  if 24 ≤ hi then some .pageAbsent
  else if set.getLsbD lo && set.getLsbD hi then none else some .pageProt

/-- Reads bytes of a scratchpad. -/
def Core.spRead (c : Core) (off : Nat) : Nat → List Byte
  | 0 => []
  | n + 1 => Map.get 0 c.sp off :: c.spRead (off + 1) n

/-- Writes bytes of a scratchpad. -/
def Core.spWrite (c : Core) (off : Nat) : List Byte → Core
  | [] => c
  | b :: t => Core.spWrite { c with sp := Map.set 0 c.sp off b } (off + 1) t

/-- A write that covers whole lines of a scratchpad clears their marks (R321). -/
def Core.spUnpoison (c : Core) (off n : Nat) : Core :=
  { c with spPoison := c.spPoison.filter (fun l => decide (128 * markOf l < off) || decide (off + n < 128 * markOf l + 128)) }

/-- A read of `n` scratchpad bytes meets a poison mark. -/
def Core.spPoisoned (c : Core) (off n : Nat) : Bool := (List.range n).any (fun i => c.spPoison.contains ((off + i) / 128))

/-- Two byte ranges overlap. -/
def overlap (a n b m : Nat) : Bool := decide (a < b + m) && decide (b < a + n)

/-- How a data read ends. -/
inductive Read where
  | data (bytes : List Byte)
  | wait
  | fault (c : Cause)
deriving DecidableEq, Repr

/-- The fault of a read. -/
def Read.cause : Read → Option Cause
  | .fault c => some c
  | _ => none

/-- A plain load (R105): the newest store-buffer entry that holds any of its bytes answers, or makes it wait, or memory
answers. -/
def loadPlain (s : State) (k : Nat) (pa n : Nat) : Read :=
  match (s.core k).sb.reverse.find? (fun e => overlap e.pa e.data.length pa n) with
  | some e =>
    if e.pa ≤ pa && decide (pa + n ≤ e.pa + e.data.length) then .data ((e.data.drop (pa - e.pa)).take n) else .wait
  | none => if s.poisoned pa then .fault .poison else .data (s.plainBytes pa n)

/-- A read of `n` bytes within one line by a sequencer of a context, on its way through the TLBs (R105, R106, R109, R309,
R321). -/
def State.readData (s : State) (v : Via) (k : Nat) (bank : Bool) (va n : Nat) : Read :=
  let c := s.ctx k bank
  if inWindow va then
    let off := windowOff va
    match bankFault c.bankSet off n with
    | some f => .fault f
    | none => if (s.core k).spPoisoned off n then .fault .poison else .data ((s.core k).spRead off n)
  else
    match s.translate v va .read with
    | .error f => .fault f
    | .ok x =>
      if x.dem then .data (List.replicate n 0)
      else if x.v then
        let (d, p) := s.vRead c.view c.readSnap (lineOf x.pa)
        if p then .fault .poison else .data ((d.drop (x.pa % 128)).take n)
      else loadPlain s k x.pa n

/-- A read of `n` bytes that may meet a line's end, byte by byte, with the address of a fault. -/
def State.readSpan (s : State) (v : Via) (k : Nat) (bank : Bool) (va : Nat) : Nat → Read × Nat
  | 0 => (.data [], 0)
  | n + 1 =>
    match s.readData v k bank va 1 with
    | .data b =>
      match s.readSpan v k bank (va + 1) n with
      | (.data r, _) => (.data (b ++ r), 0)
      | r => r
    | r => (r, va)

/-! Fetch. -/

/-- Some loop level of the sequencer is active. -/
def Seq.inLoop (q : Seq) : Bool := q.lv.any (fun l => l.2.act)
/-- Some active level is past its first iteration: words issue from the replay buffer (R138). -/
def Seq.replaying (q : Seq) : Bool := q.lv.any (fun l => l.2.act && decide (l.2.it ≠ 0))
/-- The innermost active level. -/
def Seq.innermost (q : Seq) : Option Nat := ((List.range 6).reverse).find? (fun n => (q.level n).act)
/-- The active levels of a word, for R144 and R146. -/
def Seq.tag (q : Seq) : Tag :=
  ((List.range 6).filter (fun n => (q.level n).act)).map (fun n => (n, (q.level n).inst, (q.level n).it.toNat))

/-- `k` parcels from an address, translated one by one. -/
def fetchParcels (s : State) (k : Nat) (bank : Bool) (pc : BitVec 56) : Nat → Read
  | 0 => .data []
  | n + 1 =>
    match s.readData (s.viaIssue k bank) k bank pc.toNat 4 with
    | .data b =>
      match fetchParcels s k bank (pc + 4) n with
      | .data r => .data (b ++ r)
      | r => r
    | r => r

/-- The bytes of the word at the pc of a sequencer: from the replay buffer, or from memory (R56, R57, R138), and none while one of its
parcels waits (R105). A parcel of a longer class in a stream other than E is not read further. -/
def State.fetch (s : State) (k : Nat) (st : Stream) : Except Cause (List Byte) :=
  let q := s.seq k st
  match (if q.replaying then Map.find q.replay q.pc.toNat else none) with
  | some b => .ok b
  | none =>
    match fetchParcels s k (s.bank k) q.pc 1 with
    | .fault c => .error c
    | .wait => .ok []
    | .data b =>
      let len := wordLen (leOf (b.take 1))
      if len = 4 || decide (st ≠ .e) then .ok b
      else
        match fetchParcels s k (s.bank k) (q.pc + 4) (len / 4 - 1) with
        | .fault c => .error c
        | .wait => .ok []
        | .data r => .ok (b ++ r)

/-- The word at the pc of a sequencer is fetched from memory, not from the replay buffer or a scratchpad (R57, R138). -/
def State.fetchesMemory (s : State) (k : Nat) (st : Stream) : Bool :=
  let q := s.seq k st
  !(q.replaying && (Map.find q.replay q.pc.toNat).isSome) && !inWindow q.pc.toNat

/-- The fetch of `n` bytes at the pc of a sequencer meets a page that a move holds (R312). -/
def State.fetchHeld (s : State) (k : Nat) (st : Stream) (n : Nat) : Bool :=
  let pc := (s.seq k st).pc.toNat
  s.fetchesMemory k st && [pc, pc + (n - 1)].any (fun a => s.moving (clusterOf k) (s.act k).polder a [])

/-- The walks of a fetch of `n` bytes at the pc of a sequencer (R310). -/
def State.fetchWalk (s : State) (k : Nat) (st : Stream) (n : Nat) : State :=
  let pc := (s.seq k st).pc.toNat
  if s.fetchesMemory k st then walkAll (s.viaIssue k (s.bank k)) .read [pc, pc + (n - 4)] s else s

/-- The bytes from which the length of the word at an address is read, while its sequencer stands in a loop or opens one: from the
replay buffer, or its first parcel from memory (R56, R138). Outside E every word is of one parcel. -/
def lengthBytes (s : State) (k : Nat) (st : Stream) (pc : BitVec 56) : Read :=
  if st ≠ .e then .data []
  else
    match Map.find (s.seq k st).replay pc.toNat with
    | some b => .data b
    | none =>
      if !inWindow pc.toNat && s.moving (clusterOf k) (s.act k).polder pc.toNat [] then .wait
      else fetchParcels s k (s.bank k) pc 1

/-- The length of the word at an address as far as it can be read, 4 bytes where it cannot. -/
def lenAt (s : State) (k : Nat) (st : Stream) (pc : BitVec 56) : Nat :=
  match lengthBytes s k st pc with
  | .data b => if st = .e then wordLen (leOf (b.take 1)) else 4
  | _ => 4

/-- The address of the n-th word after a word that ends at `pc`, n at least 1, and the address after it (R138). -/
def nthWord (s : State) (k : Nat) (st : Stream) (pc : BitVec 56) : Nat → BitVec 56 × BitVec 56
  | 0 => (pc, pc)
  | 1 => (pc, pc + .ofNat 56 (lenAt s k st pc))
  | n + 1 => nthWord s k st (pc + .ofNat 56 (lenAt s k st pc)) n

/-- The first of n words from an address whose length cannot be read, and why. -/
def unreadable (s : State) (k : Nat) (st : Stream) (pc : BitVec 56) : Nat → Option (BitVec 56 × Read)
  | 0 => none
  | n + 1 =>
    match lengthBytes s k st pc with
    | .data _ => unreadable s k st (pc + .ofNat 56 (lenAt s k st pc)) n
    | r => some (pc, r)

/-- The places of the LENDs of the active levels, by the words of their bodies as they can be read now: a word that could not be read
when its loop opened can have been mapped since (R138). -/
def State.bodyEnds (s : State) (k : Nat) (st : Stream) : State :=
  if (s.seq k st).inLoop then
    s.updSeq k st (fun q => { q with lv := q.lv.map (fun (e : Nat × Level) =>
      (e.1, if e.2.act then { e.2 with lendAt := (nthWord s k st e.2.top e.2.len.toNat).1 } else e.2)) })
  else s

/-! Issue. -/

/-- The condition of FIRST and LAST (R141). -/
inductive Slot where
  | yes | no | bad
deriving DecidableEq, Repr

/-- One condition: the level is active, and the test on it. -/
def guardPart (q : Seq) (m : BitVec 3) (test : Level → Bool) : Slot :=
  if m = 0 then .yes
  else
    let l := q.level (m.toNat - 1)
    if !l.act then .bad else if test l then .yes else .no

/-- Whether the word is a true slot, a false slot, or names a level that is not active (R141). -/
def slot (q : Seq) (g : Guard) : Slot :=
  match guardPart q g.first (fun l => decide (l.it = 0)), guardPart q g.last (fun l => decide (l.lc = 1)) with
  | .bad, _ | _, .bad => .bad
  | .yes, .yes => .yes
  | _, _ => .no

/-- The register an issue-buffer entry still has to write (R125). -/
def ibDest : IbOp → Option XReg
  | .load _ xd _ | .push _ xd | .tide xd | .rinit xd _ | .rclaim xd _ _ | .binit xd _ _ _ | .sync xd _ | .acq xd _
  | .xbeg xd _ | .xend xd => some xd
  | _ => none

/-- A register named is still to be written by an earlier word (R125). -/
def hazard (q : Seq) (regs : List XReg) : Bool :=
  regs.any (fun r => r != 0 && q.ib.any (fun e => ibDest e.op == some r))

/-- The group's first word takes a snapshot step (R108). -/
def Ctx.begun (c : Ctx) (tide : Nat) : Ctx := if c.started then c else { c with snap := tide, started := true }

/-- The effects of issue that every word shares: its pc advances, and it issues no sooner than `n` cycles from now; the
group's first word takes a snapshot step (R56, R108, R125). -/
def State.issued (s : State) (pc : BitVec 56) (n : Nat) : State :=
  let cyc := (s.core s.cur.1).cyc
  let tide := s.tide
  s.updMyCtx (fun c =>
    (c.begun tide).updSeq s.cur.2 (fun q => { q with pc := pc, held := .none, prog := 0, next := cyc + n }))

/-- The word has issued and the next one follows it. -/
def State.advance (s : State) (len : Nat) : State := s.issued (s.me.pc + .ofNat 56 len) 1

/-- The word waits for a register or a landing: nothing changes (R125). -/
def State.stall (s : State) : State := s.updMe (fun q => { q with held := .none })

/-- The abort line of the group's region is asserted (R279). -/
def State.lineUp (s : State) (c : Ctx) : Bool := (s.region c.group.region).line

/-- The word is held at issue. Under the abort line it is dropped and its sequencer stops (R279). The model's choice: it has not left
its loop by that, so no queue entry is removed; only a LEND does it (R146, notes/assumptions/125.md). -/
def State.block (s : State) (h : Hold) : State :=
  if s.lineUp s.myCtx then
    let s := s.updMe (fun q => { q with held := .none, stopped := true, blockedAtAbort := decide (h ≠ .yield) })
    let oid := s.myCtx.oid
    let me := s.cur.2
    let s := dropWaitersIn (fun w => w.oid == oid && decide (w.st = me)) s.objs s
    s.updMyCtx (fun c => { c with aborted := true })
  else s.updMe (fun q => { q with held := h })

/-- An access enters the tail of the sequencer's issue buffer (R103). -/
def State.enqueue (s : State) (op : IbOp) : State :=
  let no := s.myCtx.pendNo
  s.updMe (fun q => { q with ib := q.ib ++ [{ op := op, wpc := q.pc, no := no, tag := q.tag }] })

/-- The common course of a word: the streams that allowed it, its guard, the interlock, then its effect. -/
def word (allowed : List Stream) (g : Guard) (regs : List XReg) (onFalse eff : State → State) (s : State) :
    Host.Outcome State Fault Refusal :=
  .next (
    if !allowed.contains s.cur.2 then s.trap .illegalEnc
    else match slot s.me g with
      | .bad => s.trap .illegalEnc
      | .no => onFalse s
      | .yes => if hazard s.me regs then s.stall else eff s)

/-- No guard. -/
def noGuard : Guard := { first := 0, last := 0 }

/-- A word that computes a register from registers. -/
def scalar (g : Guard) (regs : List XReg) (xd : XReg) (f : State → Word) (s : State) :
    Host.Outcome State Fault Refusal :=
  word streams g (xd :: regs) (fun s => s.advance 4) (fun s => (s.setX xd (f s)).advance 4) s

/-- A vector result of the active context is due and has not landed (R69). -/
def Ctx.landingDue (c : Ctx) (cyc : Nat) : Bool := c.pend.any (fun p => decide (p.due ≤ cyc))


/-- x[r] := v in a sequencer of a bank context. -/
def State.setXOf (s : State) (k : Nat) (bank : Bool) (st : Stream) (r : XReg) (v : Word) : State :=
  s.updCtx k bank (fun c => c.updSeq st (fun q => q.set r v))

/-- A word held at issue performs and has issued, with its result in x[XD] (R12, R125, R294). -/
def passWord (xd : XReg) (v : Word) (cyc : Nat) (q : Seq) : Seq :=
  { q.set xd v with pc := q.pc + 4, held := .none, prog := 0, next := cyc + 1 }

/-- What a restore or a move still owes a context before it issues: the steps and ends held for its image (R288), and the records of
its move (R367). -/
def State.owes (s : State) (c : Ctx) : Bool :=
  c.restoring.any (fun id => (Map.find s.cmds id).isSome) || !c.redirects.isEmpty

/-- The context goes on: it is RUNNING in the active bank of a core that takes cycles, stands at no boundary, and is owed nothing. -/
def State.issuesOn (s : State) (k : Nat) (bank : Bool) : Bool :=
  decide (s.bank k = bank) && decide ((s.ctx k bank).st = .running) && (s.core k).swapEnd.isNone && !(s.core k).frozen
    && !(s.ctx k bank).boundary && s.islandOn (coreIsland k) && !s.inReset && !s.owes (s.ctx k bank)

/-- The waiting words of a list perform in one step in their order, each with a result and, for an acquire, the snapshot step of
its group; those whose context does not go on are passed over (R294). -/
def passWaiters (acquire : Bool) (v : Word) : List Waiter → State → State
  | [], s => s
  | w :: t, s =>
    passWaiters acquire v t (match s.findOid w.oid with
      | some (k, b) =>
        if s.issuesOn k b then
          let tide := s.tide
          let cyc := (s.core k).cyc
          s.updCtx k b (fun c => (if acquire then c.snapshot tide else c).updSeq w.st (passWord w.xd v cyc))
        else s
      | none => s)

/-- The waiting word performs as soon as its condition holds: its context goes on (R232, R294). -/
def State.waiterGoes (s : State) (w : Waiter) : Bool :=
  match s.findOid w.oid with
  | some (k, b) => s.issuesOn k b
  | none => false

/-- A word held at issue whose object access faulted waits in the issue buffer (R126, R294). -/
def isRecheck : IbOp → Bool
  | .recheck .. => true
  | _ => false

/-- The sequencer stands at a word boundary: no word is under way, or the one that is stands held at issue (R232, R233). -/
def Seq.atWordEnd (q : Seq) : Bool := decide (q.prog = 0) || decide (q.held ≠ .none)

/-- The first waiting trap of a context can be taken: its sequencer stands at a word boundary (R233). -/
def Ctx.trapReady (c : Ctx) : Bool :=
  match c.traps with
  | t :: _ => (c.seq t.st).atWordEnd
  | [] => false

/-- A sequencer may attempt a word: its context runs, or drains for a FAULT of this very E-cycle by another sequencer
(R232); no freeze, swap or reset stands; nothing is due to land (R69); it has not stopped and its cycle has come; no word of it
waits in its issue buffer to be attempted again; no trap delivered to it waits, which its next word boundary takes (R233); at a
group boundary only C stands, at its YIELD (R282); and what was held for the image is applied and the records of a move are written (R288, R367). -/
def State.canIssue (s : State) (k : Nat) (st : Stream) : Bool :=
  let co := s.core k
  let c := s.act k
  let q := c.seq st
  let runs := decide (c.st = .running)
    || (decide (c.st = .draining) && decide (c.eventAt = co.cyc)
        && match c.drain with
           | some (.trap t) => !t.async && decide (t.st ≠ st)
           | _ => false)
  runs && !co.frozen && co.swapEnd.isNone && s.islandOn (coreIsland k) && !s.inReset && !c.landingDue co.cyc
    && !q.stopped && decide (q.next ≤ co.cyc) && !q.ib.any (fun e => isRecheck e.op)
    && !(q.atWordEnd && c.traps.any (fun t => decide (t.st = st))) && (!c.boundary || decide (st = .c)) && !s.owes c

/-- The LEND of a level must stand exactly at its place (R138): a word at a LEND's place that is not that LEND. -/
def misplaced (q : Seq) (i : Instr) : Bool :=
  (List.range 6).any (fun n =>
    (q.level n).act && decide ((q.level n).lendAt = q.pc) && match i with
      | .lend lvl .. => decide (lvl.toNat ≠ n)
      | _ => true)

/-- The bytes of a fetched word are kept in the replay buffer while a loop is active (R138). -/
def State.remember (s : State) (k : Nat) (st : Stream) (b : List Byte) : State :=
  if (s.seq k st).inLoop then s.updSeq k st (fun q => { q with replay := Map.put q.replay q.pc.toNat b }) else s

end Sys2Proof.Machine
end

