-- ==== Sys2Proof/Machine/Objects.lean ====
section
/-! DEFINITION. Objects in Y pages: the slot image, waiters, release steps, phases and arrivals (R291 to R300). -/

namespace Sys2Proof.Machine

/-! The slot image (R292). -/

/-- STATE of a slot. -/
def State.slotState (s : State) (pa : Nat) : Nat := s.readLE (pa + 1) 1
/-- SLOTS of a ring. -/
def State.slots (s : State) (pa : Nat) : Nat := s.readLE (pa + 4) 4
/-- PARTIES of a barrier. -/
def State.parties (s : State) (pa : Nat) : Nat := s.readLE (pa + 4) 4
/-- ARRIVED of a barrier. -/
def State.arrived (s : State) (pa : Nat) : Nat := s.readLE (pa + 8) 4
/-- PHASE of a barrier. -/
def State.phase (s : State) (pa : Nat) : Nat := s.readLE (pa + 16) 8
/-- ABYTES of a barrier. -/
def State.abytes (s : State) (pa : Nat) : Nat := s.readLE (pa + 24) 8
/-- CLM of a ring. -/
def State.clm (s : State) (pa : Nat) : Nat := s.readLE (pa + 16) 4
/-- PUB of a ring. -/
def State.pub (s : State) (pa : Nat) : Nat := s.readLE (pa + 20) 4
/-- TKN of a ring. -/
def State.tkn (s : State) (pa : Nat) : Nat := s.readLE (pa + 24) 4
/-- FRE of a ring. -/
def State.fre (s : State) (pa : Nat) : Nat := s.readLE (pa + 28) 4
/-- RTIDE of a slot. -/
def State.rtide (s : State) (pa : Nat) : Nat := s.readLE (pa + 32) 8

/-- a − b on 32-bit counters (R300). -/
def sub32 (a b : Nat) : Nat := (a + 2 ^ 32 - b % 2 ^ 32) % 2 ^ 32

/-- Free slots: SLOTS − (CLM − FRE) (R300). -/
def State.freeSlots (s : State) (pa : Nat) : Nat := s.slots pa - sub32 (s.clm pa) (s.fre pa)

/-- The ring is full: its filled slots PUB − FRE equal SLOTS (R277, R300). -/
def State.ringFull (s : State) (pa : Nat) : Bool := decide (sub32 (s.pub pa) (s.fre pa) = s.slots pa)

/-- The bound regions of a slot: START and LEN, LEN not 0. -/
def State.regionsOf (s : State) (pa : Nat) : List (Nat × Nat) :=
  ((List.range 4).map (fun i => (s.readLE (pa + 64 + 16 * i) 8, s.readLE (pa + 72 + 16 * i) 8))).filter (fun r => r.2 != 0)

/-- The version lies in a region of the slot (R296). -/
def inRegions (regs : List (Nat × Nat)) (polder : Nat) (v : Version) : Bool :=
  decide (v.polder = polder) && regs.any (fun r => overlap v.va 128 r.1 r.2)

/-- Raises RTIDE to a tide (R295, R298). -/
def State.raiseRtide (s : State) (pa t : Nat) : State := s.writeLE (pa + 32) 8 (max (s.rtide pa) t)

/-! Waiters (R294, R297). -/

/-- The standing of a sequencer as a waiter of an object. -/
def State.waitsAt (s : State) (pa oid : Nat) (st : Stream) : Bool :=
  (s.obj pa).waiters.any (fun w => w.oid == oid && decide (w.st = st))

/-- Becomes a waiter at the first attempt (R294). -/
def State.addWaiter (s : State) (pa : Nat) (w : Waiter) : State :=
  if s.waitsAt pa w.oid w.st then s else s.setWaiters pa ((s.obj pa).waiters ++ [w])

/-- Ends the standing of a sequencer as a waiter. -/
def State.endWaiter (s : State) (pa oid : Nat) (st : Stream) : State :=
  if s.waitsAt pa oid st then
    s.setWaiters pa ((s.obj pa).waiters.filter (fun w => !(w.oid == oid && decide (w.st = st))))
  else s

/-- A waiter is one of the rwaitf line. -/
def isTakeWaiter (w : Waiter) : Bool :=
  match w.w with
  | .rwaitf .. => true
  | _ => false

/-- No earlier rwaitf waiter of the object waits (R294). -/
def State.firstInLine (s : State) (pa oid : Nat) (st : Stream) : Bool :=
  match ((s.obj pa).waiters.filter isTakeWaiter).head? with
  | some w => w.oid == oid && decide (w.st = st)
  | none => true

/-- Every waiter raises BARRIER_RESET with the pc of its word, and WAITERS is 0 (R297). -/
def State.resetWaiters (s : State) (pa : Nat) : State :=
  let s1 := (s.obj pa).waiters.foldl (fun s w =>
    s.updOid w.oid (fun c =>
      { c with traps := c.traps ++ [{ cause := .barrierReset, async := true, st := w.st, wpc := (c.seq w.st).pc }] })) s
  s1.setWaiters pa []

/-! Release steps (R115, R296). -/

/-- The release step of a context on an object: the owner's versions in the bound regions commit, the owner is pinned when
one did (R111), and RTIDE is raised. -/
def State.releaseOn (s : State) (k : Nat) (bank : Bool) (pa : Nat) : State :=
  let c := s.ctx k bank
  let p := inRegions (s.regionsOf pa) c.polder
  let pins := s.holds c.writer p
  let s := (s.commit c.writer p).updCtx k bank (fun c => if pins then c.pin else c)
  s.raiseRtide pa s.tide

/-! Arrivals and phases (R297 to R299). -/

/-- A command's arrival is refused: STATUS 4 and BARRIER_FAULT to its pusher (R228, R298, R299). -/
def State.refuseArrival (s : State) (id : Nat) : State :=
  match Map.find s.cmds id with
  | none => s
  | some c =>
    (s.deliver c.oid (cmdTrap c .barrierFault 0 (c.w 6) 0)).updCmd id (fun c => { c with status := 4, ending := .arrived })

/-- Refuses every arrival held at an object (R298). -/
def State.refuseHeld (s : State) (pa : Nat) : State :=
  ((s.obj pa).arrivals.foldl (fun s id => s.refuseArrival id) s).updObj pa (fun o => { o with arrivals := [] })

/-- The step that completes a phase (R297), held arrivals apart: the waiters that it releases perform in it, in the order of
their first attempts; one whose context does not go on keeps its place until it does (R232, R294). -/
def State.nextPhase (s : State) (pa : Nat) : State :=
  let ph := (s.phase pa + 1) % 2 ^ 64
  let s := s.writeLE (pa + 40) 8 (s.abytes pa)
  let s := ((s.writeLE (pa + 16) 8 ph).writeLE (pa + 8) 4 0).writeLE (pa + 24) 8 0
  let passes (w : Waiter) : Bool := (match w.w with
    | .bwait _ target => decide (target < ph)
    | _ => false) && s.waiterGoes w
  let ws := (s.obj pa).waiters
  let s := passWaiters true (.ofNat 64 ph) (ws.filter passes) s
  if ws.any passes then s.setWaiters pa (ws.filter (fun w => !passes w)) else s

/-- The rwaite waiters of a ring whose count is free perform in the step that frees it, in the order of their first attempts
(R294). -/
def State.serveFree (s : State) (pa : Nat) : State :=
  let free := s.freeSlots pa
  let passes (w : Waiter) : Bool := (match w.w with
    | .rwaite _ n => decide (n ≤ free)
    | _ => false) && s.waiterGoes w
  let ws := (s.obj pa).waiters
  if ws.any passes then (passWaiters false (.ofNat 64 free) (ws.filter passes) s).setWaiters pa (ws.filter (fun w => !passes w)) else s

/-- The take of an rwaitf: the span is reserved and TKN advances (R301). -/
def State.takeSlots (s : State) (pa n : Nat) : State :=
  let tkn := s.tkn pa
  (s.updObj pa (fun o => { o with takes := o.takes ++ [(tkn, n, false)] })).writeLE (pa + 24) 4 (tkn + n)

/-- The line of the rwaitf waiters of a ring is served: the first one passes when its count is filled, then the next (R294). -/
def serveTakes (pa : Nat) : List Waiter → State → State
  | [], s => s
  | w :: t, s =>
    match w.w with
    | .rwaitf _ n =>
      if sub32 (s.pub pa) (s.tkn pa) < n || !s.waiterGoes w then s
      else
        let tkn := s.tkn pa
        let s := passWaiters true (.ofNat 64 tkn) [w] (s.takeSlots pa n)
        serveTakes pa t (s.setWaiters pa ((s.obj pa).waiters.filter (fun u => !(u.oid == w.oid && decide (u.st = w.st)))))
    | _ => serveTakes pa t s

/-- Serves the line of a ring as it stands. -/
def State.serveLine (s : State) (pa : Nat) : State := serveTakes pa (s.obj pa).waiters s

/-- One arrival: ARRIVED rises, and the last party completes the phase; the flag says that it did. -/
def State.oneArrival (s : State) (pa : Nat) : State × Bool :=
  let n := s.arrived pa + 1
  let s := s.writeLE (pa + 8) 4 n
  if n = s.parties pa then (s.nextPhase pa, true) else (s, false)

/-- A copy's arrival in the current phase (R299). -/
def State.copyArrival (s : State) (pa : Nat) (c : Cmd) : State × Bool :=
  let s := s.raiseRtide pa c.tc
  let s := s.writeLE (pa + 24) 8 ((s.abytes pa + c.bytes) % 2 ^ 64)
  let s := s.updCmd c.id (fun c => { c with ending := .arrived })
  s.oneArrival pa

/-- Applies the arrivals held for the phase that has opened, in the order of their commands' completions; once one of them
completes that phase the rest are stale (R299). -/
def openHeld (pa : Nat) : List Nat → Bool → State → State
  | [], _, s => s
  | id :: t, stale, s =>
    match Map.find s.cmds id with
    | none => openHeld pa t stale s
    | some c =>
      if stale then openHeld pa t stale (s.refuseArrival id)
      else
        let (s, done) := s.copyArrival pa c
        openHeld pa t done s

/-- After an arrival that completed a phase, the held arrivals of the new phase are applied. -/
def State.settle (pa : Nat) (r : State × Bool) : State :=
  if r.2 then
    let held := (r.1.obj pa).arrivals
    openHeld pa held false (r.1.updObj pa (fun o => { o with arrivals := [] }))
  else r.1

/-! Access to a slot by a word (R291). -/

/-- The slot that a word of a context names at an address, or the cause that refuses it. A page without a frame reads as a
slot that holds no object. -/
def State.objAt (s : State) (v : Via) (va : Nat) (acc : Access) (kinds : List Nat) : Except Cause Xlat :=
  if inWindow va then .error .pageAbsent
  else
    match s.translate v va acc with
    | .error f => .error f
    | .ok x =>
      if va % 128 ≠ 0 then .error .pageType
      else if x.dem then (if kinds.contains 0 then .ok x else .error .pageType)
      else if s.poisoned x.pa then .error .poison
      else if kinds.contains (s.kind x.pa) then .ok x else .error .pageType

/-- Every plain store of the sequencer has drained (R104). -/
def State.drained (s : State) (k : Nat) (bank : Bool) (st : Stream) : Bool :=
  !(s.core k).sb.any (fun e => e.oid == (s.ctx k bank).oid && decide (e.st = st))

/-! How an entry of an issue buffer ends. -/

/-- How the head entry of an issue buffer performs. -/
inductive Perf where
  /-- it has performed -/
  | done (s : State)
  /-- it cannot perform yet -/
  | wait
  /-- its group was aborted in the step -/
  | gone (s : State)
  /-- a fault of its access: cause, address, DETAIL -/
  | fault (c : Cause) (faddr detail : Nat)

/-- The fault of an entry. -/
def Perf.cause : Perf → Option Cause
  | .fault c _ _ => some c
  | _ => none

/-- A page's frame is allocated if it has none, charged to the chain of a region (R309). -/
def State.withFrame (s : State) (v : Via) (rk va : Nat) (acc : Access) (x : Xlat) : Except (Cause × Nat) (State × Xlat) :=
  if x.dem then
    match demandFrame s v.polder rk x with
    | .error d => .error (.quotaMem, d)
    | .ok s =>
      match s.translate v va acc with
      | .ok x => .ok (s, x)
      | .error f => .error (f, 0)
  else .ok (s, x)

end Sys2Proof.Machine
end

