-- ==== Sys2Proof/Machine/Sync.lean ====
section
/-! DEFINITION. The words of chapter 14 and the transaction words: rings, culverts, barriers, sync objects, transactions
(R291 to R303, R317 to R319). A word that may wait performs at issue, with its issue buffer empty; the others enter the issue
buffer and perform at its head by the functions named `perf…`. -/

namespace Sys2Proof.Machine

/-- The snapshot step of a context's owner (R108, R116). -/
def State.snapStep (s : State) (k : Nat) (bank : Bool) : State :=
  let t := s.tide
  s.updCtx k bank (fun c => c.snapshot t)

/-- Kinds that a word admits when it names any slot. -/
def anyKind : List Nat := List.range 256

/-- The streams of chapter 14. -/
def objStreams : List Stream := [.c, .l, .s]

/-- A word whose access enters the issue buffer. -/
def queued (g : Guard) (regs : List XReg) (op : State → IbOp) (s : State) : Host.Outcome State Fault Refusal :=
  word objStreams g regs (fun s => s.advance 4) (fun s => (s.enqueue (op s)).advance 4) s

/-- An object word at the head of an issue buffer: the slot, its frame, and the effect on it. -/
def onSlot (s : State) (k : Nat) (bank : Bool) (st : Stream) (va : Nat) (acc : Access) (kinds : List Nat)
    (f : State → Nat → Perf) : Perf :=
  let v := s.viaIb k bank st
  match s.objAt v va acc kinds with
  | .error e => .fault e va 0
  | .ok x =>
    match (if acc.writes then s.withFrame v (s.ctx k bank).group.region va acc x else .ok (s, x)) with
    | .error (e, d) => .fault e va d
    | .ok (s, x) => f (s.walked v va x) x.pa

/-! Rings (R300, R301). -/

/-- rinit. -/
def perfRinit (xd : XReg) (va : Nat) (s : State) (k : Nat) (bank : Bool) (st : Stream) : Perf :=
  onSlot s k bank st va .objWrite [1] (fun s pa =>
    if s.waitersOf pa ≠ 0 || decide (s.clm pa ≠ s.fre pa) then .done (s.setXOf k bank st xd 1)
    else
      .done (((s.writeLE (pa + 16) 16 0).updObj pa (fun o => { o with claims := [], takes := [] })).setXOf k bank st xd 0))

/-- A count of slots outside 1 to SLOTS (R293). -/
def badCount (s : State) (pa n : Nat) : Bool := decide (n = 0) || decide (s.slots pa < n)

/-- rclaim. -/
def perfRclaim (xd : XReg) (va n : Nat) (s : State) (k : Nat) (bank : Bool) (st : Stream) : Perf :=
  onSlot s k bank st va .objWrite [1] (fun s pa =>
    if badCount s pa n then .fault .queueMisuse 0 0
    else if s.freeSlots pa < n then .done (s.setXOf k bank st xd (.allOnes 64))
    else
      let clm := s.clm pa
      .done (((s.updObj pa (fun o => { o with claims := o.claims ++ [(clm, n, false)] })).writeLE (pa + 16) 4 (clm + n)).setXOf
        k bank st xd (.ofNat 64 clm)))

/-- A span that starts at an index and is not closed yet. -/
def openSpan (l : List (Nat × Nat × Bool)) (i : Nat) : Bool := l.any (fun c => c.1 == i && !c.2.2)

/-- Closes the span that starts at an index. -/
def closeSpan (i : Nat) : List (Nat × Nat × Bool) → List (Nat × Nat × Bool)
  | [] => []
  | c :: t => if c.1 = i && !c.2.2 then (c.1, c.2.1, true) :: t else c :: closeSpan i t

/-- The slots of the leading closed spans, and the spans after them. -/
def leading : List (Nat × Nat × Bool) → Nat × List (Nat × Nat × Bool)
  | [] => (0, [])
  | c :: t => if c.2.2 then ((leading t).1 + c.2.1, (leading t).2) else (0, c :: t)

/-- rpost. -/
def perfRpost (va i : Nat) (s : State) (k : Nat) (bank : Bool) (st : Stream) : Perf :=
  if !s.drained k bank st then .wait
  else onSlot s k bank st va .objWrite [1] (fun s pa =>
    let i := i % 2 ^ 32
    if !openSpan (s.obj pa).claims i then .fault .queueMisuse 0 0
    else
      let s := s.releaseOn k bank pa
      let (n, rest) := leading (closeSpan i (s.obj pa).claims)
      .done (((s.updObj pa (fun o => { o with claims := rest })).writeLE (pa + 20) 4 (s.pub pa + n)).serveLine pa))

/-- rfree. -/
def perfRfree (va i : Nat) (s : State) (k : Nat) (bank : Bool) (st : Stream) : Perf :=
  onSlot s k bank st va .objWrite [1] (fun s pa =>
    let i := i % 2 ^ 32
    if !openSpan (s.obj pa).takes i then .fault .queueMisuse 0 0
    else
      let (n, rest) := leading (closeSpan i (s.obj pa).takes)
      .done (((s.updObj pa (fun o => { o with takes := rest })).writeLE (pa + 28) 4 (s.fre pa + n)).serveFree pa))

/-- rinit enters the issue buffer. -/
def execRinit (g : Guard) (xd xa : XReg) (s : State) := queued g [xd, xa] (fun s => .rinit xd (s.x xa).toNat) s
/-- rclaim enters the issue buffer. -/
def execRclaim (g : Guard) (xd xa xb : XReg) (s : State) :=
  queued g [xd, xa, xb] (fun s => .rclaim xd (s.x xa).toNat (s.x xb).toNat) s
/-- rpost enters the issue buffer. -/
def execRpost (g : Guard) (xa xb : XReg) (s : State) := queued g [xa, xb] (fun s => .rpost (s.x xa).toNat (s.x xb).toNat) s
/-- rfree enters the issue buffer. -/
def execRfree (g : Guard) (xa xb : XReg) (s : State) := queued g [xa, xb] (fun s => .rfree (s.x xa).toNat (s.x xb).toNat) s

/-- A word that performs at issue on an object: it waits for its issue buffer to be empty; an access fault is found at the
head of the issue buffer (R126, R294). -/
def atIssue (va kind : Nat) (acc : Access) (eff : State → Nat → State) (s : State) : State :=
  let s := s.bump
  if !s.me.ib.isEmpty then s.block (.wait .ib)
  else if s.moving (clusterOf s.cur.1) s.myCtx.polder va [] then s.block (.wait (.move s.myCtx.polder va))
  else
    match s.objAt (s.viaIssue s.cur.1 (s.bank s.cur.1)) va acc [kind] with
    | .error _ => (s.enqueue (.recheck va kind acc.writes)).advance 4
    | .ok x => eff s x.pa

/-- The recheck of an object access that faulted (R126): the word is attempted again once it stands. -/
def perfRecheck (va kind : Nat) (writes : Bool) (wpc : BitVec 56) (s : State) (k : Nat) (bank : Bool) (st : Stream) : Perf :=
  let c := s.ctx k bank
  let again := s.updCtx k bank (fun c => c.updSeq st (fun q => { q with pc := wpc, held := .none }))
  if kind = 0 then
    match (if inWindow va then bankFault c.bankSet (windowOff va) 64 else some .pageAbsent) with
    | some f => .fault f va 0
    | none => .done again
  else
    match s.objAt (s.viaIb k bank st) va (if writes then .objWrite else .objRead) [kind] with
    | .error f => .fault f va 0
    | .ok _ => .done again

/-- The word that runs has performed: its standing as a waiter ends, its result is written, and it issues. -/
def finishWait (pa : Nat) (xd : XReg) (v : Nat) (s : State) : State :=
  ((s.endWaiter pa s.myCtx.oid s.cur.2).setX xd (.ofNat 64 v)).advance 4

/-- The walk's effect on the page of the word's object. -/
def walkedMine (va : Nat) (acc : Access) (s : State) : State := walkAll (s.viaIssue s.cur.1 (s.bank s.cur.1)) acc [va] s

/-- The word waits as a waiter of its object (R294). -/
def waitFor (pa : Nat) (w : ObjWait) (xd : XReg) (s : State) : State :=
  (s.addWaiter pa { oid := s.myCtx.oid, st := s.cur.2, w := w, xd := xd }).block (.obj w)

/-- rwaitf. -/
def execRwaitf (g : Guard) (xd xa xb : XReg) (s : State) : Host.Outcome State Fault Refusal :=
  word objStreams g [xd, xa, xb] (fun s => s.advance 4) (fun s =>
    let va := (s.x xa).toNat
    let n := (s.x xb).toNat
    atIssue va 1 .objWrite (fun s pa =>
      if badCount s pa n then s.trap .queueMisuse
      else
        let tkn := s.tkn pa
        if sub32 (s.pub pa) tkn < n || !s.firstInLine pa s.myCtx.oid s.cur.2 then waitFor pa (.rwaitf pa n) xd s
        else
          let s := (walkedMine va .objWrite s).takeSlots pa n
          (finishWait pa xd tkn (s.snapStep s.cur.1 (s.bank s.cur.1))).serveLine pa) s) s

/-- rwaite. -/
def execRwaite (g : Guard) (xd xa xb : XReg) (s : State) : Host.Outcome State Fault Refusal :=
  word objStreams g [xd, xa, xb] (fun s => s.advance 4) (fun s =>
    let va := (s.x xa).toNat
    let n := (s.x xb).toNat
    atIssue va 1 .objRead (fun s pa =>
      if badCount s pa n then s.trap .queueMisuse
      else if s.freeSlots pa < n then waitFor pa (.rwaite pa n) xd s
      else finishWait pa xd (s.freeSlots pa) (walkedMine va .objRead s)) s) s

/-! Culverts (R303). -/

/-- The group has declared culvert c. -/
def declares (c : Ctx) (cv : BitVec 2) : Bool := c.culs.getD cv.toNat 0 != 0

/-- crecv. -/
def execCrecv (g : Guard) (xd xa : XReg) (cv : BitVec 2) (s : State) : Host.Outcome State Fault Refusal :=
  word objStreams g [xd, xa] (fun s => s.advance 4) (fun s =>
    let va := (s.x xa).toNat / 64 * 64
    if !declares s.myCtx cv then s.trap .queueMisuse
    else if !s.me.ib.isEmpty then s.block (.wait .ib)
    else
      match (Map.get {} (s.core s.cur.1).cul cv.toNat).entries with
      | [] => s.block (.obj (.crecv cv.toNat))
      | e :: rest =>
        match (if inWindow va then bankFault s.myCtx.bankSet (windowOff va) 64 else some .pageAbsent) with
        | some _ => (s.enqueue (.recheck va 0 true)).advance 4
        | none =>
          let s := s.updCore s.cur.1 (fun co =>
            Core.spWrite { co with cul := Map.upd {} co.cul cv.toNat (fun x => { x with entries := rest }) } (windowOff va) e)
          (s.setX xd (.ofNat 64 rest.length)).advance 4) s

/-- ccnt. -/
def execCcnt (g : Guard) (xd : XReg) (cv : BitVec 2) (s : State) : Host.Outcome State Fault Refusal :=
  word objStreams g [xd] (fun s => s.advance 4) (fun s =>
    if !declares s.myCtx cv then s.trap .queueMisuse
    else (s.setX xd (.ofNat 64 (Map.get {} (s.core s.cur.1).cul cv.toNat).entries.length)).advance 4) s

/-! Barriers (R297, R298). -/

/-- The slot becomes a barrier with p parties: the rest of `binit` once it is not refused. -/
def State.makeBarrier (s : State) (pa p : Nat) : State :=
  let s := (s.resetWaiters pa).refuseHeld pa
  let s := s.updObj pa (fun o => { o with claims := [], takes := [] })
  let old := s.kind pa
  let ph := if old = 2 then (s.phase pa + 2) % 2 ^ 64 else 0
  let rt := if old = 2 then s.rtide pa else s.tide
  let s := if old = 2 then s else s.writeLE (pa + 64) 64 0
  (s.writeLE pa 1 2).writeBytes (pa + 1)
    (field 1 1 ++ field 2 0 ++ field 4 p ++ field 4 0 ++ field 4 0 ++ field 8 ph ++ field 8 0 ++ field 8 rt ++ field 8 0
      ++ field 16 0)

/-- binit and binitf. BADARG changes nothing: no frame is allocated for it (R298). -/
def perfBinit (xd : XReg) (va p : Nat) (force : Bool) (s : State) (k : Nat) (bank : Bool) (st : Stream) : Perf :=
  if p = 0 || decide (4096 < p) then
    match s.objAt (s.viaIb k bank st) va .objWrite anyKind with
    | .error e => .fault e va 0
    | .ok _ => .done ((walkAll (s.viaIb k bank st) .objWrite [va] s).setXOf k bank st xd 2)
  else onSlot s k bank st va .objWrite anyKind (fun s pa =>
    if (s.kind pa = 1 || s.kind pa = 2) && decide (s.waitersOf pa ≠ 0) && !force then .done (s.setXOf k bank st xd 1)
    else .done ((s.makeBarrier pa p).setXOf k bank st xd 0))

/-- binit enters the issue buffer. -/
def execBinit (g : Guard) (xd xa xb : XReg) (s : State) :=
  queued g [xd, xa, xb] (fun s => .binit xd (s.x xa).toNat (s.x xb).toNat false) s
/-- binitf enters the issue buffer. -/
def execBinitf (g : Guard) (xd xa xb : XReg) (s : State) :=
  queued g [xd, xa, xb] (fun s => .binit xd (s.x xa).toNat (s.x xb).toNat true) s

/-- BARRIER_FAULT of a word, raised at issue (R297). -/
def barrierDead (va : Nat) (s : State) : State := s.raiseAt .barrierFault va 0 0

/-- bkill. -/
def execBkill (g : Guard) (xa : XReg) (s : State) : Host.Outcome State Fault Refusal :=
  word objStreams g [xa] (fun s => s.advance 4) (fun s =>
    let va := (s.x xa).toNat
    atIssue va 2 .objWrite (fun s pa =>
      if s.slotState pa = 0 then barrierDead va s
      else
        let s := walkedMine va .objWrite s
        ((((s.resetWaiters pa).refuseHeld pa).writeLE (pa + 1) 1 0)).advance 4) s) s

/-- barr. -/
def execBarr (g : Guard) (xd xa : XReg) (s : State) : Host.Outcome State Fault Refusal :=
  word objStreams g [xd, xa] (fun s => s.advance 4) (fun s =>
    let va := (s.x xa).toNat
    atIssue va 2 .objWrite (fun s pa =>
      let k := s.cur.1
      if s.slotState pa = 0 then barrierDead va s
      else if !s.drained k (s.bank k) s.cur.2 then s.block (.wait .stores)
      else
        let s := (walkedMine va .objWrite s).releaseOn k (s.bank k) pa
        let ph := s.phase pa
        ((State.settle pa (s.oneArrival pa)).setX xd (.ofNat 64 ph)).advance 4) s) s

/-- bwait. A waiter performs in the step that completes its phase (R297, `State.nextPhase`). -/
def execBwait (g : Guard) (xd xa xb : XReg) (s : State) : Host.Outcome State Fault Refusal :=
  word objStreams g [xd, xa, xb] (fun s => s.advance 4) (fun s =>
    let va := (s.x xa).toNat
    let target := (s.x xb).toNat
    atIssue va 2 .objRead (fun s pa =>
      if s.slotState pa = 0 then barrierDead va s
      else if s.phase pa ≤ target then waitFor pa (.bwait pa target) xd s
      else
        let s := walkedMine va .objRead s
        finishWait pa xd (s.phase pa) (s.snapStep s.cur.1 (s.bank s.cur.1))) s) s

/-! Sync objects (R115, R116, R295). -/

/-- sync. -/
def perfSync (xd : XReg) (va : Nat) (s : State) (k : Nat) (bank : Bool) (st : Stream) : Perf :=
  onSlot s k bank st va .objWrite anyKind (fun s pa =>
    if (s.kind pa = 1 || s.kind pa = 2) && decide (s.waitersOf pa ≠ 0) then .done (s.setXOf k bank st xd 1)
    else
      let t := s.tide
      let s := (s.refuseHeld pa).updObj pa (fun o => { o with claims := [], takes := [] })
      let s := ((s.writeLE pa 128 0).writeLE pa 2 0x103).writeLE (pa + 32) 8 t
      .done (s.setXOf k bank st xd 0))

/-- acq. -/
def perfAcq (xd : XReg) (va : Nat) (s : State) (k : Nat) (bank : Bool) (st : Stream) : Perf :=
  onSlot s k bank st va .objRead [1, 2, 3] (fun s pa =>
    .done ((s.snapStep k bank).setXOf k bank st xd (.ofNat 64 (s.rtide pa))))

/-- rel. -/
def perfRel (va : Nat) (s : State) (k : Nat) (bank : Bool) (st : Stream) : Perf :=
  if !s.drained k bank st then .wait
  else onSlot s k bank st va .objWrite [1, 2, 3] (fun s pa => .done (s.releaseOn k bank pa))

/-- sbind. -/
def perfSbind (va desc n : Nat) (s : State) (k : Nat) (bank : Bool) (st : Stream) : Perf :=
  onSlot s k bank st va .objWrite [1, 2, 3] (fun s pa =>
    let v := s.viaIb k bank st
    match s.readSpan v k bank desc 16 with
    | (.fault f, a) => .fault f a 0
    | (.wait, _) => .wait
    | (.data b, _) =>
      let start := leOf (b.take 8)
      let len := leOf (b.drop 8)
      if 2 ^ 40 < len || decide (2 ^ 56 < start + len) then .fault .queueMisuse 0 0
      else .done ((walkAll v .read ([desc, desc + 15].filter (fun a => !inWindow a)) s).writeBytes (pa + 64 + 16 * n)
        (if len = 0 then field 16 0 else b)))

/-- sync enters the issue buffer. -/
def execSync (g : Guard) (xd xa : XReg) (s : State) := queued g [xd, xa] (fun s => .sync xd (s.x xa).toNat) s
/-- acq enters the issue buffer. -/
def execAcq (g : Guard) (xd xa : XReg) (s : State) := queued g [xd, xa] (fun s => .acq xd (s.x xa).toNat) s
/-- rel enters the issue buffer. -/
def execRel (g : Guard) (xa : XReg) (s : State) := queued g [xa] (fun s => .rel (s.x xa).toNat) s
/-- sbind enters the issue buffer. -/
def execSbind (g : Guard) (xa xb : XReg) (n : BitVec 2) (s : State) :=
  queued g [xa, xb] (fun s => .sbind (s.x xa).toNat (s.x xb).toNat n.toNat) s

/-! Transactions (R317 to R319). -/

/-- xbeg. -/
def perfXbeg (xd : XReg) (retry : Bool) (s : State) (k : Nat) (bank : Bool) (st : Stream) : Perf :=
  if !s.drained k bank st then .wait
  else
    let c := s.ctx k bank
    match c.txn with
    | some _ => .fault .illegalEnc 0 0
    | none =>
      let begin := match retry, c.lastAborted with
        | true, some b => b
        | _, _ => s.tide
      let t : Txn := { id := s.nextId, begin := begin, snap := s.tide }
      .done ((({ s with nextId := s.nextId + 1 } : State).updCtx k bank (fun c => { c with txn := some t })).setXOf k bank st xd
        (.ofNat 64 s.tide))

/-- The group's versions of the lines that a transaction wrote are removed at its commit (R319). -/
def State.dropUnder (s : State) (txn : Nat) (oid : Nat) : State :=
  dropVersions (fun v => decide (v.owner = some (.group oid)))
    (s.vers.filter (fun e => e.2.any (fun v => decide (v.owner = some (.txn txn))))) s

/-- xend. -/
def perfXend (xd : XReg) (s : State) (k : Nat) (bank : Bool) (st : Stream) : Perf :=
  if !s.drained k bank st then .wait
  else
    let c := s.ctx k bank
    match c.txn with
    | none => .fault .illegalEnc 0 0
    | some t =>
      let s :=
        if t.doomed then s.commit (.txn t.id) (fun _ => false)
        else (s.dropUnder t.id c.oid).commit (.txn t.id) (fun _ => true)
      let s := s.updCtx k bank (fun c =>
        { c with txn := none, lastAborted := if t.doomed then some t.begin else none })
      .done (s.setXOf k bank st xd (if t.doomed then 1 else 0))

/-- xbeg enters C's issue buffer. -/
def execXbeg (g : Guard) (xd xa : XReg) (s : State) : Host.Outcome State Fault Refusal :=
  word [.c] g [xd, xa] (fun s => s.advance 4) (fun s => (s.enqueue (.xbeg xd (decide (s.x xa ≠ 0)))).advance 4) s
/-- xend enters C's issue buffer. -/
def execXend (g : Guard) (xd : XReg) (s : State) : Host.Outcome State Fault Refusal :=
  word [.c] g [xd] (fun s => s.advance 4) (fun s => (s.enqueue (.xend xd)).advance 4) s

/-- xabt: it follows every earlier access of C, which the transaction owns. -/
def execXabt (g : Guard) (s : State) : Host.Outcome State Fault Refusal :=
  word [.c] g [] (fun s => s.advance 4) (fun s =>
    if !s.me.ib.isEmpty then s.block (.wait .ib)
    else
      match s.myCtx.txn with
      | none => s.trap .illegalEnc
      | some t =>
        ((s.dropOwner (.txn t.id)).updMyCtx (fun c => { c with txn := none, lastAborted := some t.begin })).advance 4) s

/-- The entry opens or closes a transaction. -/
def isTxnOp : IbOp → Bool
  | .xbeg .. | .xend _ => true
  | _ => false

/-- xst: it follows an xbeg or xend that its sequencer issued earlier. -/
def execXst (g : Guard) (xd : XReg) (s : State) : Host.Outcome State Fault Refusal :=
  word objStreams g [xd] (fun s => s.advance 4) (fun s =>
    if s.me.ib.any (fun e => isTxnOp e.op) then s.block (.wait .txn)
    else
      let v : Word := match s.myCtx.txn with
        | none => 0
        | some t => if t.doomed then 2 else 1
      (s.setX xd v).advance 4) s

/-! What a waiting word still waits for (R154, R294). -/

/-- The condition of a waiting word fails as the machine stands. -/
def State.stillWaits (s : State) (k : Nat) (bank : Bool) (st : Stream) : ObjWait → Bool
  | .bwait pa target => decide (s.kind pa = 2) && decide (s.slotState pa ≠ 0) && decide (s.phase pa ≤ target)
  | .rwaite pa n => decide (s.kind pa = 1) && decide (s.freeSlots pa < n)
  | .rwaitf pa n =>
    decide (s.kind pa = 1)
      && (decide (sub32 (s.pub pa) (s.tkn pa) < n) || !s.firstInLine pa (s.ctx k bank).oid st)
  | .crecv c => (Map.get {} (s.core k).cul c).entries.isEmpty

end Sys2Proof.Machine
end

