-- ==== Sys2Proof/Machine/Control.lean ====
section
/-! DEFINITION. Branches, jumps, loops, tokens, branch queues, queue moves, pushes, control registers and system words (R135 to
R155, R92, R142). -/

namespace Sys2Proof.Machine

/-! Branches and jumps (R135 to R137). -/

/-- The target leaves the body of the innermost active loop (R137). -/
def leavesBody (q : Seq) (target : BitVec 56) : Bool :=
  match q.innermost with
  | none => false
  | some n => decide (target < (q.level n).top) || decide ((q.level n).lendAt < target)

/-- A taken branch or a jump; the effect `eff` comes first. -/
def jumpTo (target : BitVec 56) (eff : State → State) (s : State) : State :=
  if leavesBody s.me target then s.trap .illegalEnc else (eff s).issued target 1

/-- The word's own address + 4·OFF. -/
def branchTarget (s : State) {n : Nat} (off : BitVec n) : BitVec 56 := s.me.pc + off.signExtend 56 * 4

/-- A branch on a condition of registers or flags. -/
def branch (allowed : List Stream) (regs : List XReg) (cond : State → Bool) (off : BitVec 12) (s : State) :
    Host.Outcome State Fault Refusal :=
  word allowed noGuard regs id (fun s => if cond s then jumpTo (branchTarget s off) id s else s.advance 4) s

/-- beq (R59, R135). -/
def execBeq (xa xb : XReg) (off : BitVec 12) (s : State) := branch [.c] [xa, xb] (fun s => decide (s.x xa = s.x xb)) off s
/-- bne. -/
def execBne (xa xb : XReg) (off : BitVec 12) (s : State) := branch [.c] [xa, xb] (fun s => decide (s.x xa ≠ s.x xb)) off s
/-- blt. -/
def execBlt (xa xb : XReg) (off : BitVec 12) (s : State) := branch [.c] [xa, xb] (fun s => (s.x xa).slt (s.x xb)) off s
/-- bge. -/
def execBge (xa xb : XReg) (off : BitVec 12) (s : State) := branch [.c] [xa, xb] (fun s => !(s.x xa).slt (s.x xb)) off s
/-- bltu. -/
def execBltu (xa xb : XReg) (off : BitVec 12) (s : State) := branch [.c] [xa, xb] (fun s => (s.x xa).ult (s.x xb)) off s
/-- bgeu. -/
def execBgeu (xa xb : XReg) (off : BitVec 12) (s : State) := branch [.c] [xa, xb] (fun s => !(s.x xa).ult (s.x xb)) off s
/-- bwany. -/
def execBwany (off : BitVec 12) (s : State) := branch [.c] [] (fun s => wfAny s.myCtx.wf) off s
/-- bwall. -/
def execBwall (off : BitVec 12) (s : State) := branch [.c] [] (fun s => wfAll s.myCtx.wf) off s
/-- bwnone. -/
def execBwnone (off : BitVec 12) (s : State) := branch [.c] [] (fun s => wfNone s.myCtx.wf) off s
/-- bwcge: the full count of R128 against x[XA]. -/
def execBwcge (xa : XReg) (off : BitVec 12) (s : State) :=
  branch [.c] [xa] (fun s => decide ((s.x xa).toNat ≤ wfCount s.myCtx.wf)) off s
/-- bal. -/
def execBal (off : BitVec 12) (s : State) := branch streams [] (fun _ => true) off s

/-- The branch queue that a stream pops (R59); C pops none. -/
def ownBq : Stream → Nat
  | .l => 13 | .e => 14 | .s => 15 | .c => 16

/-- Removes the outcome at the head of the own branch queue (R135, R139). -/
def popBq (s : State) : State :=
  let b := ownBq s.cur.2
  s.updMyCtx (fun c => { c with bq := Map.put c.bq b ((Map.get [] c.bq b).drop 1) })

/-- A branch on the outcome popped from the stream's branch queue. -/
def branchPop (want : Bool) (off : BitVec 12) (s : State) : Host.Outcome State Fault Refusal :=
  word [.l, .e, .s] noGuard [] id (fun s =>
    match Map.get [] s.myCtx.bq (ownBq s.cur.2) with
    | [] => s.block .pop
    | b :: _ => if b = want then jumpTo (branchTarget s off) popBq s else (popBq s).advance 4) s

/-- btk. -/
def execBtk (off : BitVec 12) (s : State) := branchPop true off s
/-- bnt. -/
def execBnt (off : BitVec 12) (s : State) := branchPop false off s

/-- The address of the next word, as a jump writes it. -/
def linkOf (s : State) : Word := (s.me.pc + 4).setWidth 64

/-- jal (R136). -/
def execJal (xd : XReg) (off : BitVec 20) (s : State) : Host.Outcome State Fault Refusal :=
  word streams noGuard [xd] id (fun s => jumpTo (branchTarget s off) (fun t => t.setX xd (linkOf s)) s) s

/-- jalr: the target comes from the value before the write (R136). -/
def execJalr (xd xa : XReg) (imm : BitVec 16) (s : State) : Host.Outcome State Fault Refusal :=
  word streams noGuard [xd, xa] id (fun s =>
    let t := ((s.x xa + imm.signExtend 64).setWidth 56) &&& ~~~(3 : BitVec 56)
    jumpTo t (fun u => u.setX xd (linkOf s)) s) s

/-! Loops (R138 to R146). -/

/-- A level that is active, or an active level inside it. -/
def openFrom (q : Seq) (n : Nat) : Bool := (List.range 6).any (fun k => decide (n ≤ k) && (q.level k).act)

/-- Opens level n with a count, or passes over the body. A body that is passed over must be readable as far as the lengths of its words
need it: the loop word raises the fault of the first word that cannot be read (R138, notes/assumptions/124.md). -/
def openLoop (n len count : Nat) (stride : Word) (s : State) : State :=
  if openFrom s.me n then s.trap .illegalEnc
  else
    let pc := s.me.pc
    let k := s.cur.1
    let st := s.cur.2
    let (at_, after) := nthWord s k st (pc + 4) len
    if count = 0 then
      match unreadable s k st (pc + 4) len with
      | some (a, .fault c) =>
        s.raiseAt c a.toNat (s.poisonDetail c (fun s => match lengthBytes s k st a with
          | .fault c => some c
          | _ => none)) 0
      | some _ => s.stall
      | none => s.issued after 1
    else
      (s.updMe (fun q =>
        let l := q.level n
        q.setLevel n { act := true, lc := .ofNat 32 count, ls := stride, it := 0, top := pc + 4, len := .ofNat 6 len,
                       lendAt := at_, inst := l.inst + 1 })).advance 4

/-- loop with its count in a register (R138). -/
def execLoopReg (lvl : BitVec 3) (len : BitVec 6) (xa xd : XReg) (s : State) : Host.Outcome State Fault Refusal :=
  word streams noGuard [xa, xd] id (fun s => openLoop lvl.toNat len.toNat ((s.x xa).toNat % 2 ^ 32) (s.x xd) s) s

/-- loop with an immediate count (R138). -/
def execLoopImm (lvl : BitVec 3) (len cnt : BitVec 6) (xd : XReg) (s : State) : Host.Outcome State Fault Refusal :=
  word streams noGuard [xd] id (fun s => openLoop lvl.toNat len.toNat cnt.toNat (s.x xd) s) s

/-- The branch queues that QM names (R139). -/
def qmQueues (qm : BitVec 3) : List Nat :=
  (if qm.getLsbD 0 then [13] else []) ++ (if qm.getLsbD 1 then [14] else []) ++ (if qm.getLsbD 2 then [15] else [])

/-- The first branch queue of QM that has no room (R139). -/
def fullBq (c : Ctx) (qm : BitVec 3) : Option Nat := (qmQueues qm).find? (fun b => decide (16 ≤ (Map.get [] c.bq b).length))

/-- A word issued in an iteration of the cut's instance later than the cut's (R146). -/
def tagLater (cut : Cut) (t : Tag) : Bool :=
  t.any (fun e => decide (e.1 = cut.lvl) && decide (e.2.1 = cut.inst) && decide (cut.iter < e.2.2))

/-- The recorded cut that a LEND of a level reaches (R144). -/
def cutReached (c : Ctx) (n : Nat) (l : Level) : Option Cut :=
  c.cuts.find? (fun k => decide (k.lvl = n) && decide (k.inst = l.inst) && decide (k.iter ≤ l.it.toNat))

/-- Removes the entries of y queues that a test names: a landed one at once, one still to land as its word lands (R146). -/
def dropY (test : YSlot → Bool) (y : Map (List YSlot)) : Map (List YSlot) :=
  y.map (fun e => (e.1,
    (e.2.filter (fun v => !(v.ready && test v))).map (fun v => if test v then { v with dead := true } else v)))

/-- Removes the entries of operand queues that a test names. -/
def dropQ (test : QEntry → Bool) (q : Map (List QEntry)) : Map (List QEntry) :=
  q.map (fun e => (e.1, e.2.filter (fun v => !test v)))

/-- What leaving a loop instance through a cut removes (R146): of the operand queues the entries of L's own words, and of the
gathers that L pushed (R216). The model's choice: entries of a gather that S or C pushed stay (notes/assumptions/125.md). -/
def leaveByCut (st : Stream) (cut : Cut) (c : Ctx) : Ctx :=
  match st with
  | .l => { c with q := dropQ (fun e => decide (e.st = .l) && tagLater cut e.tag) c.q, leftL := c.leftL ++ [cut] }
  | .e => { c with y := dropY (fun e => tagLater cut e.tag) c.y }
  | _ => c

/-- What leaving under the abort line removes (R146). -/
def leaveByAbort (st : Stream) (c : Ctx) : Ctx :=
  match st with
  | .l => { c with q := dropQ (fun e => decide (e.st = .l)) c.q, abortL := true }
  | .e => { c with y := dropY (fun _ => true) c.y }
  | _ => c

/-- The one step of a LEND that can issue, in the text order of its pseudocode: C's outcome reads x[XA] after x[XV] has
advanced (R12, R139, R145). -/
def closeIteration (lvl : Nat) (rot : BitVec 8) (brk : Bool) (qm : BitVec 3) (xa xv : XReg) (s : State) : State :=
  let st := s.cur.2
  let q := s.me
  let l := q.level lvl
  let line := s.lineUp s.myCtx
  let s := if xv = 0 then s else s.setX xv (s.x xv + l.ls)
  let b := if !brk then false
    else if st = .c then decide (s.x xa ≠ 0)
    else (Map.get [] s.myCtx.bq (ownBq st)).headD false
  let s :=
    if !brk then s
    else if st = .c then
      s.updMyCtx (fun c =>
        let c := { c with bq := (qmQueues qm).foldl (fun m n => Map.put m n (Map.get [] m n ++ [b])) c.bq }
        if b then { c with cuts := c.cuts ++ [{ lvl := lvl, inst := l.inst, iter := l.it.toNat }] } else c)
    else popBq s
  let cut := if st = .c then none else cutReached s.myCtx lvl l
  let lc := l.lc - 1
  let exits := decide (lc = 0) || b || cut.isSome || line
  let s := s.updMe (fun q =>
    let q := { q with rb := .ofNat 10 ((q.rb.toNat + rot.toNat) % 768) }
    let q := q.setLevel lvl { l with lc := lc, act := !exits, it := if exits then l.it else l.it + 1 }
    if exits && !q.inLoop then { q with replay := [] } else q)
  let s := s.updMyCtx (fun c =>
    let c := match cut with
      | some k => leaveByCut st k c
      | none => c
    if line then { leaveByAbort st c with aborted := true } else c)
  let s := if exits then s.advance 4 else s.issued l.top 1
  if line then s.updMe (fun q => { q with stopped := true }) else s

/-- lend (R139). -/
def execLend (lvl : BitVec 3) (rot : BitVec 8) (brk : Bool) (qm : BitVec 3) (xa xv : XReg) (s : State) :
    Host.Outcome State Fault Refusal :=
  word streams noGuard (if s.cur.2 = .c then [xa, xv] else [xv]) id (fun s =>
    let st := s.cur.2
    let q := s.me
    let n := lvl.toNat
    if (if st = .c then !brk else true) && (decide (xa ≠ 0) || decide (qm ≠ 0)) then s.trap .illegalEnc
    else if q.innermost ≠ some n || decide ((q.level n).lendAt ≠ q.pc) then s.trap .illegalEnc
    else if brk && decide (st ≠ .c) && (Map.get [] s.myCtx.bq (ownBq st)).isEmpty then s.block .pop
    else if brk && decide (st = .c) && ((fullBq s.myCtx qm).isSome) then
      s.block (.wait (.bqRoom ((fullBq s.myCtx qm).getD 16)))
    else closeIteration n rot brk qm xa xv s) s

/-- rbset (R142). -/
def execRbset (xa : XReg) (imm : BitVec 10) (s : State) : Host.Outcome State Fault Refusal :=
  word streams noGuard [xa] id (fun s =>
    let v := ((s.x xa).toNat + imm.toNat) % 768
    (s.updMe (fun q => { q with rb := .ofNat 10 v })).advance 4) s

/-! Tokens and branch queues (R147, R148). -/

/-- The giver of a token queue; kme has none among the sequencers (R61). -/
def giverOf (qn : Nat) : Option Stream :=
  if qn < 3 then some .c else if qn < 6 then some .l else if qn < 9 then some .e else if qn < 12 then some .s else none

/-- The taker of a token queue (R61). -/
def takerOf (qn : Nat) : Option Stream :=
  ([.l, .e, .s, .c, .e, .s, .c, .l, .s, .c, .l, .e, .e] : List Stream)[qn]?

/-- Tokens in a queue. -/
def Ctx.tokens (c : Ctx) (qn : Nat) : Nat := if qn = 12 then c.kme.length else Map.get 0 c.tok qn

/-- The tokens leave the queue; taking from kme returns credit (R183). -/
def Ctx.takeTokens (c : Ctx) (qn n : Nat) : Ctx :=
  if qn = 12 then { c with kme := c.kme.drop n, credit := c.credit - n }
  else { c with tok := Map.set 0 c.tok qn (Map.get 0 c.tok qn - n) }

/-- A word whose queue is checked before its guard (R61, R155). -/
def wordQ (allowed : List Stream) (misuse : Bool) (g : Guard) (regs : List XReg) (onFalse eff : State → State) (s : State) :
    Host.Outcome State Fault Refusal :=
  if allowed.contains s.cur.2 && misuse then .next (s.trap .queueMisuse) else word allowed g regs onFalse eff s

/-- give enters the issue buffer and performs under R107. -/
def execGive (g : Guard) (qn cnt : BitVec 4) (s : State) : Host.Outcome State Fault Refusal :=
  wordQ streams (decide (giverOf qn.toNat ≠ some s.cur.2)) g [] (fun s => s.advance 4)
    (fun s => (s.enqueue (.give qn.toNat cnt.toNat)).advance 4) s

/-- The mark of the first marked token among those taken (R199). -/
def firstMark (c : Ctx) (qn n : Nat) : Option Nat := if qn = 12 then ((c.kme.take n).filterMap id).head? else none

/-- The take itself, with what else the word writes: as a false slot it takes its tokens as well, and meets no mark (R147, R155,
R199). -/
def takeNow (qn n : Nat) (trap : Bool) (fin : State → State) (s : State) : State :=
  let c := s.myCtx
  if c.tokens qn < n then s.block (.take qn n)
  else
    match (if trap then firstMark c qn n else none) with
    | some act =>
      s.raiseReq { cause := .poison, st := s.cur.2, wpc := s.me.pc, index := markOf act,
                   detail := if marginTag ≤ act then 0x80 else 0, mark := true }
    | none => (fin (s.updMyCtx (fun c => c.takeTokens qn n))).advance 4

/-- take. -/
def execTake (g : Guard) (qn cnt : BitVec 4) (s : State) : Host.Outcome State Fault Refusal :=
  wordQ streams (decide (takerOf qn.toNat ≠ some s.cur.2)) g [] (takeNow qn.toNat cnt.toNat false id)
    (takeNow qn.toNat cnt.toNat true id) s

/-- tcnt. -/
def execTcnt (g : Guard) (qn : BitVec 4) (xa : XReg) (s : State) : Host.Outcome State Fault Refusal :=
  wordQ streams (decide (takerOf qn.toNat ≠ some s.cur.2)) g [xa] (fun s => s.advance 4)
    (fun s => (s.setX xa (.ofNat 64 (s.myCtx.tokens qn.toNat))).advance 4) s

/-- tryt. -/
def execTryt (g : Guard) (qn : BitVec 4) (xa : XReg) (cnt : BitVec 4) (s : State) : Host.Outcome State Fault Refusal :=
  wordQ streams (decide (takerOf qn.toNat ≠ some s.cur.2)) g [xa] (fun s => s.advance 4) (fun s =>
    if s.myCtx.tokens qn.toNat < cnt.toNat then (s.setX xa 0).advance 4
    else takeNow qn.toNat cnt.toNat true (fun s => s.setX xa 1) s) s

/-- bqput: C only, QN 13 to 15. -/
def execBqput (g : Guard) (qn : BitVec 4) (xa : XReg) (s : State) : Host.Outcome State Fault Refusal :=
  wordQ [.c] (decide (qn.toNat < 13)) g [xa] (fun s => s.advance 4) (fun s =>
    let b := decide (s.x xa ≠ 0)
    let q := Map.get [] s.myCtx.bq qn.toNat
    if 16 ≤ q.length then s.block (.wait (.bqRoom qn.toNat))
    else (s.updMyCtx (fun c => { c with bq := Map.put c.bq qn.toNat (q ++ [b]) })).advance 4) s

/-! Queue moves (R149). -/

/-- One more entry of a qmov has moved; after the last one the word has issued, with its increment. -/
def movedOne (cnt : BitVec 4) (fin : State → State) (s : State) : State :=
  if s.me.prog < cnt.toNat then s.updMe (fun q => { q with prog := q.prog + 1, held := .none }) else (fin s).advance 4

/-- Entries of operand queue qn that L's issue buffer will push. -/
def pendingQ (q : Seq) (qn : Nat) : Nat :=
  (q.ib.filter (fun e => match e.op with
    | .qld n _ => n == qn
    | _ => false)).length

/-- A DQ gather of the context is in flight to the queue (R216). -/
def gatherTo (s : State) (oid qn : Nat) : Bool :=
  s.cmds.any (fun e => decide (e.2.oid = oid) && decide (e.2.opc = 4) && bitsOf (e.2.w 0) 33 33 == 1
    && bitsOf (e.2.w 0) 36 34 == qn)

/-- A push of L into an operand queue needs room, counting the entries on their way. -/
def roomQ (s : State) (qn : Nat) : Bool := decide ((Map.get [] s.myCtx.q qn).length + pendingQ s.me qn < 8)

/-- x[XA] advances by a number. -/
def incX (xa : XReg) (n : Nat) (s : State) : State := s.setX xa (s.x xa + .ofNat 64 n)

/-- The address of entry `prog` of a memory qmov. -/
def qAddr (s : State) (xa : XReg) : Nat := (s.x xa).toNat / 64 * 64 + 64 * s.me.prog

/-- qld and qldi. -/
def loadQ (g : Guard) (qn : BitVec 4) (xa : XReg) (cnt : BitVec 4) (fin : State → State) (s : State) :
    Host.Outcome State Fault Refusal :=
  wordQ [.l] (decide (8 ≤ qn.toNat)) g [xa] (fun s => (fin s).advance 4) (fun s =>
    if gatherTo s s.myCtx.oid qn.toNat then s.trap .queueMisuse
    else if !roomQ s qn.toNat then s.block (.wait (.qRoom qn.toNat false))
    else movedOne cnt fin (s.enqueue (.qld qn.toNat (qAddr s xa)))) s

/-- qld. -/
def execQld (g : Guard) (qn : BitVec 4) (xa : XReg) (cnt : BitVec 4) (s : State) := loadQ g qn xa cnt id s
/-- qldi. -/
def execQldi (g : Guard) (qn : BitVec 4) (xa : XReg) (cnt : BitVec 4) (s : State) :=
  loadQ g qn xa cnt (incX xa (64 * (cnt.toNat + 1))) s

/-- A row of the W file holds an uncorrectable error (R320). -/
def badRow (r : Nat) (s : State) : Option Cause :=
  if (List.range 128).any (fun j => s.myCtx.wPoison.contains (128 * r + j)) then some .poison else none

/-- qrow and qrowi: L reads the row at issue (R71). The model's choice: a multi-slice read is never torn
(notes/assumptions/104.md). -/
def rowQ (g : Guard) (qn : BitVec 4) (xa : XReg) (cnt : BitVec 4) (fin : State → State) (s : State) :
    Host.Outcome State Fault Refusal :=
  wordQ [.l] (decide (8 ≤ qn.toNat)) g [xa] (fun s => (fin s).advance 4) (fun s =>
    let r := (s.x xa).toNat + s.me.prog
    if 767 < (s.x xa).toNat + cnt.toNat then s.trap .wRange
    else if gatherTo s s.myCtx.oid qn.toNat then s.trap .queueMisuse
    else if (badRow r s).isSome then s.raiseAt .poison 0 (s.poisonDetail .poison (badRow r)) 0
    else if !roomQ s qn.toNat || decide (pendingQ s.me qn.toNat ≠ 0) then s.block (.wait (.qRoom qn.toNat true))
    else
      let e : QEntry := { data := s.myCtx.wRow r, tag := s.me.tag }
      movedOne cnt fin (s.updMyCtx (fun c => { c with q := Map.put c.q qn.toNat (Map.get [] c.q qn.toNat ++ [e]) }))) s

/-- qrow. -/
def execQrow (g : Guard) (qn : BitVec 4) (xa : XReg) (cnt : BitVec 4) (s : State) := rowQ g qn xa cnt id s
/-- qrowi. -/
def execQrowi (g : Guard) (qn : BitVec 4) (xa : XReg) (cnt : BitVec 4) (s : State) :=
  rowQ g qn xa cnt (incX xa (cnt.toNat + 1)) s

/-- Pops one result entry, as a true or as a false slot (R149, R155). The model's choice: a pop that uses no value meets no mark
(notes/assumptions/127.md). -/
def popY (qn : BitVec 4) (cnt : BitVec 4) (fin : State → State) (use : State → List Byte → State) (s : State) : State :=
  match Map.get [] s.myCtx.y (qn.toNat - 8) with
  | v :: rest =>
    if v.ready then
      let data := leBytes 64 v.data.toNat
      movedOne cnt fin (use (s.updMyCtx (fun c => { c with y := Map.put c.y (qn.toNat - 8) rest })) data)
    else s.block (.emptyQueue qn.toNat)
  | [] => s.block (.emptyQueue qn.toNat)

/-- The head of the result queue holds an uncorrectable error (R320). -/
def badHead (y : Nat) (s : State) : Option Cause :=
  match Map.get [] s.myCtx.y y with
  | v :: _ => if v.ready && v.poison.isSome then some .poison else none
  | [] => none

/-- qst and qsti. -/
def storeQ (g : Guard) (qn : BitVec 4) (xa : XReg) (cnt : BitVec 4) (fin : State → State) (s : State) :
    Host.Outcome State Fault Refusal :=
  wordQ [.s] (decide (qn.toNat < 8)) g [xa] (popY qn cnt fin (fun s _ => s))
    (fun s =>
      let bad := badHead (qn.toNat - 8)
      if (bad s).isSome then s.raiseAt .poison 0 (s.poisonDetail .poison bad) 0
      else popY qn cnt fin (fun s d => s.enqueue (.qst (qAddr s xa) d)) s) s

/-- qst. -/
def execQst (g : Guard) (qn : BitVec 4) (xa : XReg) (cnt : BitVec 4) (s : State) := storeQ g qn xa cnt id s
/-- qsti. -/
def execQsti (g : Guard) (qn : BitVec 4) (xa : XReg) (cnt : BitVec 4) (s : State) :=
  storeQ g qn xa cnt (incX xa (64 * (cnt.toNat + 1))) s
/-- qdrop. -/
def execQdrop (g : Guard) (qn cnt : BitVec 4) (s : State) : Host.Outcome State Fault Refusal :=
  wordQ [.s] (decide (qn.toNat < 8)) g [] (popY qn cnt id (fun s _ => s)) (popY qn cnt id (fun s _ => s)) s

/-! Pushes (R117, R150). -/

/-- The provisional versions that a context reads, by line: the first of its view's owners that holds one (R117, R319). -/
def State.viewOf (s : State) (c : Ctx) : Map (List Byte × Bool) :=
  s.vers.filterMap (fun e => (c.view.findSome? (fun o => e.2.find? (fun v => decide (v.owner = some o)))).map (fun v => (e.1, v.data, v.poison)))

/-- The push step: a LAUNCH first commits the group's versions and pins it (R111, R113); the command enters the tail of its
FIFO and becomes an owner with the tide at the push. -/
def State.pushCmd (s : State) (k : Nat) (bank : Bool) (st : Stream) (words : List Word) (tag : Tag) : State :=
  let c := s.ctx k bank
  let s := if (words.headD 0).toNat % 256 = 14 then
      (s.commit (.group c.oid) (fun _ => true)).updCtx k bank (fun c => { c with pinned := true })
    else s
  let id := s.nextId
  let cmd : Cmd := { id := id, words := words, oid := c.oid, group := c.group, st := st, tag := tag, polder := c.polder,
                     owner := c.owner, tier := c.tier, core := k, cnt := k, begin := s.tide, snap := s.tide, view := s.viewOf c, rsnap := c.readSnap }
  let s := { s with nextId := id + 1, cmds := Map.put s.cmds id cmd }
  let s := s.updCluster (clusterOf k) (fun cl =>
    { cl with cpe := { cl.cpe with fifo := Map.upd [] cl.cpe.fifo (k % 4) (fun l => l ++ [.cmd id]) } })
  s.updCore k (fun co => { co with inflight := co.inflight + 1 })

/-- The copy engine's island, where a core's command FIFO lies, takes cycles: a command crosses into it (R20, R355). -/
def State.fifoOn (s : State) (k : Nat) : Bool := s.islandOn (cpeIsland (clusterOf k))

/-- push at the head of its issue buffer. -/
def perfPush (words : List Word) (xd : XReg) (tag : Tag) (s : State) (k : Nat) (bank : Bool) (st : Stream) : Perf :=
  if !s.drained k bank st || !s.fifoOn k then .wait
  else if 64 ≤ (s.core k).inflight then .done (s.setXOf k bank st xd 1)
  else .done ((s.pushCmd k bank st words tag).setXOf k bank st xd 0)

/-- x8 to x15 as the command. -/
def commandWords (q : Seq) : List Word := (List.range 8).map (fun i => q.get (.ofNat 4 (8 + i)))

/-- The registers that a push reads. -/
def pushRegs : List XReg := (List.range 8).map (fun i => BitVec.ofNat 4 (8 + i))

/-- push enters the issue buffer with the command as it stands. -/
def execPush (g : Guard) (xd : XReg) (s : State) : Host.Outcome State Fault Refusal :=
  word [.c, .l, .s] g (xd :: pushRegs) (fun s => s.advance 4)
    (fun s => (s.enqueue (.push (commandWords s.me) xd)).advance 4) s

/-- pushb holds its sequencer at issue until the command can enter its FIFO (R125, R150). -/
def execPushb (g : Guard) (xd : XReg) (s : State) : Host.Outcome State Fault Refusal :=
  word [.c, .l, .s] g (xd :: pushRegs) (fun s => s.advance 4) (fun s =>
    let k := s.cur.1
    if !s.me.ib.isEmpty || !s.drained k (s.bank k) s.cur.2 || decide (64 ≤ (s.core k).inflight) || !s.fifoOn k
      then s.block (.wait .push)
    else ((s.pushCmd k (s.bank k) s.cur.2 (commandWords s.me) s.me.tag).setX xd 0).advance 4) s

/-! Control registers (R127, R151, R240, R241, R272, R285). -/

/-- How the csr words reach a register. -/
inductive CsrAccess where
  | ro | rw | w1c | clk
deriving DecidableEq, Repr

/-- The access of a register number for a stream; none where the tables do not list it. -/
def csrAccess (st : Stream) (n : Nat) : Option CsrAccess :=
  if n ≤ 5 then some .ro
  else if 8 ≤ n ∧ n ≤ 13 then some .rw
  else if 16 ≤ n ∧ n ≤ 21 then some .ro
  else if n = 0x18 ∨ n = 0x19 then some .ro
  else if n = 0x20 then (if st = .c then some .ro else none)
  else if n = 0x30 then some .w1c
  else if n = 0x31 ∨ n = 0x32 then some .ro
  else if 0x40 ≤ n ∧ n ≤ 0x57 then some .rw
  else if n = 0x60 ∨ n = 0x61 then some .ro
  else if n = 0x62 then some .clk
  else if 0x63 ≤ n ∧ n ≤ 0x67 then some .ro
  else none

/-- Code of a rounding mode as a register shows it. -/
def modeBits (m : RMode) : Word := .ofNat 64 (modeCode m)

/-- The island that CLKDIV.ISL names (R240). -/
def islandOf (k : Nat) (isl : BitVec 2) : Nat :=
  if isl = 0 then coreIsland k else 6 * clusterOf k + 3 + isl.toNat

/-- CLKDIV as a read returns it (R240). -/
def clkRead (s : State) (k : Nat) : Word :=
  let co := s.core k
  let i := s.island (islandOf k co.isl)
  .ofNat 64 ((if co.deny then 2 ^ 23 else 0) + (if i.hop.isSome then 2 ^ 22 else 0) + i.div.toNat * 2 ^ 12
    + co.isl.toNat * 2 ^ 10)

/-- A control register's value, zero-extended. -/
def csrValue (s : State) (n : Nat) : Word :=
  let q := s.me
  let c := s.myCtx
  if n ≤ 5 then (q.level n).lc.setWidth 64
  else if n ≤ 13 then (q.level (n - 8)).ls
  else if n ≤ 21 then (q.level (n - 16)).it.setWidth 64
  else if n = 0x18 then q.rb.setWidth 64
  else if n = 0x19 then .ofNat 64 ((List.range 6).foldl (fun acc i => acc + if (q.level i).act then 2 ^ i else 0) 0)
  else if n = 0x20 then c.wf.setWidth 64
  else if n = 0x30 then c.nstat.setWidth 64
  else if n = 0x31 then modeBits c.vmode
  else if n = 0x32 then modeBits c.mmode
  else if n ≤ 0x57 then (Map.get 15 (s.core s.cur.1).bfmt (n - 0x40)).setWidth 64
  else if n = 0x60 then c.ecyc
  else if n = 0x61 then c.lcore.setWidth 64
  else if n = 0x62 then clkRead s s.cur.1
  else if n = 0x63 then c.rarg
  else if n = 0x64 then c.gidx.setWidth 64
  else if n = 0x65 then c.gcnt.setWidth 64
  else if n = 0x66 then c.stgn.setWidth 64
  else c.grun.setWidth 64

/-- Writes a register marked RW: ls0 to ls5, BFMT0 to BFMT23 (reserved bits read 0). -/
def csrStore (n : Nat) (v : Word) (s : State) : State :=
  if n ≤ 13 then s.updMe (fun q => q.setLevel (n - 8) { q.level (n - 8) with ls := v })
  else
    s.updCore s.cur.1 (fun co => { co with bfmt := Map.set 15 co.bfmt (n - 0x40) ((v.setWidth 32) &&& 31) })

/-- The divisor is one that the host permits for an island that is on (R241, R351). -/
def divOk (i : Island) (d : Nat) : Bool :=
  decide (2 ≤ d) && decide (d ≤ 16) && i.divok.getLsbD (d - 2) && decide (i.pst = 1)

/-- A write of CLKDIV (R241), with the write of x[XD] that goes with it. -/
def clkWrite (v : Word) (fin : State → State) (s : State) : State :=
  let k := s.cur.1
  let isl : BitVec 2 := .ofNat 2 (bitsOf v.toNat 11 10)
  let d := bitsOf v.toNat 4 0
  let n := islandOf k isl
  let i := s.island n
  if isl = 3 then s.trap .illegalEnc
  else if d = 0 then ((fin s).updCore k (fun co => { co with isl := isl })).advance 4
  else if i.hop.isSome then s.block (.wait (.hop n))
  else if !divOk i d then ((fin s).updCore k (fun co => { co with isl := isl, deny := true })).advance 4
  else
    let s := (fin s).updCore k (fun co => { co with isl := isl, deny := false })
    let t := s.tick
    (if i.div.toNat = d then s else s.updIsland n (fun i => { i with hop := some (.ofNat 5 d, t + 40) })).advance 4

/-- A csr word on an admitted register. -/
def csrWord (allowed : CsrAccess → Bool) (csr : BitVec 12) (regs : List XReg) (eff : CsrAccess → State → State) (s : State) :
    Host.Outcome State Fault Refusal :=
  match csrAccess s.cur.2 csr.toNat with
  | none => .next (s.trap .illegalEnc)
  | some a =>
    if allowed a then word streams noGuard regs id (eff a) s else .next (s.trap .illegalEnc)

/-- csrr. -/
def execCsrr (xd : XReg) (csr : BitVec 12) (s : State) : Host.Outcome State Fault Refusal :=
  csrWord (fun _ => true) csr [xd] (fun _ s => (s.setX xd (csrValue s csr.toNat)).advance 4) s

/-- csrw: a write of NSTAT clears the bits written as 1 (R7). -/
def execCsrw (csr : BitVec 12) (xa : XReg) (s : State) : Host.Outcome State Fault Refusal :=
  csrWord (fun a => decide (a ≠ .ro)) csr [xa] (fun a s =>
    match a with
    | .clk => clkWrite (s.x xa) id s
    | .w1c => (s.updMyCtx (fun c => c.clearNstat (s.x xa))).advance 4
    | _ => (csrStore csr.toNat (s.x xa) s).advance 4) s

/-- csrs. -/
def execCsrs (csr : BitVec 12) (xa : XReg) (s : State) : Host.Outcome State Fault Refusal :=
  csrWord (fun a => decide (a = .rw)) csr [xa]
    (fun _ s => (csrStore csr.toNat (csrValue s csr.toNat ||| s.x xa) s).advance 4) s

/-- csrc. -/
def execCsrc (csr : BitVec 12) (xa : XReg) (s : State) : Host.Outcome State Fault Refusal :=
  csrWord (fun a => decide (a = .rw)) csr [xa]
    (fun _ s => (csrStore csr.toNat (csrValue s csr.toNat &&& ~~~(s.x xa)) s).advance 4) s

/-- csrx, in text order: x[XD] takes the old value, then the register takes x[XA] (R12, R151). -/
def execCsrx (xd : XReg) (csr : BitVec 12) (xa : XReg) (s : State) : Host.Outcome State Fault Refusal :=
  csrWord (fun a => decide (a = .rw) || decide (a = .clk)) csr [xd, xa] (fun a s =>
    let old := csrValue s csr.toNat
    let new := (s.setX xd old).x xa
    match a with
    | .clk => clkWrite new (fun s => s.setX xd old) s
    | _ => (csrStore csr.toNat new (s.setX xd old)).advance 4) s

/-! System words (R152 to R154, R92, R279). -/

/-- nop. -/
def execNop (s : State) : Host.Outcome State Fault Refusal := word streams noGuard [] id (fun s => s.advance 4) s

/-- A reserved major is a NOP in C, L and S (R76). -/
def execReservedMajor (_w : BitVec 32) (s : State) : Host.Outcome State Fault Refusal :=
  word [.c, .l, .s] noGuard [] id (fun s => s.advance 4) s

/-- halt: C issues nothing further, and the group retires under R153. It is illegal with a transaction open (R319), which an
xbeg or xend still in the issue buffer decides. -/
def execHalt (s : State) : Host.Outcome State Fault Refusal :=
  word [.c] noGuard [] id (fun s =>
    if s.me.ib.any (fun e => isTxnOp e.op) then s.block (.wait .txn)
    else if s.myCtx.txn.isSome then s.trap .illegalEnc
    else ((s.advance 4).updMe (fun q => { q with stopped := true })).updMyCtx (fun c => { c with retiring := true })) s

/-- stop. -/
def execStop (s : State) : Host.Outcome State Fault Refusal :=
  word [.l, .e, .s] noGuard [] id (fun s => (s.advance 4).updMe (fun q => { q with stopped := true })) s

/-- fence. -/
def execFence (s : State) : Host.Outcome State Fault Refusal :=
  word [.c, .l, .s] noGuard [] id (fun s =>
    if !s.me.ib.isEmpty || !s.drained s.cur.1 (s.bank s.cur.1) s.cur.2 then s.block (.wait .fence) else s.advance 4) s

/-- tide enters the issue buffer. -/
def execTide (xd : XReg) (s : State) : Host.Outcome State Fault Refusal :=
  word [.c, .l, .s] noGuard [xd] id (fun s => (s.enqueue (.tide xd)).advance 4) s

/-- brk: with a breakpoint armed for the polder the context stops at the next shadow-clear point (R152, R231). The model's choice:
one that issues in the E-cycle in which another sequencer has already stopped the context leaves it to that event, and its own stop
is dropped (notes/assumptions/126.md). -/
def execBrk (s : State) : Host.Outcome State Fault Refusal :=
  word streams noGuard [] id (fun s =>
    let armed := s.brkArmed.contains s.myCtx.polder
    let cyc := (s.core s.cur.1).cyc
    (s.advance 4).updMyCtx (fun c =>
      if armed && decide (c.st = .running) then { c with st := .draining, drain := some .debugStop, eventAt := cyc } else c)) s

/-- vrnd (R92). -/
def execVrnd (mode : RMode) (s : State) : Host.Outcome State Fault Refusal :=
  word [.e] noGuard [] id (fun s => (s.updMyCtx (fun c => { c with vmode := mode })).advance 4) s

/-- What a word waits for at issue is still to come. -/
def State.stillBlocks (s : State) (k : Nat) (bank : Bool) (st : Stream) : IssueWait → Bool
  | .bqRoom qn => decide (16 ≤ (Map.get [] (s.ctx k bank).bq qn).length)
  | .qRoom qn alone =>
    let n := pendingQ ((s.ctx k bank).seq st) qn
    decide (8 ≤ (Map.get [] (s.ctx k bank).q qn).length + n) || (alone && decide (n ≠ 0))
  | .yRoom y => decide (8 ≤ (Map.get [] (s.ctx k bank).y y).length)
  | .ib => !((s.ctx k bank).seq st).ib.isEmpty
  | .txn => ((s.ctx k bank).seq st).ib.any (fun e => isTxnOp e.op)
  | .fence => !((s.ctx k bank).seq st).ib.isEmpty || !s.drained k bank st
  | .stores => !s.drained k bank st
  | .push => !((s.ctx k bank).seq st).ib.isEmpty || !s.drained k bank st || decide (64 ≤ (s.core k).inflight) || !s.fifoOn k
  | .hop i => (s.island i).hop.isSome
  | .order compute => decide (16 ≤ (s.ctx k bank).order.length) || (compute && decide (32 ≤ (s.ctx k bank).credit))
  | .vaccwr => (s.ctx k bank).order.any (fun e => match e.op with
    | .vaccwr _ => true
    | _ => false)
  | .array => decide ((s.ctx k bank).mxOut ≠ 0)
  | .move polder va => s.moving (clusterOf k) polder va []
  | .island i => !s.islandOn i
  | .tables => s.guestHeld (s.ctx k bank).group.region

/-- A sequencer is blocked at issue: the condition of its held word fails as the machine stands (R125, R154, R279). -/
def State.blocked (s : State) (k : Nat) (bank : Bool) (st : Stream) : Bool :=
  let c := s.ctx k bank
  match (c.seq st).held with
  | .none => false
  | .emptyQueue qn => if qn < 8 then (Map.get [] c.q qn).isEmpty else !((Map.get [] c.y (qn - 8)).headD {}).ready
  | .take qn n => decide (c.tokens qn < n)
  | .pop => (Map.get [] c.bq (ownBq st)).isEmpty
  | .obj w => s.stillWaits k bank st w
  | .yield => true
  | .wait w => s.stillBlocks k bank st w

/-- A blocked sequencer drops its word and stops under the abort line; a YIELD is no blocked word (R279). -/
def dropWord (q : Seq) : Seq :=
  { q with held := .none, stopped := true, blockedAtAbort := decide (q.held ≠ .yield) }

/-- Applies the abort line to the contexts of a region that stand on cores, in one step: which words are blocked is as the
machine `at_` stands at it. -/
def abortBanks (at_ : State) (rk : Nat) : List (Nat × Bool) → State → State
  | [], s => s
  | (k, b) :: t, s =>
    let c := s.ctx k b
    abortBanks at_ rk t (
      if c.st ≠ .empty && decide (c.group.region = rk) then
        let stops := streams.filter (at_.blocked k b)
        let s := dropWaitersIn (fun w => w.oid == c.oid && stops.contains w.st) s.objs s
        s.updCtx k b (fun c =>
          { stops.foldl (fun c st => c.updSeq st dropWord) c with aborted := c.aborted || !stops.isEmpty, boundary := false })
      else s)

/-- The contexts that hold a group. -/
def State.banks (s : State) : List (Nat × Bool) := s.cores.flatMap (fun e => [(e.1, false), (e.1, true)])

/-- Writes STATE with the region's state (R273). -/
def State.setRState (s : State) (rk : Nat) (st : RState) : State :=
  let r := s.region rk
  let code : Nat := match st with
    | .free => 0 | .running => 1 | .preempted => 2 | .aborting => 3 | .killing => 4 | .done => 5 | .killed => 6
  (s.updRegion rk (fun r => { r with st := st })).feWrite r.polder r.guest (leBytes 1 code)

/-- abort: asserts the line of the region, which enters ABORTING (R273, R279). -/
def State.assertLine (s : State) (rk : Nat) : State :=
  let s := s.updRegion rk (fun r => { r with line := true })
  let s := if (s.region rk).st = .running then s.setRState rk .aborting else s
  abortBanks s rk s.banks s

/-- abort. -/
def execAbort (s : State) : Host.Outcome State Fault Refusal :=
  word [.c] noGuard [] id (fun s =>
    let rk := s.myCtx.group.region
    if s.guestHeld rk then s.block (.wait .tables) else (s.advance 4).assertLine rk) s

/-- A sequencer stands as R154 asks: stopped, or held on a queue, a token or an object whose condition still fails. -/
def State.restsForYield (s : State) (k : Nat) (bank : Bool) (st : Stream) : Bool :=
  let q := (s.ctx k bank).seq st
  q.stopped || match q.held with
    | .emptyQueue _ | .take .. | .pop | .obj _ => s.blocked k bank st
    | .none | .yield | .wait _ => false

/-- The conditions of R154 under which a YIELD offers the group boundary. -/
def State.yieldReady (s : State) (k : Nat) (bank : Bool) : Bool :=
  let c := s.ctx k bank
  let co := s.core k
  [Stream.l, .e, .s].all (fun st => s.restsForYield k bank st)
    && streams.all (fun st => (c.seq st).ib.isEmpty)
    && co.a.pend.isEmpty && co.b.pend.isEmpty && decide (co.a.mxOut = 0) && decide (co.b.mxOut = 0)

/-- The front end holds something for the group at its boundary: a pre-emption or a migration request (R287). -/
def State.boundaryCalls (s : State) (k : Nat) (bank : Bool) : Bool :=
  let c := s.ctx k bank
  decide ((s.region c.group.region).st = .preempted) && decide (c.save ≠ 0) || (s.core k).migReq

/-- yield: C stands at the boundary once R154 holds, and from then on until the front end has acted (R282); it proceeds when
the front end holds nothing for the group (R287). -/
def execYield (s : State) : Host.Outcome State Fault Refusal :=
  word [.c] noGuard [] id (fun s =>
    let k := s.cur.1
    let b := s.bank k
    if !s.myCtx.persist then s.trap .illegalEnc
    else if !s.myCtx.boundary && !s.yieldReady k b then (s.updMyCtx (fun c => { c with boundary := false })).block .yield
    else if s.boundaryCalls k b && !s.lineUp s.myCtx then
      (s.updMyCtx (fun c => { c with boundary := true })).block .yield
    else if s.lineUp s.myCtx then s.block .yield
    else (s.updMyCtx (fun c => { c with boundary := false })).advance 4) s

end Sys2Proof.Machine
end

