-- ==== Sys2Proof/Machine/Region.lean ====
section
/-! DEFINITION. Regions: the RCB chain, the launch and its checks, kills, completion, and the retirement of operators (R255,
R265, R266, R270 to R278, R280). -/

namespace Sys2Proof.Machine

/-- The effective value along a chain: the first that is not the inherit code (R266). -/
def effective (field : Nat → Nat) (inherit_ : Nat) (chain : List Nat) : Nat :=
  ((chain.map field).find? (fun v => v != inherit_)).getD inherit_

/-! The guest part and what hangs from it (R270, R271, R280). -/

/-- Every byte of a virtual range reads zero to the front end. -/
def feZero (s : State) (polder va n : Nat) : Bool := (List.range n).all (fun i => decide (s.feRead polder (va + i) 1 = 0))

/-- The whole of a virtual range translates for the front end. -/
def feReaches (s : State) (polder va n : Nat) : Bool :=
  (s.feAddr polder va).isSome && (s.feAddr polder (va + n - 1)).isSome

/-- The completion signal word is none, or 8-byte aligned in a plain page (R270). -/
def csigOk (s : State) (polder csig : Nat) : Bool :=
  decide (csig = 0) || decide (csig % 8 = 0) && match s.leafAddr polder csig with
    | some la =>
      let l := s.readLE la 8
      leafOk s l && !leafBit l 1 && !leafBit l 2 && !leafBit l 3 && decide (leafPolder l = polder)
    | none => false

/-- The guest part holds no malformed field (R270). -/
def guestOk (s : State) (polder g rcb : Nat) : Bool :=
  decide (g % 64 = 0) && feReaches s polder g 128 && decide ((s.feAddr polder g).map (· / 65536) ≠ some (rcb / 65536))
  && decide (s.feRead polder (g + 1) 1 < 4) && decide (1 ≤ s.feRead polder (g + 2) 1) && decide (s.feRead polder (g + 2) 1 ≤ 16)
  && decide (2 ≤ s.feRead polder (g + 3) 1) && decide (s.feRead polder (g + 3) 1 ≤ 12) && feZero s polder (g + 4) 4
  && decide (s.feRead polder (g + 8) 8 % 32 = 0) && feZero s polder (g + 28) 4 && decide (s.feRead polder (g + 32) 8 % 128 = 0)
  && csigOk s polder (s.feRead polder (g + 48) 8) && feZero s polder (g + 80) 48

/-- A rectangle of a group descriptor within the limits of R36. -/
def rectOk (r : Rect) : Bool :=
  decide (1 ≤ r.nrows) && decide (1 ≤ r.nslc) && decide (r.row0 + r.nrows ≤ 768) && decide (r.slc0 + r.nslc ≤ 128)

/-- Rectangle i of a group descriptor (R280). -/
def rectAt (s : State) (polder d i : Nat) : Rect :=
  let a := d + 72 + 8 * i
  { row0 := s.feRead polder a 2, nrows := s.feRead polder (a + 2) 2, slc0 := s.feRead polder (a + 4) 1,
    nslc := s.feRead polder (a + 5) 1 }

/-- A group descriptor within every limit of R280. -/
def gdescOk (s : State) (polder d : Nat) : Bool :=
  let nrect := s.feRead polder (d + 36) 1
  decide (d % 32 = 0) && feReaches s polder d 160
  && (List.range 4).all (fun i => decide (s.feRead polder (d + 8 * i) 8 % 4 = 0) && decide (s.feRead polder (d + 8 * i) 8 < 2 ^ 56))
  && decide (s.feRead polder (d + 32) 4 < 2 ^ 25) && decide (nrect ≤ 8) && feZero s polder (d + 37) 1
  && (List.range 4).all (fun i => decide (s.feRead polder (d + 38 + i) 1 ≤ 16)) && feZero s polder (d + 42) 6
  && (List.range 24).all (fun i => decide (s.feRead polder (d + 48 + i) 1 < 32))
  && (List.range 8).all (fun i =>
      if i < nrect then rectOk (rectAt s polder d i) && feZero s polder (d + 78 + 8 * i) 2 else feZero s polder (d + 72 + 8 * i) 8)
  && decide (s.feRead polder (d + 136) 8 % 65536 = 0) && feZero s polder (d + 144) 16

/-- Stage i of a region as the stage table gives it (R271). -/
def stageAt (s : State) (polder table ng maxc i : Nat) : Stage :=
  let a := table + 32 * i
  let count := s.feRead polder (a + 24) 3
  let m := s.feRead polder (a + 28) 1
  { gdesc := s.feRead polder a 8, inRing := s.feRead polder (a + 8) 8, outRing := s.feRead polder (a + 16) 8,
    count := if count = 0 then ng else count, minc := s.feRead polder (a + 27) 1, maxc := if m = 0 then maxc else m,
    target := s.feRead polder (a + 27) 1 }

/-- The stages of a region hold no malformed field (R271, R274, R280). -/
def stagesOk (s : State) (polder table maxc : Nat) (l : List Stage) : Bool :=
  feReaches s polder table (32 * l.length)
  && l.all (fun g => decide (g.minc ≤ 128) && decide (g.maxc ≤ 128) && gdescOk s polder g.gdesc)
  && decide ((l.map (·.minc)).foldl (· + ·) 0 ≤ maxc)

/-! Launch (R274 to R276). -/

/-- What a launch asks for, and on whose behalf. -/
structure LaunchReq where
  polder : Nat
  owner : Nat
  tier : Nat
  rcb : Nat
  arg : Word
  ng : Nat
  /-- a LAUNCH command, not a queue's operator -/
  device : Bool
  terp : Nat
  queue : Option Nat := none
  fep : Option Nat := none
deriving DecidableEq, Repr

/-- The polder holds a cluster in the terp (R276). -/
def State.holdsTerp (s : State) (polder terp : Nat) : Bool :=
  (List.range 8).any (fun i => s.holdsCluster polder (8 * terp + i))

/-- The checks of a launch in the order of R274, that of R276 last: the region record as it would start, or the SUB of the
refusal. -/
def launchCheck (s : State) (q : LaunchReq) : Except Nat (Nat × Region) :=
  match s.feAddr q.polder q.rcb with
  | none => .error 1
  | some n =>
    match chainFrom s n with
    | none => .error 1
    | some chain =>
      let g := nodeGuest s n
      let maxc := effective (nodeMaxc s) 0 chain
      let nstg := s.feRead q.polder (g + 2) 1
      let table := s.feRead q.polder (g + 8) 8
      let stages := (List.range nstg).map (stageAt s q.polder table q.ng maxc)
      let old := s.region n
      if !guestOk s q.polder g n || decide (q.ng = 0) || decide (2 ^ 24 ≤ q.ng) || !stagesOk s q.polder table maxc stages then
        .error 1
      else if nodeId s (chain.getD 2 0) ≠ q.polder || decide (nodeId s (chain.getD 1 0) ≠ q.owner) then .error 11
      else if q.device && decide (s.readLE (n + 1) 1 % 2 = 0) then .error 11
      else if old.st ≠ .free && decide (old.st ≠ .done) && decide (old.st ≠ .killed) then .error 12
      else if !s.holdsTerp q.polder q.terp then .error 1
      else
        .ok (n, { st := .running, polder := q.polder, owner := q.owner,
                  tier := max q.tier (effective (nodeTier s) 0xFF chain), terp := q.terp,
                  policy := effective (nodePolicy s) 0 chain, fdom := effective (nodeFdom s) 0 chain, maxc := maxc,
                  chain := chain, guest := g, arg := q.arg, ng := q.ng, stages := stages, table := table,
                  fq := s.feRead q.polder (g + 32) 8, fqlog2 := s.feRead q.polder (g + 3) 1, fqtail := old.fqtail,
                  csig := s.feRead q.polder (g + 48) 8, csadd := (s.feRead q.polder (g + 1) 1).testBit 1,
                  cval := .ofNat 64 (s.feRead q.polder (g + 56) 8), queue := q.queue, fep := q.fep,
                  evalAt := s.islandTime (frontIsland q.terp) + 65536 })

/-- FLG[0] is written, the other bits as software left them (R270). -/
def State.setAborted (s : State) (r : Region) (b : Bool) : State :=
  s.feWrite r.polder (r.guest + 1) (leBytes 1 (s.feRead r.polder (r.guest + 1) 1 / 2 * 2 + (if b then 1 else 0)))

/-- Writes NEXT of a stage (R271). -/
def State.writeNext (s : State) (r : Region) (i v : Nat) : State :=
  s.feWrite r.polder (r.table + 32 * i + 29) (leBytes 3 v)

/-- What the front end reads for a launch, as far as its RCB and guest part name it. -/
def launchRanges (s : State) (q : LaunchReq) : List (Nat × Nat) :=
  (q.rcb, 128) :: match s.feAddr q.polder q.rcb with
  | none => []
  | some n =>
    let g := nodeGuest s n
    let table := s.feRead q.polder (g + 8) 8
    let nstg := min 16 (s.feRead q.polder (g + 2) 1)
    [(g, 128), (table, 32 * nstg)] ++ (List.range nstg).map (fun i => (s.feRead q.polder (table + 32 * i) 8, 160))

/-- The accesses of a launch are held (R312, R351). -/
def State.launchHeld (s : State) (q : LaunchReq) : Bool := s.feHolds q.terp q.polder (launchRanges s q)

/-- What the reads of a launch do to the doorbells that its tables lie in (R248). -/
def State.launchTouch (s : State) (r : Region) : State :=
  ([(r.guest, 128), (r.table, 32 * r.stages.length)] ++ r.stages.map (fun (g : Stage) => (g.gdesc, 160))).foldl
    (fun s (e : Nat × Nat) => qTouch s r.polder e.1 e.2) s

/-- The acceptance of a launch in one step, or its refusal, which changes nothing (R273 to R275). -/
def State.launch (s : State) (q : LaunchReq) : Except Nat (Nat × State) :=
  match launchCheck s q with
  | .error e => .error e
  | .ok (n, r) =>
    let s := { (s.launchTouch r) with regions := Map.put s.regions n r }
    let s := (s.setRState n .running).setAborted r false
    let s := s.feWrite r.polder (r.guest + 16) (leBytes 8 q.arg.toNat ++ leBytes 4 q.ng)
    let s := s.feWrite r.polder (r.guest + 64) (leBytes 8 0 ++ leBytes 8 s.tide)
    .ok (n, (List.range r.stages.length).foldl (fun s i => s.writeNext r i 0) s)

/-! Operators (R255). -/

/-- The operator in the active bank of a launcher is retired. -/
def State.opGone (s : State) (fep : Nat) : State :=
  match (s.fep fep).active with
  | none => s
  | some o =>
    let s := s.updFep fep (fun f => { f with active := none })
    let s := (s.qFill o.queue).updLive o.queue (fun l => { l with unret := l.unret - 1 })
    s.qEmpty o.queue

/-- The launch that an operator asks for (R255). -/
def Operator.request (o : Operator) (n : Nat) : LaunchReq :=
  { polder := o.polder, owner := o.owner, tier := o.tier, rcb := (o.rcb.getD 0).toNat, arg := o.arg.getD 0,
    ng := (o.ng.getD 0).toNat, device := false, terp := o.terp, queue := some o.queue, fep := some n }

/-- The shadow bank of a launcher becomes active when the active bank holds no unretired operator: the operator launches its
region, or retires at once; a refused launch is RECFAULT of its queue (R255, R274). While the launch's accesses are held, it waits
in the shadow bank (R312). -/
def State.activate (s : State) (n : Nat) : State :=
  match (s.fep n).active, (s.fep n).shadow with
  | none, some o =>
    if o.go && s.launchHeld (o.request n) then s else
    let s := s.updFep n (fun f => { f with active := some o, shadow := none })
    if !o.go then s.opGone n
    else
      match s.launch (o.request n) with
      | .error _ => ((s.qFill o.queue).recfault o.queue).opGone n
      | .ok (rk, s) => s.updFep n (fun f => { f with active := some { o with region := some rk } })
  | _, _ => s

/-- The operator in the active bank of a launcher retires, and the pending one becomes active in that step (R255). -/
def State.opRetired (s : State) (n : Nat) : State := (s.opGone n).activate n

/-- The region's operator retires, for a host launch. -/
def State.retireOpOf (s : State) (rk : Nat) : State :=
  match (s.region rk).fep with
  | none => s
  | some n =>
    match (s.fep n).active with
    | some o => if o.region = some rk then s.opRetired n else s
    | none => s

/-! Ends of a region. -/

/-- A position's context is discarded: its commands end under R229, and its versions and waiters are removed (R114, R229,
R231). -/
def State.discard (s : State) (k : Nat) (bank : Bool) : State :=
  (killCmds (s.ctx k bank).oid s.cmds s).freeCtx k bank

/-- The contexts of a region on cores, from a list of core and bank. -/
def discardAll (rk : Nat) : List (Nat × Bool) → State → State
  | [], s => s
  | (k, b) :: t, s =>
    let c := s.ctx k b
    discardAll rk t (if c.st ≠ .empty && decide (c.group.region = rk) then s.discard k b else s)

/-- A saved image is discarded. -/
def dropSaved (rk : Nat) : List Saved → State → State
  | [], s => s
  | v :: t, s =>
    dropSaved rk t (
      if v.ctx.group.region = rk then
        let s := (killCmds v.ctx.oid s.cmds s).dropWaiters v.ctx.oid
        let s := s.dropOwner (.group v.ctx.oid)
        match v.ctx.txn with
        | some t => s.dropOwner (.txn t.id)
        | none => s
      else s)

/-- A region is live. -/
def Region.live (r : Region) : Bool :=
  match r.st with
  | .running | .preempted | .aborting => true
  | _ => false

/-- KILL (R273): every group of the region is killed, and the region is KILLED once every context is EMPTY, which is in the
same step; its operator retires (R255). -/
def State.killRegion (s : State) (rk : Nat) : State :=
  if (s.region rk).live then
    let s := s.setRState rk .killing
    let s := discardAll rk s.banks s
    let s := dropSaved rk s.saved s
    let s := { s with saved := s.saved.filter (fun v => v.ctx.group.region != rk) }
    let s := s.updRegion rk (fun r => { r with returned := [], remap := [] })
    (s.setRState rk .killed).retireOpOf rk
  else s

/-- Kills some regions. -/
def killRegions : List Nat → State → State
  | [], s => s
  | rk :: t, s => killRegions t (s.killRegion rk)

/-- The policy kill region: every live region of the polder with the faulting region's effective FDOM (R268). -/
def State.killDomain (s : State) (rk : Nat) : State :=
  let r := s.region rk
  killRegions ((s.regions.filter (fun e => e.2.live && decide (e.2.polder = r.polder) && decide (e.2.fdom = r.fdom))).map (·.1)) s

/-- Positions of a region that are placed: contexts on cores and saved images (R277). -/
def State.placedOf (s : State) (rk : Nat) : List GroupId :=
  ((s.banks.map (fun kb => s.ctx kb.1 kb.2)).filter (fun c => decide (c.st ≠ .empty) && decide (c.group.region = rk))).map (·.group)
  ++ (s.saved.filter (fun v => decide (v.ctx.group.region = rk))).map (·.ctx.group)

/-- h_s, the number of placed positions of a stage (R277). -/
def State.placedStage (s : State) (rk stage : Nat) : Nat :=
  ((s.placedOf rk).filter (fun g => decide (g.stage = stage))).length

/-- The whole grid of a stage has been placed: nothing is left at or above NEXT, and nothing was returned. -/
def Region.gridPlaced (r : Region) (i : Nat) : Bool :=
  let g := r.stages.getD i {}
  decide (g.count ≤ g.next) && !r.returned.any (fun p => decide (p.stage = i))

/-- The halt tree fires (R277). -/
def State.haltReady (s : State) (rk : Nat) : Bool :=
  let r := s.region rk
  (s.placedOf rk).isEmpty && match r.st with
    | .running => (List.range r.stages.length).all r.gridPlaced
    | .aborting => true
    | _ => false

/-- The region completes in one step (R278, R279). -/
def State.complete (s : State) (rk : Nat) : State :=
  let r := s.region rk
  let s := match s.feAddr r.polder r.csig with
    | some pa =>
      if r.csig = 0 then s
      else s.plainWrite pa (leBytes 8 ((if r.csadd then leOf (s.plainBytes pa 8) else 0) + r.cval.toNat))
    | none => s
  let s := if r.line then s.setAborted r true else s
  (s.setRState rk .done).retireOpOf rk

/-- The halt tree, after a step that may have emptied the region; the completion waits while its accesses are held (R312). -/
def State.haltTree (s : State) (rk : Nat) : State := if s.haltReady rk && !s.guestHeld rk then s.complete rk else s

/-- The halt trees of some regions. -/
def haltTrees : List Nat → State → State
  | [], s => s
  | rk :: t, s => haltTrees t (s.haltTree rk)

/-- Every halt tree, where accesses that were held may go on. -/
def State.settleHalts (s : State) : State := haltTrees (s.regions.map (·.1)) s

/-- After a step that may have restarted groups: an ABORTING region left without a placed position completes (R277). -/
def State.settleAborts (s : State) : State :=
  haltTrees ((s.regions.filter (fun e => decide (e.2.st = .aborting))).map (·.1)) s

end Sys2Proof.Machine
end

