-- ==== Sys2Proof/Machine/Scalar.lean ====
section
/-! DEFINITION. The integer, immediate and bit-field words, and the loads and stores (R129 to R134). -/

namespace Sys2Proof.Machine

/-! alu (R129). -/

/-- Signed quotient, truncated toward zero, with the two special cases of R129. -/
def divS (a b : Word) : Word := if b = 0 then .allOnes 64 else a.sdiv b
/-- Unsigned quotient; all ones for a zero divisor (R129). -/
def divU (a b : Word) : Word := if b = 0 then .allOnes 64 else a / b
/-- Signed remainder with the sign of a; a for a zero divisor (R129). -/
def remS (a b : Word) : Word := if b = 0 then a else a.srem b
/-- Unsigned remainder; a for a zero divisor (R129). -/
def remU (a b : Word) : Word := if b = 0 then a else a % b
/-- High 64 bits of the signed product. -/
def mulHS (a b : Word) : Word := .ofInt 64 (a.toInt * b.toInt / 2 ^ 64)
/-- High 64 bits of the unsigned product. -/
def mulHU (a b : Word) : Word := .ofNat 64 (a.toNat * b.toNat / 2 ^ 64)
/-- 1 or 0. -/
def flag (b : Bool) : Word := if b then 1 else 0
/-- A shift count: bits [5:0] of the register. -/
def sh6 (b : Word) : Nat := b.toNat % 64

/-- An alu word: x[XD] := f(x[XA], x[XB]). -/
def alu (f : Word → Word → Word) (g : Guard) (xd xa xb : XReg) (s : State) : Host.Outcome State Fault Refusal :=
  scalar g [xa, xb] xd (fun s => f (s.x xa) (s.x xb)) s

/-- add (R129). -/
def execAdd (g : Guard) (xd xa xb : XReg) (s : State) := alu (· + ·) g xd xa xb s
/-- sub (R129). -/
def execSub (g : Guard) (xd xa xb : XReg) (s : State) := alu (· - ·) g xd xa xb s
/-- and (R129). -/
def execAnd (g : Guard) (xd xa xb : XReg) (s : State) := alu (· &&& ·) g xd xa xb s
/-- or (R129). -/
def execOr (g : Guard) (xd xa xb : XReg) (s : State) := alu (· ||| ·) g xd xa xb s
/-- xor (R129). -/
def execXor (g : Guard) (xd xa xb : XReg) (s : State) := alu (· ^^^ ·) g xd xa xb s
/-- shl (R129). -/
def execShl (g : Guard) (xd xa xb : XReg) (s : State) := alu (fun a b => a <<< sh6 b) g xd xa xb s
/-- shr (R129). -/
def execShr (g : Guard) (xd xa xb : XReg) (s : State) := alu (fun a b => a >>> sh6 b) g xd xa xb s
/-- sra (R129). -/
def execSra (g : Guard) (xd xa xb : XReg) (s : State) := alu (fun a b => a.sshiftRight (sh6 b)) g xd xa xb s
/-- slt (R129). -/
def execSlt (g : Guard) (xd xa xb : XReg) (s : State) := alu (fun a b => flag (a.slt b)) g xd xa xb s
/-- sltu (R129). -/
def execSltu (g : Guard) (xd xa xb : XReg) (s : State) := alu (fun a b => flag (a.ult b)) g xd xa xb s
/-- min (R129). -/
def execMin (g : Guard) (xd xa xb : XReg) (s : State) := alu (fun a b => if a.slt b then a else b) g xd xa xb s
/-- max (R129). -/
def execMax (g : Guard) (xd xa xb : XReg) (s : State) := alu (fun a b => if a.slt b then b else a) g xd xa xb s
/-- minu (R129). -/
def execMinu (g : Guard) (xd xa xb : XReg) (s : State) := alu (fun a b => if a.ult b then a else b) g xd xa xb s
/-- maxu (R129). -/
def execMaxu (g : Guard) (xd xa xb : XReg) (s : State) := alu (fun a b => if a.ult b then b else a) g xd xa xb s
/-- mul (R129). -/
def execMul (g : Guard) (xd xa xb : XReg) (s : State) := alu (· * ·) g xd xa xb s
/-- mulh (R129). -/
def execMulh (g : Guard) (xd xa xb : XReg) (s : State) := alu mulHS g xd xa xb s
/-- mulhu (R129). -/
def execMulhu (g : Guard) (xd xa xb : XReg) (s : State) := alu mulHU g xd xa xb s
/-- div (R129). -/
def execDiv (g : Guard) (xd xa xb : XReg) (s : State) := alu divS g xd xa xb s
/-- divu (R129). -/
def execDivu (g : Guard) (xd xa xb : XReg) (s : State) := alu divU g xd xa xb s
/-- rem (R129). -/
def execRem (g : Guard) (xd xa xb : XReg) (s : State) := alu remS g xd xa xb s
/-- remu (R129). -/
def execRemu (g : Guard) (xd xa xb : XReg) (s : State) := alu remU g xd xa xb s

/-! Immediates (R130, R131). -/

/-- An immediate word: x[XD] := f(x[XA]). -/
def immWord (f : Word → Word) (xd xa : XReg) (s : State) : Host.Outcome State Fault Refusal :=
  scalar noGuard [xa] xd (fun s => f (s.x xa)) s

/-- addi: IMM is signed (R130). -/
def execAddi (xd xa : XReg) (imm : BitVec 16) (s : State) := immWord (· + imm.signExtend 64) xd xa s
/-- andi: IMM is zero-extended (R130). -/
def execAndi (xd xa : XReg) (imm : BitVec 16) (s : State) := immWord (· &&& imm.setWidth 64) xd xa s
/-- ori (R130). -/
def execOri (xd xa : XReg) (imm : BitVec 16) (s : State) := immWord (· ||| imm.setWidth 64) xd xa s
/-- xori (R130). -/
def execXori (xd xa : XReg) (imm : BitVec 16) (s : State) := immWord (· ^^^ imm.setWidth 64) xd xa s
/-- shli (R130). -/
def execShli (xd xa : XReg) (sh : BitVec 6) (s : State) := immWord (· <<< sh.toNat) xd xa s
/-- shri (R130). -/
def execShri (xd xa : XReg) (sh : BitVec 6) (s : State) := immWord (· >>> sh.toNat) xd xa s
/-- srai (R130). -/
def execSrai (xd xa : XReg) (sh : BitVec 6) (s : State) := immWord (fun a => a.sshiftRight sh.toNat) xd xa s
/-- lui: x[XD] := sx(IMM·4,096, 32) (R131). -/
def execLui (xd : XReg) (imm : BitVec 20) (s : State) :=
  scalar noGuard [] xd (fun _ => ((imm ++ (0 : BitVec 12)).signExtend 64)) s

/-! bitf (R132). -/

/-- Position of the field of x[XB]. -/
def fieldPos (b : Word) : Nat := b.toNat % 64
/-- Length of the field of x[XB]: 65 to 127 count as 64. -/
def fieldLen (b : Word) : Nat := min (bitsOf b.toNat 14 8) 64
/-- f := (x[XA] >> pos) mod 2^len. -/
def fieldOf (a b : Word) : Nat := (a.toNat >>> fieldPos b) % 2 ^ fieldLen b
/-- Trailing zero bits among n bits. -/
def ctzFrom (v : Nat) : Nat → Nat
  | 0 => 0
  | n + 1 => if v % 2 = 1 then 0 else ctzFrom (v / 2) n + 1
/-- Number of 1 bits among n bits. -/
def popFrom (v : Nat) : Nat → Nat
  | 0 => 0
  | n + 1 => v % 2 + popFrom (v / 2) n
/-- ins of R132: bits above 63 are discarded. -/
def insert (d a b : Word) : Word :=
  let m : Nat := (2 ^ fieldLen b - 1) <<< fieldPos b
  (d &&& ~~~(BitVec.ofNat 64 m)) ||| (BitVec.ofNat 64 ((a.toNat % 2 ^ fieldLen b) <<< fieldPos b))

/-- ext (R132). -/
def execExt (g : Guard) (xd xa xb : XReg) (s : State) :=
  alu (fun a b => .ofInt 64 (signed (fieldOf a b) (fieldLen b))) g xd xa xb s
/-- extu (R132). -/
def execExtu (g : Guard) (xd xa xb : XReg) (s : State) := alu (fun a b => .ofNat 64 (fieldOf a b)) g xd xa xb s
/-- ins (R132). -/
def execIns (g : Guard) (xd xa xb : XReg) (s : State) :=
  scalar g [xa, xb] xd (fun s => insert (s.x xd) (s.x xa) (s.x xb)) s
/-- clz (R132). -/
def execClz (g : Guard) (xd xa : XReg) (s : State) := alu (fun a _ => .ofNat 64 (64 - bitLen a.toNat)) g xd xa xa s
/-- ctz (R132). -/
def execCtz (g : Guard) (xd xa : XReg) (s : State) := alu (fun a _ => .ofNat 64 (ctzFrom a.toNat 64)) g xd xa xa s
/-- popc (R132). -/
def execPopc (g : Guard) (xd xa : XReg) (s : State) := alu (fun a _ => .ofNat 64 (popFrom a.toNat 64)) g xd xa xa s
/-- rev8 (R132). -/
def execRev8 (g : Guard) (xd xa : XReg) (s : State) :=
  alu (fun a _ => .ofNat 64 (leOf (leBytes 8 a.toNat).reverse)) g xd xa xa s

/-! Loads and stores (R134). -/

/-- Bytes of a load or store of a type. -/
def tyBytes (ty : Ty) : Nat := tyw ty / 2

/-- The effective address: x[XA] + IMM·n, rounded down to a multiple of n. An address below 0 lies above 2^56 here, where
no page is. -/
def effAddr (a : Word) (imm : BitVec 8) (n : Nat) : Nat :=
  let ea := (a.toNat : Int) + imm.toInt * n
  let ea := if ea < 0 then (ea + 2 ^ 64).toNat else ea.toNat
  ea - ea % n

/-- The post-increment of x[XA] at issue (R134). -/
def postInc (s : State) (xa xi : XReg) : State := if xi = 0 then s else s.setX xa (s.x xa + s.x xi)

/-- ld: the access enters the issue buffer and writes x[XD] when it performs. -/
def execLd (ty : Ty) (xd xa xi : XReg) (imm : BitVec 8) (s : State) : Host.Outcome State Fault Refusal :=
  word [.c, .l, .s] noGuard [xd, xa, xi] id (fun s =>
    ((postInc s xa xi).enqueue (.load ty xd (effAddr (s.x xa) imm (tyBytes ty)))).advance 4) s

/-- st: the value is x[XD] after the post-increment (the order of R134's statements, R12). -/
def execSt (ty : Ty) (xd xa xi : XReg) (imm : BitVec 8) (s : State) : Host.Outcome State Fault Refusal :=
  word [.c, .l, .s] noGuard [xd, xa, xi] id (fun s =>
    let t := postInc s xa xi
    (t.enqueue (.store (effAddr (s.x xa) imm (tyBytes ty)) (leBytes (tyBytes ty) (t.x xd).toNat))).advance 4) s

end Sys2Proof.Machine
end

