-- ==== Sys2Proof/Machine/Access.lean ====
section
/-! DEFINITION. The ordering machine's steps on issue buffers and store buffers (R103 to R107, R109, R117, R122). -/

namespace Sys2Proof.Machine

/-- A read at the head of an issue buffer, with what follows from its bytes. -/
def perfRead (va n : Nat) (fin : State → List Byte → State) (s : State) (k : Nat) (bank : Bool) (st : Stream) : Perf :=
  let v := s.viaIb k bank st
  match s.readData v k bank va n with
  | .wait => .wait
  | .fault f => .fault f va 0
  | .data b => .done (fin (if inWindow va then s else walkAll v .read [va] s) b)

/-- The value of a load: extended under its type (R134). -/
def loadValue (ty : Ty) (b : List Byte) : Word :=
  if tySigned ty then .ofInt 64 (signed (leOf b) (8 * b.length)) else .ofNat 64 (leOf b)

/-- L has left the loop that a word of it lies in: what the word still brings is discarded (R146). -/
def Ctx.leftBy (c : Ctx) (tag : Tag) : Bool := c.abortL || c.leftL.any (fun k => tagLater k tag)

/-- A qld entry has no room yet: a gather has filled its queue since its word issued (R124, R149, R216). -/
def qldFull (qn : Nat) (tag : Tag) (c : Ctx) : Bool := decide (8 ≤ (Map.get [] c.q qn).length) && !c.leftBy tag

/-- A qld entry enters its queue, unless L has left the loop that its word lies in (R146). -/
def pushQ (qn : Nat) (tag : Tag) (c : Ctx) (b : List Byte) : Ctx :=
  if c.leftBy tag then c
  else { c with q := Map.put c.q qn (Map.get [] c.q qn ++ [{ data := .ofNat 512 (leOf b), tag := tag }]) }

/-- A write of a doomed transaction performs nothing (R318). -/
def Ctx.doomed (c : Ctx) : Bool :=
  match c.txn with
  | some t => t.doomed
  | none => false

/-- A store at the head of an issue buffer (R104, R106, R109, R309, R318). -/
def perfStore (va : Nat) (data : List Byte) (s : State) (k : Nat) (bank : Bool) (st : Stream) : Perf :=
  let c := s.ctx k bank
  if inWindow va then
    match bankFault c.bankSet (windowOff va) data.length with
    | some f => .fault f va 0
    | none => .done (s.updCore k (fun co => co.spWrite (windowOff va) data))
  else
    let v := s.viaIb k bank st
    match s.translate v va .write with
    | .error f => .fault f va 0
    | .ok x =>
      if x.v && c.doomed then .done s
      else
        match s.withFrame v c.group.region va .write x with
        | .error (f, d) => .fault f va d
        | .ok (s, x) =>
          let s := s.walked v va x
          if x.v then
            match s.vWrite c.writerOf (lineOf va) (lineOf x.pa) (x.pa % 128) data with
            | .done s => .done s
            | .wait _ => .wait
            | .aborted s => if c.txn.isSome then .done s else .gone s
            | .fault f d => .fault f va d
          else .done (s.updCore k (fun co => { co with sb := co.sb ++ [{ pa := x.pa, data := data, oid := c.oid, st := st }] }))

/-- A give performs once its queue has room and the W-file writes issued before it have landed (R107, R147). -/
def perfGive (qn n no : Nat) (s : State) (k : Nat) (bank : Bool) (st : Stream) : Perf :=
  let c := s.ctx k bank
  if (st = .e && c.pend.any (fun p => decide (p.no < no))) || decide (15 < c.tokens qn + n) then .wait
  else .done (s.updCtx k bank (fun c => { c with tok := Map.set 0 c.tok qn (Map.get 0 c.tok qn + n) }))

/-- The address that an entry reaches in translated memory. -/
def ibVa : IbOp → Option Nat
  | .load _ _ va | .store va _ | .qld _ va | .qst va _ | .rinit _ va | .rclaim _ va _ | .rpost va _ | .rfree va _
  | .binit _ va _ _ | .sync _ va | .acq _ va | .rel va | .sbind va _ _ | .recheck va _ _ =>
    if inWindow va then none else some va
  | .spill .. | .push .. | .give .. | .tide .. | .xbeg .. | .xend .. | .marker _ => none

/-- A page move holds the head entry of an issue buffer (R312). -/
def heldByMove (e : IbEntry) (s : State) (k : Nat) (bank : Bool) (st : Stream) : Bool :=
  match ibVa e.op with
  | some va =>
    (va :: match e.op with
      | .sbind _ d _ => [d, d + 15].filter (fun a => !inWindow a)
      | _ => []).any (fun a => s.moving (clusterOf k) (s.ctx k bank).polder a ((s.ctx k bank).seq st).ib)
  | none => false

/-- The head entry of an issue buffer performs; a read that a lost port answers with a poisoned line faults (R324). -/
def perform (e : IbEntry) (s : State) (k : Nat) (bank : Bool) (st : Stream) : Perf :=
  if heldByMove e s k bank st then .wait
  else if e.lost then .fault .poison ((ibVa e.op).getD 0) 0
  else match e.op with
  | .load ty xd ea => perfRead ea (tyBytes ty) (fun s b => s.setXOf k bank st xd (loadValue ty b)) s k bank st
  | .store ea d | .qst ea d => perfStore ea d s k bank st
  | .qld qn ea =>
    if qldFull qn e.tag (s.ctx k bank) then .wait
    else perfRead ea 64 (fun s b => s.updCtx k bank (fun c => pushQ qn e.tag c b)) s k bank st
  | .spill a d => .done (s.updCore k (fun co => (co.spWrite a d).spUnpoison a d.length))
  | .push w xd => perfPush w xd e.tag s k bank st
  | .give qn n => perfGive qn n e.no s k bank st
  | .tide xd => .done (s.setXOf k bank st xd (.ofNat 64 s.tide))
  | .rinit xd va => perfRinit xd va s k bank st
  | .rclaim xd va n => perfRclaim xd va n s k bank st
  | .rpost va i => perfRpost va i s k bank st
  | .rfree va i => perfRfree va i s k bank st
  | .binit xd va p f => perfBinit xd va p f s k bank st
  | .sync xd va => perfSync xd va s k bank st
  | .acq xd va => perfAcq xd va s k bank st
  | .rel va => perfRel va s k bank st
  | .sbind va d n => perfSbind va d n s k bank st
  | .xbeg xd r => perfXbeg xd r s k bank st
  | .xend xd => perfXend xd s k bank st
  | .marker _ => .done s
  | .recheck va kind w => perfRecheck va kind w e.wpc s k bank st

/-- The head of an issue buffer leaves it. -/
def State.popIb (s : State) (k : Nat) (bank : Bool) (st : Stream) : State :=
  s.updCtx k bank (fun c => c.updSeq st (fun q => { q with ib := q.ib.drop 1 }))

/-- A bank's issue buffers perform: it is the active bank, RUNNING or DRAINING, and its core takes cycles (R232, R238,
R239). -/
def State.accessOn (s : State) (k : Nat) : Bool :=
  let c := s.act k
  (decide (c.st = .running) || decide (c.st = .draining)) && (s.core k).swapEnd.isNone && !(s.core k).frozen
    && s.islandOn (coreIsland k) && !s.inReset

/-- The head of a sequencer's issue buffer has faulted: it and the entries behind it stay until the context resumes (R122). -/
def Ctx.headFaulted (c : Ctx) (st : Stream) : Bool :=
  match c.drain with
  | some (.trap t) => t.atHead && decide (t.st = st)
  | _ => false

/-- What a lost port had left unanswered at the head has been answered. -/
def Seq.answered (q : Seq) : Seq :=
  { q with ib := match q.ib with
      | e :: t => { e with lost := false } :: t
      | [] => [] }

/-- The entry at the head of an issue buffer performs, or waits, or faults (R103). A head that faults while the context already
drains stays, and faults again when it performs afresh (R122, R232). -/
def State.performHead (s : State) (k : Nat) (st : Stream) : State :=
  let b := s.bank k
  if !s.accessOn k || (s.ctx k b).headFaulted st then s
  else
    match ((s.ctx k b).seq st).ib with
    | [] => s
    | e :: _ =>
      let s := s.bump
      match perform e s k b st with
      | .done s => (s.popIb k b st).settleAborts
      | .wait => s
      | .gone s => s.settleAborts
      | .fault c a d =>
        let d := if e.lost then d else max d (s.poisonDetail c (fun s => (perform e s k b st).cause))
        (s.updCtx k b (fun c => c.updSeq st Seq.answered)).raise k st
          { cause := c, st := st, wpc := e.wpc, faddr := a, detail := d, atHead := true }

/-- ACCESS_PERFORM. -/
def execAccessPerform (k : Nat) (st : Stream) (s : State) : Host.Outcome State Fault Refusal := .next (s.performHead k st)

/-- STORE_DRAIN: the oldest entry of a core's store buffer reaches memory, to which the islands take cycles (R104, R351). -/
def execStoreDrain (k : Nat) (s : State) : Host.Outcome State Fault Refusal :=
  .next (
    match (s.core k).sb with
    | [] => s
    | e :: rest => if s.paStopped (clusterOf k) e.pa then s else (s.updCore k (fun co => { co with sb := rest })).plainWrite e.pa e.data)

end Sys2Proof.Machine
end

