-- ==== Sys2Proof/Machine/Sluice.lean ====
section
/-! DEFINITION. Sluices and pacing: what a unit of an admitted owner pays, and the gaps between starts (R333, R337 to R339,
R353). -/

namespace Sys2Proof.Machine


/-- Class codes of R50. -/
def clsDram : Nat := 0
/-- MXA. -/
def clsMxa : Nat := 1
/-- CPE. -/
def clsCpe : Nat := 2
/-- FAB. -/
def clsFab : Nat := 3
/-- DLK. -/
def clsDlk : Nat := 4

/-- Units of a sluice's content in one byte. -/
def byteUnits : Nat := 65536 * 66

/-- A charge of a unit: class, whether the last step of the class pays (a line written to DRAM), bytes (R339), and the server to
which its lines go (R335). -/
structure Charge where
  cls : Nat
  last : Bool := false
  bytes : Nat
  srv : Option Server := none
deriving DecidableEq, Repr

/-- The controller of a DRAM address (R19, R20, R347). -/
def dramCtrl (pa : Nat) : Nat := pa / 0x180000000

/-- The step of a path that pays a charge (R339); none where the path has no step of the class. -/
def payStep (path : List PStep) (c : Charge) : Option Nat :=
  let at_ := (List.range path.length).filter (fun i => decide ((path.getD i { cls := 9, sigma := 0, rho := 0 }).cls = c.cls))
  if c.last then at_.getLast? else at_.head?

/-- What every step of a path has to pay for a unit, in bytes. -/
def dues (path : List PStep) (cs : List Charge) : List Nat :=
  (List.range path.length).map (fun i =>
    (cs.filter (fun c => decide (payStep path c = some i))).foldl (fun a c => a + c.bytes) 0)

/-- A unit in a sluice's line still waits: its command steps on; the context is still on its core with the word at the head of its
order, whether it holds a term again or not; a line waits until it has paid. -/
def State.unitWaits (s : State) : Payer → Bool
  | .cmd id =>
    match Map.find s.cmds id with
    | some c => c.started && !c.susp && !c.killed
    | none => false
  | .word k oid => decide ((s.act k).oid = oid) && !(s.act k).order.isEmpty
  | .line .. => true

/-- A step can pay a due for a unit: the content suffices and no unit offered earlier waits (R338). -/
def stepPays (s : State) (u : Payer) (p : PStep) (due : Nat) : Bool :=
  decide (due = 0) || (decide (due * byteUnits ≤ p.content) && match (p.line.filter (fun v => v == u || s.unitWaits v)).head? with
    | some v => v == u
    | none => true)

/-- The unit of an owner can pay every bucket concerned. -/
def State.canPay (s : State) (o : Nat) (u : Payer) (cs : List Charge) : Bool :=
  !s.inForce o || ((s.owner o).path.zip (dues (s.owner o).path cs)).all (fun e => stepPays s u e.1 e.2)

/-- The owner's curves are in force and hold a step of a class (R335, R339). -/
def State.curved (s : State) (o cls : Nat) : Bool := s.inForce o && (s.owner o).path.any (fun p => decide (p.cls = cls))

/-- The lines of some charges that have passed their sluices now, each on its way to its server (R335). -/
def State.passing (s : State) (o : Nat) (cs : List Charge) : List Passed :=
  cs.filterMap (fun c => c.srv.bind (fun v =>
    if s.curved o c.cls then
      some { srv := v, polder := (s.owner o).polder, owner := o, no := s.nextId, left := ceilDiv c.bytes 128 }
    else none))

/-- The unit pays all its buckets in one step (R338). -/
def State.pay (s : State) (o : Nat) (u : Payer) (cs : List Charge) : State :=
  if s.inForce o then
    { s.updOwner o (fun e =>
        { e with path := (e.path.zip (dues e.path cs)).map (fun x =>
            { x.1 with content := x.1.content - x.2 * byteUnits, line := x.1.line.filter (· != u) }) }) with
      passed := s.passed ++ s.passing o cs, nextId := s.nextId + 1 }
  else s

/-- The unit waits at the buckets it has to pay. -/
def State.waitAtSluice (s : State) (o : Nat) (u : Payer) (cs : List Charge) : State :=
  s.updOwner o (fun e =>
    { e with path := (e.path.zip (dues e.path cs)).map (fun x =>
        if x.2 = 0 || x.1.line.contains u then x.1 else { x.1 with line := x.1.line ++ [u] }) })

/-- A unit that is no longer offered leaves the lines of its owner. -/
def State.leaveLine (s : State) (o : Nat) (u : Payer) : State :=
  s.updOwner o (fun e => { e with path := e.path.map (fun p => { p with line := p.line.filter (· != u) }) })

/-- One REFCLK tick fills every bucket at its rate, up to its depth: 10·ρ units of 2^-16 byte / 66 (R5, R338). -/
def fillSluices (e : OEntry) : OEntry :=
  { e with path := e.path.map (fun p => { p with content := min (p.content + 10 * p.rho) (p.b * byteUnits) }) }

/-- The gap in force in an engine queue (R353). -/
def Pace.gap (p : Pace) : Nat :=
  let m := max p.host.toNat p.arb.toNat
  if p.overridden then m else min m p.ceil.toNat

/-- The gap since the last start or dequeue has passed (R188, R208). -/
def gapPassed (tick : Nat) (last : Option Nat) (gap : Nat) : Bool :=
  match last with
  | some t => decide (t + gap ≤ tick)
  | none => true

/-- The terp of a DRAM address (R19). -/
def dramTerp (pa : Nat) : Nat := pa / 0xC00000000

end Sys2Proof.Machine
end

