-- ==== Sys2Proof/Machine/MatrixCore.lean ====
section
/-! DEFINITION. What the matrix array computes: elements of A and B, sums, latch loads and tile words (R85, R86, R96 to R98,
R193 to R202). -/

namespace Sys2Proof.Machine

/-! Elements. -/

/-- Element i of a run of elements of a type, the run read as one number (R84). -/
def elemN (ty : Ty) (v i : Nat) : Nat := v / 2 ^ (tyBits ty * i) % 2 ^ tyBits ty

/-- K of a tile step: the elements in 128 bytes (R193). -/
def kDepth (ty : Ty) : Nat := 1024 / tyBits ty

/-- The codes of a grouped type read as unsigned integers. -/
def codeTy : Ty → Ty
  | .qa4 => .z4 | .qa8 => .z8 | t => t

/-- The value 1 of a type (R196). -/
def oneOf : Ty → Nat
  | .h => 0x3C00 | .bf => 0x3F80 | _ => 1

/-- The condition of a generated B (R196): `perm` is the permutation's 128 bytes as one number. -/
def genOne (gen kk perm k j : Nat) : Bool :=
  match gen with
  | 1 => k == j
  | 2 => decide (j < min kk 128) && decide (k + 1 + j = min kk 128)
  | 3 => k == perm / 256 ^ j % 256
  | 4 => j == 0
  | 5 => k + 1 == j
  | _ => false

/-- bmat(k, j) (R193): `col` is column j of the latch buffer as one number. -/
def bElem (m : Mma) (perm col k j : Nat) : Nat :=
  if m.gen.toNat = 0 then elemN m.ty col k
  else if genOne m.gen.toNat (kDepth m.ty) perm k j then oneOf m.ty else 0

/-- The element lies above the diagonal: it is forced to TFILL (R195). -/
def forced (m : Mma) (i k : Nat) : Bool := m.tri && decide (m.tdiag.toInt < (k : Int) - i)

/-- The element lies in a skipped sub-tile (R195). -/
def skipped (m : Mma) (i k : Nat) : Bool :=
  m.tri && decide (m.tfill = 0) && !(tyQa m.ty && m.zpa)
    && decide (m.tdiag.toInt < (16 * (k / 16) : Nat) - ((16 * (i / 16) + 15 : Nat) : Int))

/-- A[i, k] as the array multiplies it; none in a skipped sub-tile: `row` is row i of A as one number. -/
def aElem (m : Mma) (row i k : Nat) : Option Nat :=
  if skipped m i k then none else some (if forced m i k then m.tfill.toNat else elemN m.ty row k)

/-- The pairs of elements that a sum multiplies, k rising. -/
def pairs (m : Mma) (perm row col i j : Nat) (ks : List Nat) : List (Nat × Nat) :=
  ks.filterMap (fun k => (aElem m row i k).map (fun a => (a, bElem m perm col k j)))

/-! Sums. -/

/-- An exact zero, and its sign. -/
def exZero : Ex → Option Bool
  | .fin n m _ _ => if m = 0 then some n else none
  | _ => none

/-- The sign of an exact total of zero: that of the terms when all are zeros of one sign, else free (R89, R96). The model's choices: a
product of a skipped sub-tile is no term, and a total of no terms is +0 (notes/assumptions/20.md). -/
def totalSign (free : Bool) (ts : List Ex) : Bool :=
  match ts with
  | [] => false
  | t :: _ => if (exZero t).isSome && ts.all (fun u => exZero u == exZero t) then (exZero t).getD free else free

/-- The exact total of terms, and whether it is invalid or meets a NaN. -/
def exTotal (free : Bool) (ts : List Ex) : Ex × Bool :=
  let r := ts.foldl (fun (acc : Ex × Bool) t =>
    let s := exAdd .rne acc.1 t
    (s.1, acc.2 || s.2)) (.fin false 0 0 false, false)
  match exZero r.1 with
  | some _ => (.fin (totalSign free ts) 0 0 false, r.2)
  | none => r

/-- A floating element (R96): its bits and NSTAT. -/
def dotF (free : Bool) (ty : Ty) (old : Option Nat) (ps : List (Nat × Nat)) : Nat × BitVec 32 :=
  let prods := ps.map (fun p => exMul (decodeF ty p.1) (decodeF ty p.2))
  let terms := prods.map (·.1) ++ (old.map (decodeF .f)).toList
  let (t, bad) := exTotal free terms
  (arith .f .rne t, nvBits (bad || prods.any (·.2)))

/-- An integer element (R97): its bits and NSTAT. -/
def dotI (ty : Ty) (old : Option Nat) (ps : List (Nat × Nat)) : Nat × BitVec 32 :=
  let val (v : Nat) : Int := if tySigned ty then signed v (tyBits ty) else v
  let sum := ps.foldl (fun (acc : Int) p => acc + val p.1 * val p.2) 0
  match old with
  | some o => satInt .s32 (signed o 32 + sum)
  | none => (wrapNat sum 32, 0)

/-- Codes in a group (R73). -/
def groupSize (gsz : BitVec 2) : Nat := 16 * 2 ^ gsz.toNat

/-- Groups of a tile step (R86). -/
def groups (m : Mma) : Nat := kDepth m.ty / groupSize m.gsz

/-- Scale of a scale-table entry. -/
def scaleOf (e : Nat) : Ex := decodeF .h (e % 65536)

/-- Zero point of a scale-table entry, 0 with the enable clear (R85, R86). -/
def zeroOf (ty : Ty) (on : Bool) (e : Nat) : Int :=
  if on then (if ty = .qa4 then (e / 65536 % 16 : Nat) else (e / 65536 % 256 : Nat)) else 0

/-- One group of a QMMA element (R98): the pairs of its codes and its entries of A and B. The model's choice: the sign of t where
the sum is 0 (notes/assumptions/27.md). -/
def groupTerm (m : Mma) (ps : List (Nat × Nat)) (ea eb : Nat) : Nat × Bool :=
  let za := zeroOf m.ty m.zpa ea
  let zb := zeroOf m.ty m.zpb eb
  let p := ps.foldl (fun (acc : Int) q => acc + ((q.1 : Int) - za) * ((q.2 : Int) - zb)) 0
  let (x, b1) := exMul (exInt p) (scaleOf ea)
  let (y, b2) := exMul x (scaleOf eb)
  (arith .f .rne y, b1 || b2)

/-- A QMMA element (R98): `sa g` and `sb g` are the entries of group g. The model's choice: a group's t or a partial acc that rounds
beyond the largest finite FP32 number is an infinity at once, before the next group (notes/assumptions/107.md). -/
def dotQ (free : Nat → Bool) (m : Mma) (perm row col i j : Nat) (sa sb : Nat → Nat) (old : Option Nat) : Nat × BitVec 32 :=
  let gs := groupSize m.gsz
  (List.range (groups m)).foldl (fun (acc : Nat × BitVec 32) g =>
    let (t, bad) := groupTerm m (pairs m perm row col i j ((List.range gs).map (fun k => g * gs + k))) (sa g) (sb g)
    let (s, bad') := exTotal (free g) [decodeF .f acc.1, decodeF .f t]
    (arith .f .rne s, acc.2 ||| nvBits (bad || bad'))) (old.getD 0, 0)

/-- C[i, j] of a tile step: bits and NSTAT. -/
def mmaElem (free : Nat → Bool) (m : Mma) (perm row col i j : Nat) (sa sb : Nat → Nat) (old : Nat) : Nat × BitVec 32 :=
  let o := if m.acc then some old else none
  if tyQa m.ty then dotQ free m perm row col i j sa sb o
  else
    let ps := pairs m perm row col i j (List.range (kDepth m.ty))
    if tyFloat m.ty then dotF (free 0) m.ty o ps else dotI m.ty o ps

/-- The pattern of an element that a poisoned byte reaches (R199). -/
def poisonBits : Nat := 0x7FC00000

/-! The accumulator store. -/

/-- An element of the ACS by its place. -/
def Cluster.elem (c : Cluster) (i : Nat) : Nat := (Map.get 0 c.acs i).toNat
/-- Writes elements of the ACS, which clears their marks (R321). -/
def Cluster.setElems (c : Cluster) : List (Nat × Nat) → Cluster
  | [] => c
  | (i, v) :: t =>
    Cluster.setElems { c with acs := Map.set 0 c.acs i (.ofNat 32 v), acsPoison := c.acsPoison.filter (fun m => markOf m != i) } t

/-! Latch buffers (R197). -/

/-- A byte of the B-store: slice, byte offset in the slice. The spec names no word and no command that writes the B-store (R16,
R198), so that it holds its reset value (notes/assumptions/103.md). -/
def Cluster.bByte (c : Cluster) (sl off : Nat) : Byte := Map.get 0 c.bst (sl * 262144 + off)

/-- The byte of the B-store that a load puts at byte b of column j: slice and offset (R197). -/
def latchFrom (ty : Ty) (brow : Nat) (btr : Bool) (j b : Nat) : Nat × Nat :=
  if btr then
    let e := tyBits ty / 8
    (b / e, brow * 128 + j * e + b % e)
  else (j, brow * 128 + b)

/-- The bytes and the poisoned bytes of a latch load; a byte poisoned by a MARGIN event stands there a second time, with the tag. -/
def latchLoad (c : Cluster) (ty : Ty) (brow : Nat) (btr : Bool) : Latch :=
  let places := (List.range 128).flatMap (fun j => (List.range 128).map (fun b => (j * 128 + b, latchFrom ty brow btr j b)))
  { bytes := places.filterMap (fun p =>
      let v := c.bByte p.2.1 p.2.2
      if v = 0 then none else some (p.1, v)),
    poison := places.flatMap (fun p =>
      let l := (p.2.1 * 262144 + p.2.2) / 128
      (if c.bstPoison.contains l then [p.1] else []) ++ (if c.bstPoison.contains (l + marginTag) then [p.1 + marginTag] else [])) }

/-- Column j of a latch buffer as one number. -/
def Latch.col (l : Latch) (j : Nat) : Nat :=
  leOf ((List.range 128).map (fun b => Map.get 0 l.bytes (j * 128 + b)))

/-- A byte of column j is poisoned, or poisoned by a MARGIN event. -/
def Latch.badCol (l : Latch) (margin : Bool) (j : Nat) : Bool :=
  l.poison.any (fun p => decide (p / 128 = if margin then j + marginTag / 128 else j))

/-- Cycles of a latch load (R197). -/
def loadTime (btr : Bool) : Nat := if btr then 32 else 16

/-! Times (R184, R188). -/

/-- Rows of a word with MM1. -/
def rowsOf (mm1 : BitVec 7) : Nat := mm1.toNat + 1

/-- MXA cycles a compute word occupies the array; none for an entry that is no compute word (R184). -/
def occupies : MOp → Option Nat
  | .mma m => some (max (rowsOf m.mm1 + 20) (if m.bld then loadTime m.btr else 0))
  | .mlatch _ _ _ btr => some (loadTime btr)
  | .mzero _ => some 8
  | .mtcopy _ _ | .mtadd _ _ _ | .mtscale _ _ => some 32
  | .mtout _ _ rows _ => some (rows + 8)
  | _ => none

/-- The entry is a compute word. -/
def isCompute (e : MEntry) : Bool := (occupies e.op).isSome

/-- ACT of a word, as a POISON record names it (R199). -/
def actOf : MOp → Nat
  | .mma m => m.act.toNat
  | .mzero t | .mtcopy t _ | .mtadd _ t _ | .mtscale t _ | .mtout _ t _ _ => t
  | _ => 0

/-! Rows of A and scale tables. -/

/-- Scratchpad bytes of a bank from an offset that wraps in the bank. -/
def spBankRead (c : Core) (bank off n : Nat) : List Byte :=
  (List.range n).map (fun i => Map.get 0 c.sp (bank * 32768 + (off + i) % 32768))

/-- Row i of A as the scratchpad now holds it: one number, whether it holds a poisoned byte, and one poisoned by a MARGIN event
(R193, R199, R356). -/
def spRow (r : SpRows) (c : Core) (i : Nat) : Nat × Bool × Bool :=
  let row := (r.row.toNat + i * r.step.toNat) % 256
  let l := r.bank.toNat * 256 + row
  (leOf (spBankRead c r.bank.toNat (128 * row) 128), c.spPoison.contains l, c.spPoison.contains (l + marginTag))

/-- Row i of A of a running word, once it has been read: captured at issue, or read in the i-th cycle after the start (R187,
R193). -/
def aRow (r : Run) (m : Mma) (i : Nat) : Option (Nat × Bool × Bool) :=
  match m.a with
  | .w _ => some ((r.entry.rows.getD i 0).toNat, false, false)
  | .sp _ => r.aRows[i]?

/-- A scale-table entry: 2^32 more when a byte of it is poisoned, 2^33 more when one is by a MARGIN event (R86, R199, R356). -/
def scaleEntry (c : Core) (t : SpTab) (i : Nat) : Nat :=
  let off := (t.off.toNat + 4 * i) % 32768
  let l := t.bank.toNat * 256 + off / 128
  leOf (spBankRead c t.bank.toNat off 4) + (if c.spPoison.contains l then 2 ^ 32 else 0)
    + (if c.spPoison.contains (l + marginTag) then 2 ^ 33 else 0)

/-- The entries that a tile step reads of A, by row and group. -/
def scalesA (c : Core) (m : Mma) : List Nat :=
  if tyQa m.ty then (List.range (rowsOf m.mm1 * groups m)).map (scaleEntry c m.sca) else []

/-- The entries that a tile step reads of B, by group and column. -/
def scalesB (c : Core) (m : Mma) : List Nat :=
  if tyQa m.ty then (List.range (128 * groups m)).map (scaleEntry c m.scb) else []

/-! Rows of a tile step. -/

/-- A poisoned byte, or one poisoned by a MARGIN event, reaches element (i, j) of a running tile step (R199, R356). -/
def stepBad (margin : Bool) (r : Run) (m : Mma) (row : Nat × Bool × Bool) (i j : Nat) : Bool :=
  let gg := groups m
  let marked (e : Nat) : Bool := e.testBit (if margin then 33 else 32)
  (if margin then row.2.2 else row.2.1) || (decide (m.gen.toNat = 0) && r.latch.badCol margin j)
    || (tyQa m.ty && (List.range gg).any (fun g => marked (r.sa.getD (i * gg + g) 0) || marked (r.sb.getD (g * 128 + j) 0)))

/-- Element (i, j) of a running tile step: bits, NSTAT, whether a poisoned byte reaches it. -/
def stepElem (fresh : Nat) (r : Run) (m : Mma) (row : Nat × Bool × Bool) (i j old : Nat) : Nat × BitVec 32 × Bool :=
  let gg := groups m
  let sa (g : Nat) : Nat := r.sa.getD (i * gg + g) 0
  let sb (g : Nat) : Nat := r.sb.getD (g * 128 + j) 0
  if stepBad false r m row i j then (poisonBits, 0, true)
  else
    let col := if m.gen.toNat = 0 then r.latch.col j else 0
    let v := mmaElem (fun g => Config.zeroSign fresh ((i * 128 + j) * 8 + g)) m r.entry.perm.toNat row.1 col i j sa sb old
    (v.1, v.2, false)

/-! Tile words (R201, R202). -/

/-- An element of a tile word other than mma: bits and NSTAT. -/
def tileElem (free : Bool) (op : MOp) (dst src : Nat) : Nat × BitVec 32 :=
  match op with
  | .mtcopy _ _ => (src, 0)
  | .mtadd ty _ _ =>
    if ty = .f then
      let (s, bad) := exTotal free [decodeF .f dst, decodeF .f src]
      (arith .f .rne s, nvBits bad)
    else satInt .s32 (signed dst 32 + signed src 32)
  | .mtscale _ v =>
    let (p, bad) := exMul (decodeF .f dst) (decodeF .h v.toNat)
    (arith .f .rne p, nvBits bad)
  | _ => (0, 0)

/-- The source tile of a tile word. -/
def srcTile : MOp → Nat
  | .mtcopy _ s | .mtadd _ _ s => s
  | .mtscale t _ => t
  | _ => 0

/-- A tile word over its tile, but for the elements that a vaccrd has already seen written: those it writes and NSTAT (R177,
R201). -/
def tileWord (fresh : Nat) (c : Cluster) (op : MOp) (early : List Nat) : List (Nat × Nat) × BitVec 32 :=
  let t := actOf op
  let s := srcTile op
  let res := ((List.range 16384).filter (fun i => !early.contains (t * 16384 + i))).map (fun i =>
    (t * 16384 + i, tileElem (Config.zeroSign fresh i) op (c.elem (t * 16384 + i)) (c.elem (s * 16384 + i))))
  (res.map (fun r => (r.1, r.2.1)), res.foldl (fun a r => a ||| r.2.2) 0)

/-- The bytes of row i that mtout writes, and NSTAT (R202). -/
def outRow (c : Cluster) (mode : RMode) (ty : Ty) (t i : Nat) : List Byte × BitVec 32 :=
  let val (v : Nat) : Ex := if tyFloat ty then decodeF .f v else exInt (signed v 32)
  let res := (List.range 128).map (fun j => convert ty mode (val (c.elem (t * 16384 + i * 128 + j))))
  let num := (res.zip (List.range 128)).foldl (fun a r => a + r.1.1 % 2 ^ tyBits ty * 2 ^ (tyBits ty * r.2)) 0
  (leBytes (16 * tyBits ty) num, res.foldl (fun a r => a ||| r.2) 0)

/-- Scratchpad bytes written in a bank from an offset that wraps in the bank. -/
def spBankWrite (bank off : Nat) : List Byte → Core → Core
  | [], c => c
  | b :: t, c => spBankWrite bank (off + 1) t { c with sp := Map.set 0 c.sp (bank * 32768 + off % 32768) b }

/-- mtout writes its rows, i rising. -/
def outRows (cl : Cluster) (mode : RMode) (ty : Ty) (t : Nat) (sp : SpRows) : List Nat → Core × BitVec 32 → Core × BitVec 32
  | [], r => r
  | i :: rest, (c, n) =>
    let (bytes, bits) := outRow cl mode ty t i
    let off := 128 * ((sp.row.toNat + i * sp.step.toNat) % 256)
    let c := spBankWrite sp.bank.toNat off bytes c
    let c := c.spUnpoison (sp.bank.toNat * 32768 + off) (min bytes.length (32768 - off))
    outRows cl mode ty t sp rest (c, n ||| bits)

end Sys2Proof.Machine
end

