-- ==== Sys2Proof/Machine/Commands.lean ====
section
/-! DEFINITION. What a copy-engine command reads and writes in a step, its fields and their limits, invalidation markers and
link flits (R88, R117, R118, R120, R121, R205 to R212, R226, R227, R328). -/

namespace Sys2Proof.Machine

/-! Fields and limits (R205 to R207). -/

/-- Bits of the header. -/
def Cmd.hdr (c : Cmd) (hi lo : Nat) : Nat := bitsOf (c.w 0) hi lo
/-- ORD. -/
def Cmd.ord (c : Cmd) : Bool := c.hdr 11 11 == 1
/-- A 56-bit address: bits [63:56] are reserved. -/
def addrOk (v : Nat) : Bool := decide (v < 2 ^ 56)

/-- The header's bits that every command has (R205, R206, R208). -/
def headerOk (c : Cmd) : Bool :=
  decide (c.hdr 15 12 = 0) && (c.bnd || decide (c.hdr 63 56 = 0)) && (decide (c.hdr 8 8 = 0) || decide (c.opc = 4))
  && (if c.bnd then decide (c.w 6 ≠ 0) && decide (c.w 6 % 128 = 0) && addrOk (c.w 6) else decide (c.w 6 = 0))
  && (if c.cw then decide (c.w 7 % 8 = 0) && addrOk (c.w 7) else decide (c.w 7 = 0))

/-- LEN: 1 to 2^40 − 1, with [63:40] reserved. -/
def lenOk (v : Nat) : Bool := decide (1 ≤ v) && decide (v < 2 ^ 40)

/-- Element size of accum (R218). -/
def Cmd.accSize (c : Cmd) : Nat := if c.hdr 37 36 = 1 then 8 else 4
/-- Element size of a reducing coll (R221). -/
def Cmd.redSize (c : Cmd) : Nat := if c.hdr 38 37 = 1 then 2 else 4
/-- ES (R207). -/
def Cmd.es (c : Cmd) : Nat := bitsOf (c.w 3) 16 0 + 1
/-- CNT of gather and scatter. -/
def Cmd.cnt32 (c : Cmd) : Nat := bitsOf (c.w 3) 63 32

/-- ES and CNT of gather and scatter. -/
def elemsOk (c : Cmd) : Bool := decide (c.es ≤ 65536) && decide (bitsOf (c.w 3) 31 17 = 0) && decide (1 ≤ c.cnt32)

/-- A command without a malformed field (R207, R208, R215 to R222). The model's choice: ARG of launch is no address
(notes/assumptions/110.md). -/
def cmdOk (c : Cmd) : Bool :=
  headerOk c && match c.opc with
    | 1 => decide (c.hdr 55 32 = 0) && addrOk (c.w 1) && addrOk (c.w 2) && lenOk (c.w 3) && decide (c.w 4 = 0) && decide (c.w 5 = 0)
    | 2 => decide (c.hdr 55 32 = 0) && addrOk (c.w 1) && addrOk (c.w 2) && decide (1 ≤ bitsOf (c.w 3) 23 0)
           && decide (1 ≤ bitsOf (c.w 3) 43 24) && decide (bitsOf (c.w 3) 63 44 = 0) && decide (c.w 5 = 0)
    | 3 => decide (c.hdr 55 32 = 0) && addrOk (c.w 1) && addrOk (c.w 2) && decide (1 ≤ bitsOf (c.w 3) 23 0)
           && decide (1 ≤ bitsOf (c.w 3) 43 24) && decide (1 ≤ bitsOf (c.w 3) 63 44)
    | 4 => decide (c.hdr 55 37 = 0) && addrOk (c.w 1) && addrOk (c.w 4) && elemsOk c
           && (if c.hdr 33 33 = 1 then decide (c.w 2 = 0) && decide (c.es = 64) else addrOk (c.w 2))
    | 5 => decide (c.hdr 55 33 = 0) && addrOk (c.w 1) && addrOk (c.w 2) && addrOk (c.w 4) && elemsOk c
    | 6 => decide (c.hdr 55 38 = 0) && decide (c.hdr 35 32 ≤ 9) && decide (c.hdr 37 36 ≠ 3)
           && (decide (c.hdr 37 36 ≠ 2) || decide (c.hdr 35 32 = 0)) && (decide (c.w 5 = 0) || decide (c.hdr 35 32 = 9))
           && [1, 2, 4, 5].all (fun i => addrOk (c.w i) && decide (c.w i % c.accSize = 0)) && decide (1 ≤ c.w 3)
           && decide (c.w 3 < 2 ^ 32)
    | 7 => decide (c.hdr 55 32 = 0) && addrOk (c.w 2) && lenOk (c.w 3) && decide (c.w 4 = 0) && decide (c.w 5 = 0)
    | 8 => decide (c.hdr 55 39 = 0) && addrOk (c.w 1) && addrOk (c.w 2) && lenOk (c.w 3) && addrOk (c.w 4)
           && decide (c.hdr 38 37 ≠ 3) && decide (c.w 3 % c.redSize = 0)
    | 9 => decide (c.hdr 55 51 = 0) && addrOk (c.w 1) && decide (c.w 2 = 0) && decide (1 ≤ c.w 3) && decide (c.w 3 < 512)
           && decide (c.w 4 = 0) && decide (c.w 5 = 0)
    | 10 => decide (c.hdr 55 50 = 0) && addrOk (c.w 2) && decide (c.w 3 = 0) && decide (c.w 4 = 0) && decide (c.w 5 = 0)
    | 11 => decide (c.hdr 55 32 = 0) && decide (c.w 1 = 0) && addrOk (c.w 2) && lenOk (c.w 3) && decide (c.w 4 = 0)
            && decide (c.w 5 = 0)
    | 12 => decide (c.hdr 55 33 = 0) && decide (c.w 1 = 0) && addrOk (c.w 2) && decide (c.w 2 % 65536 = 0)
            && decide (1 ≤ c.w 3) && decide (c.w 3 < 2 ^ 24) && decide (c.w 4 = 0) && decide (c.w 5 = 0)
    | 13 => decide (c.hdr 55 32 = 0) && decide (c.w 1 = 0) && addrOk (c.w 2) && decide (1 ≤ c.w 3) && decide (c.w 3 < 2 ^ 24)
            && decide (c.w 4 = 0) && decide (c.w 5 = 0)
    | 14 => decide (c.hdr 55 32 = 0) && addrOk (c.w 1) && decide (1 ≤ c.w 3) && decide (c.w 3 < 2 ^ 24) && decide (c.w 4 = 0)
            && decide (c.w 5 = 0)
    | 15 => decide (c.hdr 55 46 = 0) && addrOk (c.w 1) && addrOk (c.w 2) && decide (c.w 2 % 8 = 0) && decide (c.w 3 < 2 ^ 32)
            && decide (c.w 4 = 0) && decide (c.w 5 = 0)
    | _ => false

/-! Conversion between banks (R83, R88). -/

/-- The element type of a BFMT value, the grouped types as plain codes. -/
def fmtTy (f : Nat) : Ty :=
  match tyOf (f % 16) with
  | .ok .qa4 => .z4
  | .ok .qa8 => .z8
  | .ok ty => ty
  | .error _ => .z8

/-- The format is hz (R87). -/
def fmtHz (f : Nat) : Bool := decide (f = 26)

/-- The command converts elements. -/
def Cmd.converts (c : Cmd) : Bool := decide (c.fmt.1 % 16 ≠ 15) && decide (c.fmt.2 % 16 ≠ 15) && decide (c.fmt.1 ≠ c.fmt.2)

/-- One element converted: its bits and the NSTAT bits. -/
def convElem (src dst v : Nat) : Nat × BitVec 32 :=
  let sub := fmtHz src && subnormalH v
  let v := if sub then v / 32768 * 32768 else v
  let x := valueOf (fmtTy src) v
  let r := if tyFloat (fmtTy dst) then convF (fmtTy dst) .rne (fmtHz dst) x else convI (fmtTy dst) .rne x
  (r.1, if sub then r.2 ||| nFz else r.2)

/-- Element i of packed bytes (R84). -/
def packedElem (bits : Nat) (b : List Byte) (i : Nat) : Nat := leOf (b.drop (i * bits / 8) |>.take (max 1 (bits / 8))) / 2 ^ (i * bits % 8) % 2 ^ bits

/-- Elements packed from bit 0. -/
def packElems (bits : Nat) : List Nat → Nat
  | [] => 0
  | v :: t => v % 2 ^ bits + 2 ^ bits * packElems bits t

/-- Destination bytes of a row of `n` source bytes (R88, R213). -/
def Cmd.rowBytes (c : Cmd) (n : Nat) : Nat :=
  if c.converts then ceilDiv (n * 8 / tyBits (fmtTy c.fmt.1) * tyBits (fmtTy c.fmt.2)) 8 else n

/-- The source bytes of a row that destination bytes `off` to `off + n` − 1 need: first byte and count. -/
def Cmd.srcRange (c : Cmd) (row off n : Nat) : Nat × Nat :=
  if c.converts then
    let bs := tyBits (fmtTy c.fmt.1)
    let bd := tyBits (fmtTy c.fmt.2)
    let lo := off * 8 / bd * bs / 8
    let hi := ceilDiv (min (ceilDiv ((off + n) * 8) bd) (row * 8 / bs) * bs) 8
    (lo, hi - lo)
  else (off, n)

/-- Destination bytes `off` to `off + n` − 1 of a row from its source bytes, with the NSTAT bits. -/
def Cmd.rowData (c : Cmd) (row off n : Nat) (src : List Byte) : List Byte × BitVec 32 :=
  if c.converts then
    let bs := tyBits (fmtTy c.fmt.1)
    let bd := tyBits (fmtTy c.fmt.2)
    let e0 := off * 8 / bd
    let e1 := min (ceilDiv ((off + n) * 8) bd) (row * 8 / bs)
    let rel := e0 - e0 * bs / 8 * 8 / bs
    let es := (List.range (e1 - e0)).map (fun i => convElem c.fmt.1 c.fmt.2 (packedElem bs src (rel + i)))
    let bytes := leBytes (n + bd) (packElems bd (es.map (·.1)))
    ((bytes.drop (off - e0 * bd / 8)).take n, es.foldl (fun a e => a ||| e.2) 0)
  else (src, 0)

/-! Reads and writes of a step (R106, R109, R117, R118, R206). -/

/-- SUB of a translation's cause (R226). -/
def subOf : Cause → Nat
  | .pageProt => 3 | .pageType => 4 | .poison => 5 | _ => 2

/-- A range of bytes cut at line boundaries: address and length of each piece. -/
def pieces : Nat → Nat → Nat → List (Nat × Nat)
  | 0, _, _ => []
  | f + 1, va, n =>
    if n = 0 then [] else
    let m := min n (128 - va % 128)
    (va, m) :: pieces f (va + m) (n - m)

/-- A range of bytes by lines. -/
def spanLines (r : Nat × Nat) : List (Nat × Nat) := pieces (r.2 / 128 + 2) r.1 r.2

/-- What a command reads of a V line: its own version, else the value at the push: the version that its pusher held then, or the
newest one under the pusher's snapshot. R117 lets the engine also see what the pusher wrote later; the model never does
(notes/assumptions/97.md). -/
def cmdVRead (s : State) (c : Cmd) (line : Nat) : List Byte × Bool :=
  let vs := s.chain line
  match vs.find? (fun v => decide (v.owner = some (.cmd c.id))), Map.find c.view line with
  | some v, _ => (v.data, v.poison)
  | none, some v => v
  | none, none => match newestUpTo c.rsnap vs with
    | some v => (v.data, v.poison)
    | none => s.base line

/-- A command reads bytes within one line: the bytes and whether they are poisoned, as is a line that a lost port answers (R324); or
the SUB of the fault. -/
def cmdReadLine (s : State) (c : Cmd) (va n : Nat) : Except Nat (List Byte × Bool) :=
  if inWindow va then
    match s.findOid c.oid with
    | none => .error 8
    | some (k, b) =>
      match bankFault (s.ctx k b).bankSet (windowOff va) n with
      | some f => .error (subOf f)
      | none => .ok ((s.core k).spRead (windowOff va) n, (s.core k).spPoisoned (windowOff va) n)
  else if c.lost.contains (lineOf va) then .ok (List.replicate n 0, true)
  else
    match s.translate (s.viaCmd c) va .read with
    | .error f => .error (subOf f)
    | .ok x =>
      if x.dem then .ok (List.replicate n 0, false)
      else if x.v then
        let (d, p) := cmdVRead s c (lineOf x.pa)
        .ok ((d.drop (x.pa % 128)).take n, p)
      else .ok (s.plainBytes x.pa n, s.poisoned x.pa)

/-- The bytes of a list of pieces in order, and the address of the first poisoned one; or SUB and address of a fault. -/
def cmdReadAll (s : State) (c : Cmd) : List (Nat × Nat) → Except (Nat × Nat) (List Byte × Option Nat)
  | [] => .ok ([], none)
  | (va, n) :: t =>
    match cmdReadLine s c va n with
    | .error f => .error (f, va)
    | .ok (b, p) =>
      match cmdReadAll s c t with
      | .error e => .error e
      | .ok (bs, q) => .ok (b ++ bs, if p then some va else q)

/-- A read in which poison faults (R217, R321). -/
def cmdRead (s : State) (c : Cmd) (va n : Nat) : Except (Nat × Nat) (List Byte) :=
  match cmdReadAll s c (spanLines (va, n)) with
  | .error e => .error e
  | .ok (b, none) => .ok b
  | .ok (_, some a) => .error (5, a)

/-- How a step of a command ends. -/
inductive CStep where
  /-- it cannot be performed yet -/
  | hold
  /-- it cannot be performed yet, and its command waits at the head of its FIFO again (R219, R330) -/
  | again
  | done (s : State)
  /-- the command lost a conflict and has ended -/
  | gone (s : State)
  | fault (sub faddr : Nat)
  /-- the command is suspended before the step (R227): cause, DETAIL, address -/
  | susp (cause : Cause) (detail faddr : Nat)

/-- The terms under which a command writes V pages (R109, R118). -/
def Cmd.writer (c : Cmd) : Writer := { owner := .cmd c.id, snap := c.snap, polder := c.polder, node := c.group.region }

/-- A command writes bytes within one line. -/
def cmdWriteLine (s : State) (c : Cmd) (va : Nat) (data : List Byte) : CStep :=
  if inWindow va then
    match s.findOid c.oid with
    | none => .fault 8 va
    | some (k, b) =>
      match bankFault (s.ctx k b).bankSet (windowOff va) data.length with
      | some f => .fault (subOf f) va
      | none => .done (s.updCore k (fun co => (co.spWrite (windowOff va) data).spUnpoison (windowOff va) data.length))
  else
    let v := s.viaCmd c
    match s.translate v va .write with
    | .error f => .fault (subOf f) va
    | .ok x =>
      match s.withFrame v c.group.region va .write x with
      | .error (.quotaMem, d) => .susp .quotaMem d va
      | .error (f, _) => .fault (subOf f) va
      | .ok (s, x) =>
        let s := s.walked v va x
        if x.v then
          match s.vWrite c.writer (lineOf va) (lineOf x.pa) (x.pa % 128) data with
          | .done s => .done s
          | .wait _ => .hold
          | .aborted s => .gone s
          | .fault .quotaVer d => .susp .quotaVer d va
          | .fault f _ => .fault (subOf f) va
        else .done (s.plainWrite x.pa data)

/-- A command writes the pieces of a destination in order with the bytes given, from a state `s0` on. A piece that loses its conflict
ends the command on `s0`: the step has written nothing (R210). -/
def cmdWriteAll (s0 : State) (c : Cmd) : List (Nat × Nat) → List Byte → State → CStep
  | [], _, s => .done s
  | (va, n) :: t, data, s =>
    match cmdWriteLine s c va (data.take n) with
    | .done s => cmdWriteAll s0 c t (data.drop n) s
    | .gone _ => .gone (s0.abortWriter (.cmd c.id) va)
    | r => r

/-- A command writes bytes. -/
def cmdWrite (c : Cmd) (va : Nat) (data : List Byte) (s : State) : CStep := cmdWriteAll s c (spanLines (va, data.length)) data s

/-! Charges (R209, R339). -/

/-- The charges of one line. -/
def lineCharge (s : State) (c : Cmd) (write : Bool) (va : Nat) : List Charge :=
  if inWindow va then []
  else
    match s.translate (s.viaCmd c) va (if write then .write else .read) with
    | .error _ => []
    | .ok x =>
      let lg := leafBit x.leaf 6
      let pa := if x.dem then (takeFrame lg (Map.get [] s.frames (c.polder * 2))).getD 0 + va % frameBytes lg else x.pa
      if (x.dem && !write) || !inDram pa then []
      else { cls := clsDram, last := write, bytes := 128, srv := some (.dram (dramCtrl pa)) } ::
        (if dramTerp pa = terpOf c.core then [] else [{ cls := clsFab, bytes := 128, srv := some .fabric }])

/-- The charges of a step: the CPE's, those of its lines, and those of a flit (R329). -/
def stepCharges (s : State) (c : Cmd) (reads dests : List (Nat × Nat)) (flit : Option Nat) : List Charge :=
  [{ cls := clsCpe, bytes := 128 }]
  ++ (reads.flatMap spanLines).flatMap (fun p => lineCharge s c false p.1)
  ++ (dests.flatMap spanLines).flatMap (fun p => lineCharge s c true p.1)
  ++ (match flit with
      | some d => [{ cls := clsDlk, bytes := 128 }] ++ (if d / 4 = terpOf c.core then [] else [{ cls := clsFab, bytes := 128, srv := some .fabric }])
      | none => [])

/-! Markers (R120). -/

/-- The leading markers of a FIFO have reached its head. -/
def stripMarkers : List FifoE → List FifoE
  | .marker _ :: t => stripMarkers t
  | l => l

/-- An entry of an issue buffer is a marker. -/
def isMarker : IbOp → Bool
  | .marker _ => true
  | _ => false

/-- The issue buffer without the markers that have reached its head. -/
def stripIb : List IbEntry → List IbEntry
  | e :: t => if isMarker e.op then stripIb t else e :: t
  | [] => []

/-- A marker at the tail of an issue buffer, unless it stands at the head at once. -/
def markIb (id : Nat) (q : Seq) : Seq := if (stripIb q.ib).isEmpty then q else { q with ib := q.ib ++ [{ op := .marker id }] }

/-- A marker at the tail of every issue buffer of a context of the polder. -/
def markCtx (polder id : Nat) (c : Ctx) : Ctx :=
  if c.st ≠ .empty && decide (c.polder = polder) then streams.foldl (fun c st => c.updSeq st (markIb id)) c else c

/-- The marker step (R120): a marker at the tail of every command FIFO and every issue buffer of the polder. -/
def State.markerStep (s : State) (polder id : Nat) : State :=
  { s with
    clusters := s.clusters.map (fun e =>
      if s.holdsCluster polder e.1 then
        (e.1, { e.2 with cpe := { e.2.cpe with
          fifo := e.2.cpe.fifo.map (fun f => (f.1, if (stripMarkers f.2).isEmpty then f.2 else f.2 ++ [.marker id])) } })
      else e),
    cores := s.cores.map (fun e => (e.1, { e.2 with a := markCtx polder id e.2.a, b := markCtx polder id e.2.b })) }

/-- The marker has not reached the head of some issue buffer of a context. -/
def ctxMarked (id : Nat) (c : Ctx) : Bool :=
  streams.any (fun st => (stripIb (c.seq st).ib).any (fun e => decide (e.op = .marker id)))

/-- Every marker of a step has reached the head of its FIFO or buffer. -/
def State.markersDone (s : State) (id : Nat) : Bool :=
  !s.clusters.any (fun e => e.2.cpe.fifo.any (fun f => (stripMarkers f.2).contains (.marker id)))
  && !s.cores.any (fun e => ctxMarked id e.2.a || ctxMarked id e.2.b)

/-- An access of a command is held: by a move of its page, unless the command is ahead of the move's marker (R312), or by an
island between it and its memory (R351). -/
def cmdMoving (s : State) (c : Cmd) (va : Nat) : Bool :=
  let fifo := stripMarkers (Map.get [] (s.cluster (clusterOf c.core)).cpe.fifo (c.core % 4))
  !inWindow va && (s.moves.any (fun m =>
    m.2.covers c.polder va && decide (m.2.cmd ≠ some c.id) &&
    !fifo.contains (.marker m.1))
    || s.memoryStopped (clusterOf c.core) c.polder va)

/-- A range of bytes that a command reaches lies on a page that a move holds. -/
def rangeMoving (s : State) (c : Cmd) (r : Nat × Nat) : Bool := (spanLines r).any (fun p => cmdMoving s c p.1)

/-- A list of ranges reaches the scratchpad of a group whose image is saved: the access waits for the restore (R288). -/
def savedWindow (s : State) (c : Cmd) (l : List (Nat × Nat)) : Bool :=
  s.saved.any (fun v => v.ctx.oid == c.oid) && l.any (fun r => (spanLines r).any (fun p => inWindow p.1))

/-- The walks of a command's reads (R310). -/
def walkReads (c : Cmd) (l : List (Nat × Nat)) (s : State) : State :=
  walkAll (s.viaCmd c) .read (((l.flatMap spanLines).map (·.1)).filter (fun a => !inWindow a)) s

/-! Flits (R121, R327, R328). -/

/-- The port is UP and serves the polder. -/
def State.portServes (s : State) (d polder : Nat) : Bool :=
  decide ((s.port d).st = .up) && decide ((s.port d).pol.toNat = polder)

/-- A dike-link port takes cycles: its link island does (R20, R351). -/
def State.linkOn (s : State) (d : Nat) : Bool := decide (d < 16) && s.islandOn (linkIsland (d / 4)) && !s.inReset

/-- Sends a flit on a port: it enters the link buffer and takes one credit. -/
def State.sendFlit (s : State) (d : Nat) (f : OutFlit) : State :=
  s.updPort d (fun p => { p with out := p.out ++ [{ f with seq := p.seq }], seq := p.seq + 1, credit := p.credit - 1 })

/-! Suspension (R227). -/

/-- A command is suspended before a step: its pusher takes the trap. -/
def State.suspend (s : State) (id : Nat) (cause : Cause) (detail faddr : Nat) : State :=
  match Map.find s.cmds id with
  | none => s
  | some c => (s.deliver c.oid (cmdTrap c cause 0 faddr detail)).updCmd id (fun c => { c with susp := true })

/-- A command returns to the head of its FIFO, not started (R219, R330). -/
def State.requeue (s : State) (id : Nat) : State :=
  match Map.find s.cmds id with
  | none => s
  | some c =>
    let s := s.updCluster (clusterOf c.core) (fun cl =>
      { cl with cpe := { cl.cpe with
          run := cl.cpe.run.filter (· != id),
          fifo := Map.upd [] cl.cpe.fifo (c.core % 4) (fun l => .cmd id :: stripMarkers l) } })
    let s := s.leaveLine c.owner (.cmd id)
    s.updCmd id (fun c => { c with started := false, link := none })

/-- A request reaches the levee engine (R342). -/
def State.present (s : State) (r : LevReq) : State := { s with levQ := s.levQ ++ [r] }

end Sys2Proof.Machine
end

