-- ==== Sys2Proof/Machine/Cpe.lean ====
section
/-! DEFINITION. The copy engine: dequeue, the step of each command, and a command's end (R205 to R229, R299). -/

namespace Sys2Proof.Machine

/-- The copy engine takes cycles (R239, R351). -/
def State.cpeOn (s : State) (cl : Nat) : Bool :=
  decide (cl < 32) && s.islandOn (cpeIsland cl) && !(s.cluster cl).cpe.frozen && !s.inReset

/-! Link remap entries (R330). -/

/-- The address of an entry of the link remap table. -/
def State.lrtEntry (s : State) (i : Nat) : Nat := s.lrtbase.toNat + 32 * i
/-- SWITCH of an entry. -/
def State.lrtSwitch (s : State) (i : Nat) : Bool := (s.readLE (s.lrtEntry i) 8).testBit 61
/-- REMAP of a signal. -/
def Cmd.remapField (c : Cmd) : Nat := c.hdr 49 34
/-- A linked signal whose entry is being switched (R330). -/
def Cmd.switchHolds (s : State) (c : Cmd) : Bool := decide (c.opc = 10) && decide (c.hdr 33 33 = 1) && s.lrtSwitch c.remapField

/-! The culvert that a command names (R219). -/

/-- Core and bank of the logical core of a culvert command, or the SUB of the fault. -/
def culvertAt (s : State) (c : Cmd) : Except Nat (Nat × Bool) :=
  match Map.find (s.region c.group.region).remap (c.hdr 47 32) with
  | none => .error 8
  | some v =>
    let k := v / 2
    let x := s.ctx k (decide (v % 2 = 1))
    let here := match s.findOid c.oid with
      | some (k, _) => clusterOf k
      | none => clusterOf c.core
    if clusterOf k ≠ here || decide (x.culs.getD (c.hdr 49 48) 0 = 0) || decide (x.culs.getD (c.hdr 49 48) 0 < c.w 3) then .error 9
    else .ok (k, decide (v % 2 = 1))

/-- The culvert has the credit that a command asks for. -/
def culvertRoom (s : State) (c : Cmd) (k : Nat) : Bool :=
  let cv : Culvert := Map.get {} (s.core k).cul (c.hdr 49 48)
  decide (cv.entries.length + c.w 3 ≤ cv.size)

/-- A culvert command waits at the head of its FIFO for credit. -/
def culvertWaits (s : State) (c : Cmd) : Bool :=
  decide (c.opc = 9) && cmdOk c && decide (c.hdr 50 50 = 0) && match culvertAt s c with
    | .ok (k, _) => !culvertRoom s c k
    | .error _ => false

/-! Dequeue (R208, R209). -/

/-- Some earlier command of the FIFO has not ended. -/
def earlierRuns (s : State) (c : Cmd) : Bool := s.cmds.any (fun e => decide (e.2.core = c.core) && decide (e.1 < c.id))

/-- The command starts only after every earlier command of its FIFO has ended. -/
def Cmd.inOrder (c : Cmd) : Bool := c.ord || [10, 13, 14].contains c.opc

/-- What a command reads as it starts: the curve table of owner (R225). -/
def startReads (c : Cmd) : List (Nat × Nat) := if c.opc = 15 && cmdOk c then [(c.w 1, 16 * (c.hdr 45 42 + 1))] else []

/-- The terp of a command's group. -/
def terpOfCmd (s : State) (c : Cmd) : Nat :=
  match s.findOid c.oid with
  | some (k, _) => terpOf k
  | none => terpOf c.core

/-- What a launch command asks the front end of its terp for (R224, R276). -/
def launchOf (s : State) (c : Cmd) : LaunchReq :=
  { polder := c.polder, owner := c.owner, tier := c.tier, rcb := c.w 1, arg := .ofNat 64 (c.w 2), ng := c.w 3, device := true,
    terp := terpOfCmd s c }

/-- A command that acts through the front end of its terp waits while that takes no cycles, and a launch while its accesses are held
(R224, R225, R312, R351). -/
def frontWaits (s : State) (c : Cmd) : Bool :=
  (decide (c.opc = 14) || decide (c.opc = 15)) && cmdOk c
    && (!s.islandOn (frontIsland (terpOfCmd s c)) || (decide (c.opc = 14) && s.launchHeld (launchOf s c)))

/-- The core of a command's group is in an island that takes no cycles: what crosses to it waits (R351, R355). -/
def coreOff (s : State) (c : Cmd) : Bool :=
  match s.findOid c.oid with
  | some (k, _) => !s.islandOn (coreIsland k)
  | none => false

/-- A copy samples the formats of two banks as it starts (R88). -/
def Cmd.samples (c : Cmd) : Bool := [1, 2, 3].contains c.opc && inWindow (c.w 1) && inWindow (c.w 2)

/-- The head command of a FIFO may start. -/
def startable (s : State) (c : Cmd) : Bool :=
  !(c.inOrder && earlierRuns s c) && !c.switchHolds s && !culvertWaits s c && !frontWaits s c
    && !(c.samples && coreOff s c)
    && !savedWindow s c (startReads c) && !(startReads c).any (rangeMoving s c)

/-- The head commands of the FIFOs of a copy engine that may start, in the cyclic order after the core served last. -/
def candidates (s : State) (cl : Nat) : List Cmd :=
  let e := (s.cluster cl).cpe
  (List.range 4).filterMap (fun i =>
    match (stripMarkers (Map.get [] e.fifo ((e.last + 1 + i) % 4))).head? with
    | some (.cmd id) => match Map.find s.cmds id with
      | some c => if startable s c then some c else none
      | none => none
    | _ => none)

/-- The first of the commands with the lowest tier number. -/
def pickTier : List Cmd → Option Cmd
  | [] => none
  | c :: t => match pickTier t with
    | some d => if d.tier < c.tier then some d else some c
    | none => some c

/-- Destination bytes of the whole command (R211). -/
def Cmd.total (c : Cmd) : Nat :=
  match c.opc with
  | 1 => c.rowBytes (c.w 3)
  | 2 => c.rowBytes (bitsOf (c.w 3) 23 0) * bitsOf (c.w 3) 43 24
  | 3 => c.rowBytes (bitsOf (c.w 3) 23 0) * bitsOf (c.w 3) 43 24 * bitsOf (c.w 3) 63 44
  | 4 | 5 => c.es * c.cnt32
  | 6 => c.accSize * c.w 3
  | 7 | 8 => c.w 3
  | 9 => 64 * c.w 3
  | 10 => 8
  | _ => 0

/-- The BFMT of the bank that a window address lies in, in the pushing group's core or image. The model's choice: the value at the
dequeue (notes/assumptions/106.md). -/
def bankFmt (s : State) (c : Cmd) (va : Nat) : Nat :=
  let m := match s.findOid c.oid with
    | some (k, _) => (s.core k).bfmt
    | none => match s.saved.find? (fun v => v.ctx.oid == c.oid) with
      | some v => v.bfmt
      | none => []
  (Map.get 15 m (windowOff va / 32768)).toNat

/-- The formats sampled at dequeue: raw unless a copy runs between two scratchpad banks (R88). -/
def sampleFmt (s : State) (c : Cmd) : Nat × Nat :=
  if c.samples then (bankFmt s c (c.w 1), bankFmt s c (c.w 2)) else (15, 15)

/-- A converting copy's byte count is not a whole number of source elements (R88). -/
def badCopy (c : Cmd) : Bool :=
  c.converts && decide ((if c.opc = 1 then c.w 3 else bitsOf (c.w 3) 23 0) * 8 % tyBits (fmtTy c.fmt.1) ≠ 0)

/-- The command's fields after a step, and its end after the last one. -/
def State.stepped (s : State) (id : Nat) (last : Bool) (f : Cmd → Cmd) : State :=
  s.updCmd id (fun c => let c := { f c with lost := [] }; if last then { c with ending := .stepped } else c)

/-- The start of a linked signal: its entry of the link remap table is read (R330). -/
def startSignal (c : Cmd) (s : State) : State :=
  let e := s.lrtEntry c.remapField
  let w0 := s.readLE e 8
  let w1 := s.readLE (e + 8) 8
  let sa := c.w 2
  if !w0.testBit 60 || decide (bitsOf w1 43 40 ≠ c.polder) || decide (sa % 8 ≠ 0) || decide (bitsOf w1 39 0 < sa + 8) then
    s.faultCmd c.id 10 sa
  else s.updCmd c.id (fun x => { x with link := some (bitsOf w0 59 56, bitsOf w0 55 0 + sa) })

/-- The start of inval: the marker step, and the TLB entries of its pages are dropped (R120, R223). -/
def startInval (c : Cmd) (s : State) : State :=
  if !(s.readLE (c.group.region + 1) 1).testBit 1 then s.faultCmd c.id 11 (c.w 2)
  else
    let id := s.nextId
    let old := s.tlb.filter (fun e => tlbCovers c.polder (c.w 2) (c.w 3) e.1)
    let s := { s with nextId := id + 1, invals := Map.put s.invals id { cmd := some c.id, old := old } }
    ((s.markerStep c.polder id).dropTlb c.polder (c.w 2) (c.w 3)).updCmd c.id (fun x => { x with wait := some id })

/-- The start of launch: the front end accepts the region or refuses it (R224, R274, R276). -/
def startLaunch (c : Cmd) (s : State) : State :=
  match s.launch (launchOf s c) with
  | .error sub => s.faultCmd c.id sub (c.w 1)
  | .ok (_, s) => s.stepped c.id true id

/-- An entry of a curve table: a step of a path, or none where it is malformed (R225). -/
def curveAt (b : List Byte) (i : Nat) : Option PStep :=
  let e := b.drop (16 * i)
  let sigma := leOf ((e.drop 8).take 8)
  if decide (4 < leOf (e.take 1)) || decide (leOf ((e.drop 1).take 3) ≠ 0) || decide (2 ^ 48 ≤ sigma) then none
  else some { cls := leOf (e.take 1), sigma := sigma, rho := leOf ((e.drop 4).take 4) }

/-- The first fault of RESULT as a destination in plain pages: SUB and address (R225). -/
def resultFault (s : State) (c : Cmd) : Option (Nat × Nat) :=
  (spanLines (c.w 2, 288)).findSome? (fun p =>
    if inWindow p.1 then some (2, p.1)
    else match s.translate (s.viaCmd c) p.1 .write with
      | .error f => some (subOf f, p.1)
      | .ok x => if x.v then some (4, p.1) else none)

/-- The start of owner: the curve table is read, RESULT is checked, and the declaration reaches the levee engine (R225). -/
def startOwner (c : Cmd) (s : State) : State :=
  let n := c.hdr 45 42 + 1
  let s := walkReads c [(c.w 1, 16 * n)] s
  match cmdRead s c (c.w 1) (16 * n) with
  | .error f => s.faultCmd c.id f.1 f.2
  | .ok b =>
    let path := (List.range n).filterMap (curveAt b)
    if path.length ≠ n then s.faultCmd c.id 1 (c.w 1)
    else
      match resultFault s c with
      | some f => s.faultCmd c.id f.1 f.2
      | none =>
        (s.present (.declare c.id (c.hdr 41 32) c.polder path (c.w 3))).updCmd c.id (fun x => { x with wait := some c.id })

/-- What a command does as it starts, beyond its checks. -/
def State.startAct (s : State) (c : Cmd) : State :=
  match c.opc with
  | 10 => if c.hdr 33 33 = 1 then startSignal c s else s
  | 13 => startInval c s
  | 14 => startLaunch c s
  | 15 => startOwner c s
  | _ => s

/-- The checks at the start of a command (R206, R208, R88), and what it does as it starts. -/
def State.startCmd (s : State) (id : Nat) : State :=
  match Map.find s.cmds id with
  | none => s
  | some c =>
    if !cmdOk c then s.faultCmd id 1 0
    else
      match (if c.cw then s.cwAddr c else .ok { pa := 0, leaf := 0, leafAt := 0 }) with
      | .error f => s.faultCmd id (subOf f) (c.w 7)
      | .ok _ =>
        let s := if c.cw then walkAll (s.viaCmd c) .write [c.w 7] s else s
        let c := { c with fmt := sampleFmt s c }
        if badCopy c then s.faultCmd id 7 0
        else (s.updCmd id (fun x => { x with fmt := c.fmt, bytes := c.total })).startAct c

/-- CPE_DEQUEUE: the copy engine takes the next command, which starts in the same step (R208, R209). -/
def execCpeDequeue (cl : Nat) (s : State) : Host.Outcome State Fault Refusal :=
  let e := (s.cluster cl).cpe
  .next (
    if !s.cpeOn cl || decide (16 ≤ e.run.length) || !gapPassed (s.islandTime (cpeIsland cl)) e.lastDeq (s.cluster cl).paceC.gap then s
    else
      match pickTier (candidates s cl) with
      | none => s
      | some c =>
        let s := s.bump.updCluster cl (fun x =>
          { x with cpe := { x.cpe with
              run := x.cpe.run ++ [c.id], last := c.core % 4, lastDeq := some (s.islandTime (cpeIsland cl)),
              fifo := Map.upd [] x.cpe.fifo (c.core % 4) (fun l => (stripMarkers l).drop 1) } })
        (s.updCmd c.id (fun x => { x with started := true })).startCmd c.id)

/-! The steps. -/

/-- What a step reads, writes and sends, for its charges, and what it does. -/
structure StepIO where
  reads : List (Nat × Nat) := []
  dests : List (Nat × Nat) := []
  flit : Option Nat := none
  /-- the step moves no bytes and pays nothing (R209) -/
  free : Bool := false
  act : State → CStep

/-- A step that only faults. -/
def faultIO (sub faddr : Nat) : StepIO := { act := fun _ => .fault sub faddr }

/-- Continues a step that has written. -/
def CStep.andThen (r : CStep) (f : State → State) : CStep :=
  match r with
  | .done s => .done (f s)
  | r => r

/-- The row shape of a copy: row bytes, rows, planes, and the strides of source and destination (R213). -/
def Cmd.shape (c : Cmd) : Nat × Nat × Nat × Int × Int × Int × Int :=
  let rb := if c.opc = 1 then c.w 3 else bitsOf (c.w 3) 23 0
  let nr := if c.opc = 1 then 1 else bitsOf (c.w 3) 43 24
  let np := if c.opc = 3 then bitsOf (c.w 3) 63 44 else 1
  (rb, nr, np, signed (c.w 4) 32, signed (c.w 4 / 2 ^ 32) 32, signed (c.w 5) 32, signed (c.w 5 / 2 ^ 32) 32)

/-- A step of copy1, copy2 and copy3: one destination line (R213). -/
def planCopy (c : Cmd) : StepIO :=
  let (rb, nr, np, srs, drs, sps, dps) := c.shape
  let row := c.rowBytes rb
  let si : Int := (c.w 1 : Int) + (c.cur / nr : Nat) * sps + (c.cur % nr : Nat) * srs
  let di : Int := (c.w 2 : Int) + (c.cur / nr : Nat) * dps + (c.cur % nr : Nat) * drs
  if si < 0 ∨ (2 ^ 56 : Nat) ≤ si then faultIO 2 (wrapNat si 64)
  else if di < 0 ∨ (2 ^ 56 : Nat) ≤ di then faultIO 2 (wrapNat di 64)
  else
    let d := di.toNat + c.off
    let n := min (128 - d % 128) (row - c.off)
    let r := c.srcRange rb c.off n
    { reads := [(si.toNat + r.1, r.2)], dests := [(d, n)],
      act := fun s =>
        match cmdRead s c (si.toNat + r.1) r.2 with
        | .error e => .fault e.1 e.2
        | .ok b =>
          let (data, ns) := c.rowData rb c.off n b
          let rowEnd := decide (row ≤ c.off + n)
          (cmdWrite c d data s).andThen (fun s =>
            s.stepped c.id (rowEnd && decide (nr * np ≤ c.cur + 1)) (fun c =>
              { c with cur := if rowEnd then c.cur + 1 else c.cur, off := if rowEnd then 0 else c.off + n, done := c.done + n,
                       nstat := c.nstat ||| ns })) }

/-- A step of fill (R214). -/
def planFill (c : Cmd) : StepIO :=
  let d := c.w 2 + c.off
  let n := min (128 - d % 128) (c.w 3 - c.off)
  { dests := [(d, n)],
    act := fun s =>
      (cmdWrite c d ((List.range n).map (fun i => .ofNat 8 (bitsOf (c.w 1) (8 * ((c.off + i) % 8) + 7) (8 * ((c.off + i) % 8))))) s).andThen
        (fun s => s.stepped c.id (decide (c.w 3 ≤ c.off + n)) (fun c => { c with off := c.off + n, done := c.done + n })) }

/-- The delivery of an element to an operand queue (R216): it waits for room, and an element of a gather that L pushed is
discarded after L has left the loop of its push word, or has left under the abort line (R146). -/
def deliverQ (c : Cmd) (data : List Byte) (s : State) : CStep :=
  match s.findOid c.oid with
  | none => .fault 8 (c.w 1)
  | some (k, b) =>
    let x := s.ctx k b
    let qn := c.hdr 36 34
    if decide (c.st = .l) && x.leftBy c.tag then .done s
    else if 8 ≤ (Map.get [] x.q qn).length then .hold
    else .done (s.updCtx k b (fun x =>
      { x with q := Map.put x.q qn (Map.get [] x.q qn ++ [{ data := .ofNat 512 (leOf data), tag := c.tag, cmd := some c.id, st := c.st }]) }))

/-- ZCNT of the polder table advances (R217, R347). -/
def State.countZero (s : State) (polder : Nat) : State := s.writeLE (s.ptAddr polder + 48) 8 (s.ptField polder 48 8 + 1)

/-- The part of the current element that the next step moves: all of it, or up to the end of a destination line when its
source crosses a page (R215). -/
def elemPart (c : Cmd) (src dst : Nat) : Nat :=
  if src / 65536 = (src + c.es - 1) / 65536 then c.es else min (128 - (dst + c.off) % 128) (c.es - c.off)

/-- The fields after a part of the element at an address, of gather or scatter. -/
def afterPart (c : Cmd) (a n : Nat) (x : Cmd) : Cmd :=
  let ends := decide (c.es ≤ c.off + n)
  { x with cur := if ends then x.cur + 1 else x.cur, off := if ends then 0 else x.off + n, done := x.done + n,
           zeroed := !ends && x.zeroed, elemAt := if ends then none else some a }

/-- The command's last part has been moved. -/
def lastPart (c : Cmd) (n : Nat) : Bool := decide (c.es ≤ c.off + n) && decide (c.cnt32 ≤ c.cur + 1)

/-- A step of gather from its element's source address (R215 to R217). -/
def gatherStep (c : Cmd) (idx : Nat × Nat) (src : Nat) : StepIO :=
  let dq := c.hdr 33 33 = 1
  let dst := c.w 2 + c.cur * c.es
  let n := if dq then 64 else elemPart c src dst
  { reads := (if c.elemAt.isNone then [idx] else []) ++ [(src + c.off, n)], dests := if dq then [] else [(dst + c.off, n)],
    act := fun s =>
      match cmdReadAll s c (spanLines (src + c.off, n)) with
      | .error e => .fault e.1 e.2
      | .ok (b, p) =>
        match p, decide (c.hdr 8 8 = 1) with
        | some a, false => .fault 5 a
        | _, _ =>
          let data := if p.isSome then List.replicate n 0 else b
          (if dq then deliverQ c data s else cmdWrite c (dst + c.off) data s).andThen (fun s =>
            let fresh := p.isSome && !c.zeroed
            let s := if fresh then s.countZero c.polder else s
            s.stepped c.id (lastPart c n) (fun x =>
              afterPart c src n { x with zcnt := if fresh then x.zcnt + 1 else x.zcnt, zeroed := x.zeroed || fresh })) }

/-- A step of scatter to its element's destination address (R215). -/
def scatterStep (c : Cmd) (idx : Nat × Nat) (dst : Nat) : StepIO :=
  let src := c.w 1 + c.cur * c.es
  let n := elemPart c src dst
  { reads := (if c.elemAt.isNone then [idx] else []) ++ [(src + c.off, n)], dests := [(dst + c.off, n)],
    act := fun s =>
      match cmdRead s c (src + c.off) n with
      | .error e => .fault e.1 e.2
      | .ok b => (cmdWrite c (dst + c.off) b s).andThen (fun s => s.stepped c.id (lastPart c n) (afterPart c dst n)) }

/-- A step of gather or scatter: the index of the element is read once, before its first part (R215). -/
def planIndexed (s : State) (c : Cmd) : StepIO :=
  let iw := if c.hdr 32 32 = 1 then 8 else 4
  let idx := (c.w 4 + c.cur * iw, iw)
  let go (a : Nat) : StepIO := if c.opc = 4 then gatherStep c idx a else scatterStep c idx a
  match c.elemAt with
  | some a => go a
  | none =>
  match cmdRead s c idx.1 idx.2 with
  | .error e => { faultIO e.1 e.2 with reads := [idx] }
  | .ok b =>
    let a := (if c.opc = 4 then c.w 1 else c.w 2) + leOf b * c.w 5
    if 2 ^ 56 ≤ a then { faultIO 2 (a % 2 ^ 64) with reads := [idx] }
    else go a

/-- The new value of accum and its NSTAT bits (R218). -/
def accOp (c : Cmd) (old s cmp : Nat) : Nat × BitVec 32 :=
  let b := 8 * c.accSize
  if c.hdr 37 36 = 2 then
    let r := exAdd .rne (decodeF .f old) (decodeF .f s)
    (arith .f .rne r.1, if r.2 then nNv else 0)
  else
    let v := match c.hdr 35 32 with
      | 0 => (old + s) % 2 ^ b
      | 1 => if signed old b < signed s b then old else s
      | 2 => if signed old b < signed s b then s else old
      | 3 => min old s
      | 4 => max old s
      | 5 => old &&& s
      | 6 => old ||| s
      | 7 => old ^^^ s
      | 8 => s
      | _ => if old = cmp then s else old
    (v, 0)

/-- A step of accum: an element's read, operation and write, or the later write of its old value at RET (R218). -/
def planAccum (c : Cmd) : StepIO :=
  let e := c.accSize
  let src := c.w 1 + c.cur * e
  let dst := c.w 2 + c.cur * e
  let cmp := c.w 5 + c.cur * e
  let last := decide (c.w 3 ≤ c.cur + 1)
  match c.hold with
  | some v =>
    { dests := [(c.w 4 + c.cur * e, e)],
      act := fun s => (cmdWrite c (c.w 4 + c.cur * e) (leBytes e v) s).andThen (fun s =>
        s.stepped c.id last (fun x => { x with cur := x.cur + 1, hold := none })) }
  | none =>
    let cx := c.hdr 35 32 = 9
    { reads := [(src, e), (dst, e)] ++ (if cx then [(cmp, e)] else []), dests := [(dst, e)],
      act := fun s =>
        match cmdRead s c src e, cmdRead s c dst e, (if cx then cmdRead s c cmp e else .ok []) with
        | .error f, _, _ | .ok _, .error f, _ | .ok _, .ok _, .error f => .fault f.1 f.2
        | .ok a, .ok o, .ok m =>
          let r := accOp c (leOf o) (leOf a) (leOf m)
          (cmdWrite c dst (leBytes e r.1) s).andThen (fun s =>
            let ret := decide (c.w 4 ≠ 0)
            s.stepped c.id (last && !ret) (fun x =>
              { x with cur := if ret then x.cur else x.cur + 1, hold := if ret then some (leOf o) else none,
                       done := x.done + e, nstat := x.nstat ||| r.2 })) }

/-- Entries of 64 bytes. -/
def chunks64 : Nat → List Byte → List (List Byte)
  | 0, _ => []
  | n + 1, b => b.take 64 :: chunks64 n (b.drop 64)

/-- The step of culvert (R219, R302). Where another append has taken the credit since its start, the command waits at the head of
its FIFO again; such a step and one that a full culvert refuses move no bytes (R209). -/
def planCulvert (s : State) (c : Cmd) : StepIO :=
  let full := match culvertAt s c with
    | .ok (k, _) => !culvertRoom s c k
    | .error _ => false
  { reads := if full then [] else [(c.w 1, 64 * c.w 3)], free := full,
    act := fun s =>
      match culvertAt s c with
      | .error f => .fault f (c.w 1)
      | .ok (k, _) =>
        if !culvertRoom s c k then
          if c.hdr 50 50 = 1 then .done (s.stepped c.id true (fun x => { x with status := 2, bytes := 0 })) else .again
        else
          match cmdRead s c (c.w 1) (64 * c.w 3) with
          | .error f => .fault f.1 f.2
          | .ok b =>
            .done ((s.updCore k (fun co =>
              { co with cul := Map.upd {} co.cul (c.hdr 49 48) (fun cv => { cv with entries := cv.entries ++ chunks64 (c.w 3) b }) })).stepped
                c.id true (fun x => { x with done := 64 * c.w 3 })) }

/-- A flit of a command on a port: it faults where the port does not serve the polder, and waits for credit (R327, R328). -/
def sendStep (c : Cmd) (port : Nat) (f : OutFlit) (last : Bool) (after : Cmd → Cmd) (s : State) : CStep :=
  if !s.portServes port c.polder then .fault 10 f.addr
  else if !s.linkOn port || !s.crossOn (terpOf c.core) (port / 4) || decide ((s.port port).credit = 0) then .hold
  else
    .done ((s.sendFlit port { f with cmd := some c.id }).stepped c.id last (fun x => after { x with unacked := x.unacked + 1 }))

/-- The step of signal: a local word, or a flit through the link remap table (R220, R330). Where its entry has come into a
switch since its start, the command waits at the head of its FIFO again. -/
def planSignal (s : State) (c : Cmd) : StepIO :=
  let add := c.hdr 32 32 = 1
  if c.hdr 33 33 = 1 then
    match c.link with
    | none => { act := fun _ => .hold }
    | some (port, dst) =>
      if c.switchHolds s then { act := fun _ => .again }
      else
        { flit := some port,
          act := sendStep c port { seq := 0, kind := 3, addr := dst, data := leBytes 8 (c.w 1), rt := if add then 1 else 0 }
            true (fun x => { x with done := 8 }) }
  else
    { reads := if add then [(c.w 2, 8)] else [], dests := [(c.w 2, 8)],
      act := fun s =>
        match (if add then cmdRead s c (c.w 2) 8 else .ok []) with
        | .error f => .fault f.1 f.2
        | .ok o => (cmdWrite c (c.w 2) (leBytes 8 (leOf o + c.w 1)) s).andThen (fun s =>
            s.stepped c.id true (fun x => { x with done := 8 })) }

/-- A step of coll: one destination line, whole elements of a reduction, or at last the add at RSIG (R221). -/
def planColl (c : Cmd) : StepIO :=
  let port := c.hdr 35 32
  let red := c.hdr 36 36 = 1
  let rest := c.w 3 - c.off
  if rest = 0 then
    { flit := some port,
      act := sendStep c port { seq := 0, kind := 3, addr := c.w 4, data := leBytes 8 (c.w 5), rt := 1 } true id }
  else
    let d := c.w 2 + c.off
    let m := min (128 - d % 128) rest
    let n := if red && decide (m < rest) then max c.redSize (m / c.redSize * c.redSize) else m
    { reads := [(c.w 1 + c.off, n)], flit := some port,
      act := fun s =>
        if !s.portServes port c.polder then .fault 10 d
        else match cmdRead s c (c.w 1 + c.off) n with
          | .error f => .fault f.1 f.2
          | .ok b =>
            sendStep c port { seq := 0, kind := if red then 2 else 1, addr := d, data := b, mask := 2 ^ n - 1,
                              rt := if red then c.hdr 38 37 else 0 }
              (decide (n = rest) && decide (c.w 4 = 0)) (fun x => { x with off := x.off + n, done := x.done + n }) s }

/-- A page that a t2pf or migrate leaves as it is: the next page, or the end. -/
def skipPage (c : Cmd) (pages : Nat) (s : State) : CStep :=
  .done (s.stepped c.id (decide (pages ≤ c.cur + 1)) (fun x => { x with cur := x.cur + 1 }))

/-- The start of a page's move (R312): the marker step is performed, and the command waits for the move. -/
def startMove (c : Cmd) (va : Nat) (toT2 lg : Bool) (s : State) : CStep :=
  let m : Move := { polder := c.polder, va := va / frameBytes lg * frameBytes lg, toT2 := toT2, cmd := some c.id, lg := lg }
  if s.moves.any (fun e => e.2.covers c.polder va || m.covers e.2.polder e.2.va) then .hold
  else if (takeFrame lg (Map.get [] s.frames (c.polder * 2 + (if toT2 then 1 else 0)))).isNone then
    .susp .quotaMem (if toT2 then 0 else 0x81) va
  else
    let id := s.nextId
    let s := { s with nextId := id + 1, moves := Map.put s.moves id m }
    .done ((s.markerStep c.polder id).updCmd c.id (fun x => { x with wait := some id }))

/-- A page of t2pf or migrate: an absent page, the scratchpad window's among them (R133, R206), faults; one whose frame already lies
where it should, or that has no frame, is left as it is. -/
def movePage (c : Cmd) (va : Nat) (toT2 : Bool) (pages : Nat) (s : State) : CStep :=
  if inWindow va then .fault 2 va else
  match s.leafAddr c.polder va with
  | none => .fault 2 va
  | some la =>
    let l := s.readLE la 8
    if !leafOk s l then .fault 2 va
    else if leafPolder l ≠ c.polder then .fault 3 va
    else if toT2 && !leafBit l 5 then .fault 12 va
    else if leafBit l 1 || decide (inDram (leafPa l va) = !toT2) then skipPage c pages s
    else startMove c va toT2 (leafBit l 6) s

/-- A step of t2pf or migrate (R222). -/
def planMove (c : Cmd) : StepIO :=
  let va := (c.w 2 / 65536 + c.cur) * 65536
  let pages := if c.opc = 11 then (c.w 2 + c.w 3 - 1) / 65536 - c.w 2 / 65536 + 1 else c.w 3
  { free := true, act := movePage c va (decide (c.opc = 12) && decide (c.hdr 32 32 = 1)) pages }

/-- The write of an owner command's verdict record, where it was held up (R225, R227, R343). -/
def planVerdict (c : Cmd) : StepIO :=
  { dests := [(c.w 2, c.record.length)], free := true,
    act := fun s =>
      if c.record.isEmpty then .hold
      else match cmdWrite c (c.w 2) c.record s with
        | .done s => .done (s.updCmd c.id (fun x => { x with record := [], ending := .stepped }))
        | r => r }

/-- The next step of a command. inval and launch have none: they act as they start. -/
def stepPlan (s : State) (c : Cmd) : StepIO :=
  match c.opc with
  | 1 | 2 | 3 => planCopy c
  | 4 | 5 => planIndexed s c
  | 6 => planAccum c
  | 7 => planFill c
  | 8 => planColl c
  | 9 => planCulvert s c
  | 10 => planSignal s c
  | 11 | 12 => planMove c
  | 15 => planVerdict c
  | _ => { act := fun _ => .hold }

/-- A step that reaches the scratchpad of a group whose image is saved, or delivers to its queues, is held until the restore
(R288). -/
def heldForImage (s : State) (c : Cmd) (io : StepIO) : Bool :=
  savedWindow s c (io.reads ++ io.dests)
  || (s.saved.any (fun v => v.ctx.oid == c.oid) && decide (c.opc = 4 ∧ c.hdr 33 33 = 1))

/-- A core whose scratchpad, queues or culvert a step reaches is in an island that takes no cycles: the step waits (R351, R355). -/
def coreStops (s : State) (c : Cmd) (io : StepIO) : Bool :=
  (coreOff s c && (decide (c.opc = 4 ∧ c.hdr 33 33 = 1) || ((io.reads ++ io.dests).flatMap spanLines).any (fun p => inWindow p.1)))
  || (decide (c.opc = 9) && match culvertAt s c with
      | .ok (k, _) => !s.islandOn (coreIsland k)
      | .error _ => false)

/-- The outcome of a step on the state that has paid for it. -/
def State.settleStep (s : State) (id : Nat) (r : CStep) : State :=
  match r with
  | .hold => s
  | .again => s.requeue id
  | .done t => t.settleAborts
  | .gone t => t.settleAborts
  | .fault sub faddr => s.faultCmd id sub faddr
  | .susp cause d faddr => s.suspend id cause d faddr

/-- What was held of a command for an image has been applied: its context waits for it no longer (R288). -/
def State.applied (s : State) (oid id : Nat) : State :=
  match s.findOid oid with
  | none => s
  | some (k, b) =>
    if (s.ctx k b).restoring.isEmpty then s else s.updCtx k b (fun c => { c with restoring := c.restoring.filter (· != id) })

/-- A started command performs its next step (R209, R210): it pays, or it waits at the sluices. -/
def State.runStep (s : State) (cl id : Nat) : State :=
  match Map.find s.cmds id with
  | none => s
  | some c =>
    if !s.cpeOn cl || !(s.cluster cl).cpe.run.contains id then s
    else if c.killed then s.removeCmd id
    else if c.susp || decide (c.ending ≠ .running) || c.wait.isSome then s
    else
      let s := s.bump
      let io := stepPlan s c
      if heldForImage s c io || coreStops s c io || (io.reads ++ io.dests).any (rangeMoving s c) then s
      else
        let cs := if io.free then [] else stepCharges s c io.reads io.dests io.flit
        if !s.canPay c.owner (.cmd id) cs then s.waitAtSluice c.owner (.cmd id) cs
        else (s.settleStep id (io.act (walkReads c io.reads (s.pay c.owner (.cmd id) cs)))).applied c.oid id

/-- The start of a command of a kind that acts as it starts, when it is the one that its engine takes next (R208, R223 to
R225). -/
def kindStart (opc cl id : Nat) (s : State) : Host.Outcome State Fault Refusal :=
  match pickTier (candidates s cl) with
  | some c => if c.id = id && decide (c.opc = opc) then execCpeDequeue cl s else .next s
  | none => .next s

/-- A step of a command if it is of a kind. -/
def kindStep (opc cl id : Nat) (s : State) : Host.Outcome State Fault Refusal :=
  .next (match Map.find s.cmds id with
    | some c => if c.opc = opc then s.runStep cl id else s
    | none => s)

/-- CPE_STEP: a started command performs its next step. -/
def execCpeStep (cl id : Nat) (s : State) : Host.Outcome State Fault Refusal := .next (s.runStep cl id)
/-- COPY1. -/
def execCopy1 (cl id : Nat) (s : State) : Host.Outcome State Fault Refusal := kindStep 1 cl id s
/-- COPY2. -/
def execCopy2 (cl id : Nat) (s : State) : Host.Outcome State Fault Refusal := kindStep 2 cl id s
/-- COPY3. -/
def execCopy3 (cl id : Nat) (s : State) : Host.Outcome State Fault Refusal := kindStep 3 cl id s
/-- GATHER. -/
def execGather (cl id : Nat) (s : State) : Host.Outcome State Fault Refusal := kindStep 4 cl id s
/-- SCATTER. -/
def execScatter (cl id : Nat) (s : State) : Host.Outcome State Fault Refusal := kindStep 5 cl id s
/-- ACCUM. -/
def execAccum (cl id : Nat) (s : State) : Host.Outcome State Fault Refusal := kindStep 6 cl id s
/-- FILL. -/
def execFill (cl id : Nat) (s : State) : Host.Outcome State Fault Refusal := kindStep 7 cl id s
/-- COLL. -/
def execColl (cl id : Nat) (s : State) : Host.Outcome State Fault Refusal := kindStep 8 cl id s
/-- CULVERT. -/
def execCulvert (cl id : Nat) (s : State) : Host.Outcome State Fault Refusal := kindStep 9 cl id s
/-- SIGNAL. -/
def execSignal (cl id : Nat) (s : State) : Host.Outcome State Fault Refusal := kindStep 10 cl id s
/-- T2PF. -/
def execT2pf (cl id : Nat) (s : State) : Host.Outcome State Fault Refusal := kindStep 11 cl id s
/-- MIGRATE. -/
def execMigrate (cl id : Nat) (s : State) : Host.Outcome State Fault Refusal := kindStep 12 cl id s
/-- INVAL. -/
def execInval (cl id : Nat) (s : State) : Host.Outcome State Fault Refusal := kindStart 13 cl id s
/-- LAUNCH. -/
def execLaunch (cl id : Nat) (s : State) : Host.Outcome State Fault Refusal := kindStart 14 cl id s
/-- OWNER. -/
def execOwner (cl id : Nat) (s : State) : Host.Outcome State Fault Refusal := kindStart 15 cl id s

/-! The end of a command (R211, R212, R299). -/

/-- A held arrival takes its place in the order of the commands' completions, which is that of their commit steps (R211, R299). -/
def byCommit (s : State) (tc id : Nat) : List Nat → List Nat
  | [] => [id]
  | j :: t => if (match Map.find s.cmds j with
      | some d => decide (d.tc ≤ tc)
      | none => true) then j :: byCommit s tc id t else id :: j :: t

/-- A copy's arrival at its barrier: in the current phase, held for the next, or refused (R299). -/
def State.arrive (s : State) (c : Cmd) : State :=
  let va := c.w 6
  if inWindow va then s.refuseArrival c.id else
  match s.translate (s.viaCmd c) va .objWrite with
  | .error _ => s.refuseArrival c.id
  | .ok x =>
    if x.dem || s.poisoned x.pa || decide (s.kind x.pa ≠ 2) || decide (s.slotState x.pa = 0) then s.refuseArrival c.id
    else
      let s := s.walked (s.viaCmd c) va x
      let ph := c.hdr 63 56
      if ph = s.phase x.pa % 256 then State.settle x.pa (s.copyArrival x.pa c)
      else if ph = (s.phase x.pa + 1) % 256 then
        (s.updCmd c.id (fun c => { c with ending := .heldArrival })).updObj x.pa (fun o =>
          { o with arrivals := byCommit s c.tc c.id o.arrivals })
      else s.refuseArrival c.id

/-- The completion word (R212). -/
def Cmd.word (c : Cmd) : List Byte :=
  leBytes 8 (c.tagField * 2 ^ 48 + c.status * 2 ^ 44 + min c.zcnt 4095 * 2 ^ 32 + min c.done (2 ^ 32 - 1))

/-- The completion word of a command at its end, after a fault too: a translation that fails by now leaves it unwritten, and
gives the pusher of a command that has not faulted ENGINE_FAULT (R206); a refused frame suspends the command (R227); a page
that moves holds it (R312). -/
def State.completionWord (s : State) (c : Cmd) : State :=
  let faulted := decide (c.ending = .faulted)
  let next (s : State) : State := if faulted then s.removeCmd c.id else s.updCmd c.id (fun c => { c with ending := .worded })
  if !c.cw then next s
  else if cmdMoving s c (c.w 7) then s
  else
    match s.cwAddr c with
    | .error f => next (if faulted then s else s.deliver c.oid (cmdTrap c .engineFault (subOf f) (c.w 7) 0))
    | .ok x =>
      let v := s.viaCmd c
      match s.withFrame v c.group.region (c.w 7) .write x with
      | .error (_, d) => s.suspend c.id .quotaMem d (c.w 7)
      | .ok (s, x) => next ((s.walked v (c.w 7) x).plainWrite x.pa c.word)

/-- A command's end waits for something besides the restore of an image: acknowledgements, its barrier's phase, or its pusher's
trap (R221, R227, R299). -/
def Cmd.endWaits (c : Cmd) : Bool := c.susp || decide (c.ending = .heldArrival) || (decide (c.ending = .stepped) && decide (c.unacked ≠ 0))

/-- After a step of a command's end, a restored context waits for no end that waits for something else. -/
def State.endApplied (s : State) (oid id : Nat) : State :=
  match Map.find s.cmds id with
  | some c => if c.endWaits then s.applied oid id else s
  | none => s

/-- COMMAND_COMPLETE: the next of the steps with which a command ends (R211, R212). Those of a group whose image is saved are held
for the image (R288). -/
def execCommandComplete (cl id : Nat) (s : State) : Host.Outcome State Fault Refusal :=
  .next (
    match Map.find s.cmds id with
    | none => s
    | some c =>
      if !s.cpeOn cl || !(s.cluster cl).cpe.run.contains id then s
      else if c.killed then s.removeCmd id
      else if c.susp || s.saved.any (fun v => v.ctx.oid == c.oid) then s
      else
        let s := s.bump
        let s := match c.ending with
        | .running | .heldArrival => s
        | .stepped =>
          if c.unacked ≠ 0 then s
          else
            let s := s.commit (.cmd id) (fun _ => true)
            s.updCmd id (fun c => { c with ending := if c.bnd then .committed else .arrived, tc := s.tide })
        | .committed => if cmdMoving s c (c.w 6) then s else s.arrive c
        | .arrived | .faulted => s.completionWord c
        | .worded =>
          if coreOff s c then s else
          (s.updOid c.oid (fun x => { x with nstat := x.nstat ||| c.nstat })).updCmd id (fun c => { c with ending := .recorded })
        | .recorded => if coreOff s c then s else s.removeCmd id
        s.endApplied c.oid id)

end Sys2Proof.Machine
end

