-- ==== Sys2Proof/Machine/Vector.lean ====
section
/-! DEFINITION. The vector words and the landing of their results (R64 to R72, R156 to R182). -/

namespace Sys2Proof.Machine

/-! Issue and landing. -/

/-- Elements of an operand that a word touches. -/
structure Touch where
  f : WOp
  w : Nat
  elems : List Nat
  reads : Bool := true
  /-- the operand has 2n elements, more than any queue entry holds (R173) -/
  twice : Bool := false

/-- The fault of the elements of an operand (R66, R67, R157, R173). -/
def Touch.fault (c : Ctx) (rb : Nat) (t : Touch) : Option Cause :=
  if t.twice && isQueue t.f then some .queueMisuse else c.opFault rb t.reads t.f t.w t.elems

/-- What a vector word will write when it lands. -/
structure VRes where
  slices : List (Nat × BitVec 4) := []
  masks : List (Nat × BitVec 128 × BitVec 128) := []
  wf : Option (BitVec 32) := none
  y : BitVec 512 := 0
  nstat : BitVec 32 := 0

/-- What a vector word does at issue: the elements and mask bits it touches, and its result. -/
structure VPlan where
  touch : List Touch
  masks : List (MReg × List Nat) := []
  res : VRes

/-- The fault of the operands of a word, in the order of its fields (R66, R67, R157). -/
def planFault (c : Ctx) (rb : Nat) (p : VPlan) : Option Cause :=
  match p.touch.findSome? (Touch.fault c rb) with
  | some f => some f
  | none =>
    if p.masks.any (fun m => m.2.any (fun i => c.mPoison.contains (m.1.toNat * 128 + i))) then some .poison else none

/-- The queues that source fields name, each once. -/
def sourceQueues (srcs : List WOp) : List Nat := ((srcs.filter isQueue).map queueOf).eraseDups

/-- A source queue that is empty. -/
def emptySource (c : Ctx) (qs : List Nat) : Option Nat := qs.find? (fun q => (Map.get [] c.q q).isEmpty)

/-- Pops each queue once. -/
def popQueues (qs : List Nat) (c : Ctx) : Ctx :=
  { c with q := qs.foldl (fun m q => Map.put m q ((Map.get [] m q).drop 1)) c.q }

/-- The result queue that a destination names. -/
def yOf (d : Option WOp) : Option Nat :=
  match d with
  | some f => if isQueue f then some (queueOf f) else none
  | none => none

/-- The result queue has no free entry (R67, R124). -/
def yFull (c : Ctx) (d : Option WOp) : Bool :=
  match yOf d with
  | some y => decide (8 ≤ (Map.get [] c.y y).length)
  | none => false

/-- The effects of issue on the context: queues popped, the y entry reserved, the result put in flight (R67, R69). -/
def launchRes (cyc lat : Nat) (qs : List Nat) (d : Option WOp) (tag : Tag) (r : VRes) (c : Ctx) : Ctx :=
  let no := c.pendNo
  let c := popQueues qs c
  let c := match yOf d with
    | some y => { c with y := Map.put c.y y (Map.get [] c.y y ++ [({ no := no, data := r.y, tag := tag } : YSlot)]) }
    | none => c
  let l : Landing := { no := no, due := cyc + lat, slices := r.slices, masks := r.masks, wf := r.wf, y := yOf d,
                       nstat := r.nstat }
  { c with pendNo := no + 1, pend := c.pend ++ [l] }

/-- A false slot of a word with source queues pops them and does nothing else (R155). -/
def falsePop (len : Nat) (qs : List Nat) (s : State) : State :=
  match emptySource s.myCtx qs with
  | some q => s.block (.emptyQueue q)
  | none => (s.updMyCtx (popQueues qs)).advance len

/-- The course of a word with wide operands: it waits for its queues, then every fault is found, then `eff` happens. -/
def wideWord (g : Guard) (regs : List XReg) (srcs : List WOp) (dst : Option WOp) (fault : State → Option Cause)
    (eff : State → State) (s : State) : Host.Outcome State Fault Refusal :=
  let qs := sourceQueues srcs
  word [.e] g regs (falsePop 12 qs) (fun s =>
    match emptySource s.myCtx qs with
    | some q => s.block (.emptyQueue q)
    | none =>
      if yFull s.myCtx dst then s.block (.wait (.yRoom ((yOf dst).getD 0)))
      else
        match fault s with
        | some f => s.raiseAt f 0 (s.poisonDetail f fault) 0
        | none => eff s) s

/-- The plan of a word in the state in which it issues. -/
def planOf (plan : Ctx → Nat → (XReg → Word) → VPlan) (s : State) : VPlan := plan s.myCtx s.me.rb.toNat s.x

/-- A vector word with a result that lands λ cycles after issue (R157). -/
def vissue (g : Guard) (regs : List XReg) (lat : Nat) (srcs : List WOp) (dst : Option WOp)
    (plan : Ctx → Nat → (XReg → Word) → VPlan) (s : State) : Host.Outcome State Fault Refusal :=
  wideWord g regs srcs dst (fun s => planFault s.myCtx s.me.rb.toNat (planOf plan s)) (fun s =>
    let cyc := (s.core s.cur.1).cyc
    let tag := s.me.tag
    (s.updMyCtx (launchRes cyc lat (sourceQueues srcs) dst tag (planOf plan s).res)).advance 12) s

/-- Writes slices of the W bank, clearing their marks. -/
def landSlices (ws : List (Nat × BitVec 4)) (c : Ctx) : Ctx :=
  { c with w := ws.foldl (fun m e => Map.set 0 m e.1 e.2) c.w,
           wPoison := c.wPoison.filter (fun p => !ws.any (fun e => e.1 == markOf p)) }

/-- Writes mask bits. -/
def landMasks (ms : List (Nat × BitVec 128 × BitVec 128)) (c : Ctx) : Ctx :=
  { c with masks := ms.foldl (fun m e => Map.set 0 m e.1 ((Map.get 0 m e.1 &&& ~~~e.2.1) ||| (e.2.2 &&& e.2.1))) c.masks,
           mPoison := c.mPoison.filter (fun p => !ms.any (fun e => decide (e.1 = markOf p / 128) && e.2.1.getLsbD (markOf p % 128))) }

/-- Takes from an older pending result what a later-issued one has just landed (R70, R158). -/
def shadowed (l p : Landing) : Landing :=
  if p.no < l.no then
    { p with slices := p.slices.filter (fun e => !l.slices.any (fun x => x.1 == e.1)),
             masks := p.masks.map (fun e =>
               (e.1, l.masks.foldl (fun b x => if x.1 = e.1 then b &&& ~~~x.2.1 else b) e.2.1, e.2.2)),
             wf := if l.wf.isSome then none else p.wf }
  else p

/-- The y entry of a result becomes visible to S, or leaves the queue if it has been removed (R67, R146). -/
def landY (y no : Nat) (c : Ctx) : Ctx :=
  { c with y := Map.put c.y y (((Map.get [] c.y y).filter (fun v => !(v.no == no && v.dead))).map (fun v =>
      if v.no = no then { v with ready := true } else v)) }

/-- One result lands (R69, R70, R95, R128). -/
def landOne (cyc : Nat) (c : Ctx) (l : Landing) : Ctx :=
  let c := landMasks l.masks (landSlices l.slices c)
  let c := match l.wf with
    | some w => { c with wfNext := c.wfNext ++ [(cyc + flagDelay, w)] }
    | none => c
  let c := match l.y with
    | some y => landY y l.no c
    | none => c
  { c.record l.nstat with pend := (c.pend.filter (fun p => p.no != l.no)).map (shadowed l) }

/-- Lands every result that is due, in issue order. -/
def landDue (cyc : Nat) : List Landing → Ctx → Ctx
  | [], c => c
  | l :: t, c =>
    if l.due ≤ cyc then
      match c.pend.find? (fun p => p.no == l.no) with
      | some p => landDue cyc t (landOne cyc c p)
      | none => landDue cyc t c
    else landDue cyc t c

/-- VECTOR_LAND: the results due at this E-cycle land (R69). -/
def execVectorLand (core : Nat) (s : State) : Host.Outcome State Fault Refusal :=
  let cyc := (s.core core).cyc
  .next (
    if (s.core core).frozen || !s.islandOn (coreIsland core) || s.inReset || !(s.act core).landingDue cyc then s
    else s.updAct core (fun c => landDue cyc c.pend c))

/-! Results by lanes. -/

/-- The result of lanes in a destination operand: slices of W, or the y entry. -/
def lanesOut (d : WOp) (rb w : Nat) (res : List (Nat × Nat × BitVec 32)) : VRes :=
  let vals := res.map (fun r => (r.1, r.2.1))
  let n := res.foldl (fun a r => a ||| r.2.2) 0
  if isQueue d then { y := yEntry d w vals, nstat := n } else { slices := wWrites d rb w vals, nstat := n }

/-- The active lanes of a word. -/
def laneSet (v : VCtl) (c : Ctx) (n : Nat) : List Nat := activeLanes (c.mask v.pred) n

/-- A word of one result for each active lane, from one source. -/
def vUn (lat : Nat) (op : Ty → RMode → Int → Nat × BitVec 32) (v : VCtl) (d a : WOp) (s : State) :
    Host.Outcome State Fault Refusal :=
  vissue v.g [] lat [a] (some d) (fun c rb _ =>
    let act := laneSet v c (lanes v.ty)
    { touch := [⟨a, opw a v.ty, act, true, false⟩, ⟨d, opw d v.ty, act, false, false⟩], masks := [(v.pred, act)],
      res := lanesOut d rb (opw d v.ty) (act.map (fun i => (i, op v.ty c.vmode (c.elemInt rb a i v.ty)))) }) s

/-- A word of one result for each active lane, from two sources. -/
def vBin (lat : Nat) (op : Ty → RMode → Int → Int → Nat × BitVec 32) (v : VCtl) (d a b : WOp) (s : State) :
    Host.Outcome State Fault Refusal :=
  vissue v.g [] lat [a, b] (some d) (fun c rb _ =>
    let act := laneSet v c (lanes v.ty)
    { touch := [⟨a, opw a v.ty, act, true, false⟩, ⟨b, opw b v.ty, act, true, false⟩, ⟨d, opw d v.ty, act, false, false⟩],
      masks := [(v.pred, act)],
      res := lanesOut d rb (opw d v.ty)
        (act.map (fun i => (i, op v.ty c.vmode (c.elemInt rb a i v.ty) (c.elemInt rb b i v.ty)))) }) s

/-- A fused word, which also reads its destination. -/
def vTri (op : Ty → RMode → Int → Int → Int → Nat × BitVec 32) (v : VCtl) (d a b : WOp) (s : State) :
    Host.Outcome State Fault Refusal :=
  vissue v.g [] (if tyFloat v.ty then 5 else 3) [a, b] (some d) (fun c rb _ =>
    let act := laneSet v c (lanes v.ty)
    { touch := [⟨a, opw a v.ty, act, true, false⟩, ⟨b, opw b v.ty, act, true, false⟩, ⟨d, opw d v.ty, act, true, false⟩],
      masks := [(v.pred, act)],
      res := lanesOut d rb (opw d v.ty) (act.map (fun i =>
        (i, op v.ty c.vmode (c.elemInt rb a i v.ty) (c.elemInt rb b i v.ty) (c.elemInt rb d i v.ty)))) }) s

/-! Arithmetic (R160, R161). -/

/-- The float behind an element. -/
def flt (ty : Ty) (v : Int) : Ex := decodeF ty (wrapNat v (tyBits ty))

/-- A floating result with its NSTAT bits (R160). -/
def fres (ty : Ty) (mode : RMode) (r : Ex × Bool) : Nat × BitVec 32 := (arith ty mode r.1, nvBits r.2)

/-- One lane of a two-source arithmetic word. -/
def arith2 (fi : Int → Int → Int) (ff : RMode → Ex → Ex → Ex × Bool) (ty : Ty) (mode : RMode) (a b : Int) :
    Nat × BitVec 32 :=
  if tyFloat ty then fres ty mode (ff mode (flt ty a) (flt ty b)) else satInt ty (fi a b)

/-- One lane of a one-source arithmetic word. -/
def arith1 (fi : Int → Int) (ff : Ex → Ex × Bool) (ty : Ty) (mode : RMode) (a : Int) : Nat × BitVec 32 :=
  if tyFloat ty then fres ty mode (ff (flt ty a)) else satInt ty (fi a)

/-- One lane of a fused word: d comes last. -/
def arith3 (fi : Int → Int → Int → Int) (ff : RMode → Ex → Ex → Ex → Ex × Bool) (ty : Ty) (mode : RMode) (a b d : Int) :
    Nat × BitVec 32 :=
  if tyFloat ty then fres ty mode (ff mode (flt ty a) (flt ty b) (flt ty d)) else satInt ty (fi a b d)

/-- λ of the arithmetic words (R156). -/
def lat35 (ty : Ty) : Nat := if tyFloat ty then 5 else 3

/-- A choice between two floats in which a NaN gives a NaN and NV. -/
def exPick (f : Ex → Ex → Ex) (a b : Ex) : Ex × Bool := if exNan a || exNan b then (.nan, true) else (f a b, false)

/-- The smaller, −0 below +0. -/
def exMin (a b : Ex) : Ex := if exBelow b a then b else a
/-- The larger. -/
def exMax (a b : Ex) : Ex := if exBelow a b then b else a

/-- |a|; a NaN gives a NaN and NV. -/
def exAbs : Ex → Ex × Bool
  | .nan => (.nan, true)
  | .inf _ => (.inf false, false)
  | .fin _ m e st => (.fin false m e st, false)

/-- vadd. -/
def execVadd (c : VCtl) (d a b : WOp) (s : State) := vBin (lat35 c.ty) (arith2 (· + ·) exAdd) c d a b s
/-- vsub. -/
def execVsub (c : VCtl) (d a b : WOp) (s : State) :=
  vBin (lat35 c.ty) (arith2 (· - ·) (fun m x y => exAdd m x (exNeg y))) c d a b s
/-- vmul. -/
def execVmul (c : VCtl) (d a b : WOp) (s : State) := vBin (lat35 c.ty) (arith2 (· * ·) (fun _ => exMul)) c d a b s
/-- vfma: a·b + d. -/
def execVfma (c : VCtl) (d a b : WOp) (s : State) := vTri (arith3 (fun x y z => x * y + z) exFma) c d a b s
/-- vfms: a·b − d. -/
def execVfms (c : VCtl) (d a b : WOp) (s : State) :=
  vTri (arith3 (fun x y z => x * y - z) (fun m x y z => exFma m x y (exNeg z))) c d a b s
/-- vfnma: d − a·b. -/
def execVfnma (c : VCtl) (d a b : WOp) (s : State) :=
  vTri (arith3 (fun x y z => z - x * y) (fun m x y z => exFma m (exNeg x) y z)) c d a b s
/-- vmin. -/
def execVmin (c : VCtl) (d a b : WOp) (s : State) :=
  vBin (lat35 c.ty) (arith2 (fun x y => if x ≤ y then x else y) (fun _ => exPick exMin)) c d a b s
/-- vmax. -/
def execVmax (c : VCtl) (d a b : WOp) (s : State) :=
  vBin (lat35 c.ty) (arith2 (fun x y => if x ≤ y then y else x) (fun _ => exPick exMax)) c d a b s
/-- vabs. -/
def execVabs (c : VCtl) (d a : WOp) (s : State) := vUn (lat35 c.ty) (arith1 (fun x => x.natAbs) exAbs) c d a s
/-- vneg. -/
def execVneg (c : VCtl) (d a : WOp) (s : State) :=
  vUn (lat35 c.ty) (arith1 (fun x => -x) (fun x => (exNeg x, exNan x))) c d a s
/-- vmulh: floor(a·b / 2^(4·tyw)). -/
def execVmulh (c : VCtl) (d a b : WOp) (s : State) :=
  vBin 3 (fun ty _ x y => (wrapNat (x * y / (2 ^ tyBits ty : Nat)) (tyBits ty), 0)) c d a b s
/-- vavg: (a + b)/2, rounded. -/
def execVavg (c : VCtl) (d a b : WOp) (s : State) := vBin 3 (fun ty m x y => satInt ty (roundRat m (x + y) 2)) c d a b s

/-! Raw bits (R162). -/

/-- One lane of a word on raw bits. -/
def bits2 (f : Nat → Nat → Nat → Nat) (ty : Ty) (_ : RMode) (a b : Int) : Nat × BitVec 32 :=
  let e := tyBits ty
  (f e (wrapNat a e) (wrapNat b e) % 2 ^ e, 0)

/-- vand. -/
def execVand (c : VCtl) (d a b : WOp) (s : State) := vBin 3 (bits2 (fun _ x y => x &&& y)) c d a b s
/-- vor. -/
def execVor (c : VCtl) (d a b : WOp) (s : State) := vBin 3 (bits2 (fun _ x y => x ||| y)) c d a b s
/-- vxor. -/
def execVxor (c : VCtl) (d a b : WOp) (s : State) := vBin 3 (bits2 (fun _ x y => x ^^^ y)) c d a b s
/-- vnot. -/
def execVnot (c : VCtl) (d a : WOp) (s : State) :=
  vUn 3 (fun ty _ x => (2 ^ tyBits ty - 1 - wrapNat x (tyBits ty), 0)) c d a s
/-- vshl: the count is b mod e (R162). -/
def execVshl (c : VCtl) (d a b : WOp) (s : State) := vBin 3 (bits2 (fun e x y => x <<< (y % e))) c d a b s
/-- vshr. -/
def execVshr (c : VCtl) (d a b : WOp) (s : State) := vBin 3 (bits2 (fun e x y => x >>> (y % e))) c d a b s
/-- vsra. -/
def execVsra (c : VCtl) (d a b : WOp) (s : State) :=
  vBin 3 (bits2 (fun e x y => wrapNat (signed x e / (2 ^ (y % e) : Nat)) e)) c d a b s
/-- vrol. -/
def execVrol (c : VCtl) (d a b : WOp) (s : State) :=
  vBin 3 (bits2 (fun e x y => x <<< (y % e) ||| x >>> (e - y % e))) c d a b s

/-! Transcendental words (R163). -/

/-- A transcendental word. -/
def vFun (f : TFun) (c : VCtl) (d a : WOp) (s : State) :=
  vUn 9 (fun ty m x => fres ty m (exFun f (flt ty x))) c d a s

/-- vrcp. -/
def execVrcp (c : VCtl) (d a : WOp) (s : State) := vFun .rcp c d a s
/-- vrsq. -/
def execVrsq (c : VCtl) (d a : WOp) (s : State) := vFun .rsq c d a s
/-- vsqrt. -/
def execVsqrt (c : VCtl) (d a : WOp) (s : State) := vFun .sqrt c d a s
/-- vexp2. -/
def execVexp2 (c : VCtl) (d a : WOp) (s : State) := vFun .exp2 c d a s
/-- vlog2. -/
def execVlog2 (c : VCtl) (d a : WOp) (s : State) := vFun .log2 c d a s
/-- vtanh. -/
def execVtanh (c : VCtl) (d a : WOp) (s : State) := vFun .tanh c d a s
/-- vsigm. -/
def execVsigm (c : VCtl) (d a : WOp) (s : State) := vFun .sigm c d a s

/-! Conversion, quantisation and packing (R164 to R167). -/

/-- vcvt: the lane count of the narrower type (R164). -/
def execVcvt (c : VCtl) (d a : WOp) (sty : Ty) (s : State) : Host.Outcome State Fault Refusal :=
  vissue c.g [] 4 [a] (some d) (fun x rb _ =>
    let act := laneSet c x (max (lanes c.ty) (lanes sty))
    { touch := [⟨a, opw a sty, act, true, false⟩, ⟨d, opw d c.ty, act, false, false⟩], masks := [(c.pred, act)],
      res := lanesOut d rb (opw d c.ty)
        (act.map (fun i => (i, convert c.ty x.vmode (valueOf sty (x.elemBits rb a i sty))))) }) s

/-- The scale entry of lane i (R165). -/
def laneEntry (x : Ctx) (rb : Nat) (b : WOp) (i : Nat) : Nat := x.elemBits rb b (i / 32) .z32

/-- vquant (R165). -/
def execVquant (c : VCtl) (d a b : WOp) (s : State) : Host.Outcome State Fault Refusal :=
  vissue c.g [] 4 [a, b] (some d) (fun x rb _ =>
    let act := laneSet c x (lanes c.ty)
    { touch := [⟨a, opw a .h, act, true, false⟩, ⟨b, opw b .z32, act.map (· / 32), true, false⟩, ⟨d, opw d c.ty, act, false, false⟩],
      masks := [(c.pred, act)],
      res := lanesOut d rb (opw d c.ty) (act.map (fun i =>
        let e := laneEntry x rb b i
        (i, quantize (codeTy c.ty) x.vmode (decodeF .h (x.elemBits rb a i .h)) (scaleOf e) (zeroOf c.ty true e).toNat))) }) s

/-- s·(q − z), converted to FP16 (R85, R165). -/
def dequant (ty : Ty) (mode : RMode) (e q : Nat) : Nat × BitVec 32 :=
  convert .h mode (exMul (scaleOf e) (exInt ((q : Int) - zeroOf ty true e))).1

/-- vdequant (R165). -/
def execVdequant (c : VCtl) (d a b : WOp) (s : State) : Host.Outcome State Fault Refusal :=
  vissue c.g [] 4 [a, b] (some d) (fun x rb _ =>
    let act := laneSet c x (lanes c.ty)
    { touch := [⟨a, opw a c.ty, act, true, false⟩, ⟨b, opw b .z32, act.map (· / 32), true, false⟩, ⟨d, opw d .h, act, false, false⟩],
      masks := [(c.pred, act)],
      res := lanesOut d rb (opw d .h)
        (act.map (fun i => (i, dequant c.ty x.vmode (laneEntry x rb b i) (x.elemBits rb a i c.ty)))) }) s

/-- min(max(a, lo), hi), exact (R166). -/
def clamp (ty : Ty) (mode : RMode) (a lo hi : Int) : Nat × BitVec 32 :=
  if tyFloat ty then
    let x := flt ty a
    let l := flt ty lo
    let h := flt ty hi
    if exNan x || exNan l || exNan h then (canonNan ty, nNv) else (arith ty mode (exMin (exMax x l) h), 0)
  else
    let m := if a ≤ lo then lo else a
    (wrapNat (if m ≤ hi then m else hi) (tyBits ty), 0)

/-- vclamp: elements 0 and 1 of OB are the limits, read whatever lanes are active (R166). -/
def execVclamp (c : VCtl) (d a b : WOp) (s : State) : Host.Outcome State Fault Refusal :=
  vissue c.g [] (lat35 c.ty) [a, b] (some d) (fun x rb _ =>
    let act := laneSet c x (lanes c.ty)
    { touch := [⟨a, opw a c.ty, act, true, false⟩, ⟨b, opw b c.ty, [0, 1], true, false⟩, ⟨d, opw d c.ty, act, false, false⟩],
      masks := [(c.pred, act)],
      res := lanesOut d rb (opw d c.ty) (act.map (fun i =>
        (i, clamp c.ty x.vmode (x.elemInt rb a i c.ty) (x.elemInt rb b 0 c.ty) (x.elemInt rb b 1 c.ty)))) }) s

/-- vpack (R167). -/
def execVpack (c : VCtl) (d a b : WOp) (s : State) : Host.Outcome State Fault Refusal :=
  let st := (packSrc c.ty).getD c.ty
  let h := lanes c.ty / 2
  vissue c.g [] 4 [a, b] (some d) (fun x rb _ =>
    let act := laneSet c x (lanes c.ty)
    { touch := [⟨a, opw a st, act.filter (· < h), true, false⟩, ⟨b, opw b st, (act.filter (h ≤ ·)).map (· - h), true, false⟩,
                ⟨d, opw d c.ty, act, false, false⟩],
      masks := [(c.pred, act)],
      res := lanesOut d rb (opw d c.ty) (act.map (fun i =>
        (i, convert c.ty x.vmode (valueOf st (if i < h then x.elemBits rb a i st else x.elemBits rb b (i - h) st))))) }) s

/-! Masks and flags (R168, R169). -/

/-- A compare word: bits of inactive lanes keep, bits n to 127 become 0 (R168). -/
def vCmp (test : Ty → Int → Int → Bool) (c : VCtl) (md : MReg) (a b : WOp) (s : State) :
    Host.Outcome State Fault Refusal :=
  vissue c.g [] 3 [a, b] none (fun x rb _ =>
    let n := lanes c.ty
    let act := laneSet c x n
    let hit := act.filter (fun i => test c.ty (x.elemInt rb a i c.ty) (x.elemInt rb b i c.ty))
    { touch := [⟨a, opw a c.ty, act, true, false⟩, ⟨b, opw b c.ty, act, true, false⟩], masks := [(c.pred, act)],
      res := { masks := [(md.toNat, maskOfLanes act ||| ~~~(lowOnes n), maskOfLanes hit)] } }) s

/-- A test on integers, or on floats. -/
def cmp (fi : Int → Int → Bool) (ff : Ex → Ex → Bool) (ty : Ty) (a b : Int) : Bool :=
  if tyFloat ty then ff (flt ty a) (flt ty b) else fi a b

/-- vceq. -/
def execVceq (c : VCtl) (md : MReg) (a b : WOp) (s : State) := vCmp (cmp (fun x y => decide (x = y)) exEq) c md a b s
/-- vcne: true with a NaN. -/
def execVcne (c : VCtl) (md : MReg) (a b : WOp) (s : State) :=
  vCmp (cmp (fun x y => decide (x ≠ y)) (fun x y => !exEq x y)) c md a b s
/-- vclt. -/
def execVclt (c : VCtl) (md : MReg) (a b : WOp) (s : State) := vCmp (cmp (fun x y => decide (x < y)) exLt) c md a b s
/-- vcle. -/
def execVcle (c : VCtl) (md : MReg) (a b : WOp) (s : State) :=
  vCmp (cmp (fun x y => decide (x ≤ y)) (fun x y => exLt x y || exEq x y)) c md a b s
/-- vcun. -/
def execVcun (c : VCtl) (md : MReg) (a b : WOp) (s : State) :=
  vCmp (cmp (fun _ _ => false) (fun x y => exNan x || exNan y)) c md a b s

/-- A mask-logic word: all 128 bits (R169). -/
def vMask (f : BitVec 128 → BitVec 128 → BitVec 128) (g : Guard) (md ma mb : MReg) (s : State) :
    Host.Outcome State Fault Refusal :=
  vissue g [] 3 [] none (fun x _ _ =>
    { touch := [], masks := [(ma, List.range 128), (mb, List.range 128)],
      res := { masks := [(md.toNat, .allOnes 128, f (x.mask ma) (x.mask mb))] } }) s

/-- vmand. -/
def execVmand (g : Guard) (md ma mb : MReg) (s : State) := vMask (· &&& ·) g md ma mb s
/-- vmor. -/
def execVmor (g : Guard) (md ma mb : MReg) (s : State) := vMask (· ||| ·) g md ma mb s
/-- vmxor. -/
def execVmxor (g : Guard) (md ma mb : MReg) (s : State) := vMask (· ^^^ ·) g md ma mb s
/-- vmandn. -/
def execVmandn (g : Guard) (md ma mb : MReg) (s : State) := vMask (fun a b => a &&& ~~~b) g md ma mb s

/-- vflags (R128, R169). -/
def execVflags (g : Guard) (ty : Ty) (ma : MReg) (s : State) : Host.Outcome State Fault Refusal :=
  vissue g [] 3 [] none (fun x _ _ =>
    { touch := [], masks := [(ma, List.range (lanes ty))], res := { wf := some (flagWord ma (x.mask ma) (lanes ty)) } }) s

/-! Moving elements (R170 to R173). -/

/-- vsel: PRED selects, every lane is written and checked (R170). -/
def execVsel (c : VCtl) (d a b : WOp) (s : State) : Host.Outcome State Fault Refusal :=
  vissue c.g [] 3 [a, b] (some d) (fun x rb _ =>
    let all := List.range (lanes c.ty)
    { touch := [⟨a, opw a c.ty, all, true, false⟩, ⟨b, opw b c.ty, all, true, false⟩, ⟨d, opw d c.ty, all, false, false⟩],
      masks := [(c.pred, all)],
      res := lanesOut d rb (opw d c.ty)
        (all.map (fun i => (i, x.elemBits rb (if active (x.mask c.pred) i then a else b) i c.ty, 0))) }) s

/-- vperm: the index is the raw bits of OB's element, modulo n; every element of a is read (R171). -/
def execVperm (c : VCtl) (d a b : WOp) (s : State) : Host.Outcome State Fault Refusal :=
  let n := lanes c.ty
  vissue c.g [] 3 [a, b] (some d) (fun x rb _ =>
    let act := laneSet c x n
    { touch := [⟨a, opw a c.ty, List.range n, true, false⟩, ⟨b, opw b c.ty, act, true, false⟩, ⟨d, opw d c.ty, act, false, false⟩],
      masks := [(c.pred, act)],
      res := lanesOut d rb (opw d c.ty)
        (act.map (fun i => (i, x.elemBits rb a (x.elemRaw rb b i (opw b c.ty) % n) c.ty, 0))) }) s

/-- x[r] modulo the element size (R172). -/
def xElem (ty : Ty) (v : Word) : Nat := v.toNat % 2 ^ tyBits ty

/-- vbcast (R172). -/
def execVbcast (c : VCtl) (d a : WOp) (xs : XReg) (idx : BitVec 7) (s : State) : Host.Outcome State Fault Refusal :=
  let srcs := if xs = 0 then [a] else []
  vissue c.g [xs] 3 srcs (some d) (fun x rb xr =>
    let act := laneSet c x (lanes c.ty)
    let v := if xs = 0 then x.elemBits rb a idx.toNat c.ty else xElem c.ty (xr xs)
    { touch := [⟨a, opw a c.ty, if xs = 0 && !act.isEmpty then [idx.toNat] else [], true, false⟩, ⟨d, opw d c.ty, act, false, false⟩],
      masks := [(c.pred, act)],
      res := lanesOut d rb (opw d c.ty) (act.map (fun i => (i, v, 0))) }) s

/-- A slide: lane i takes element `src i`, or x[XF] (R172). -/
def vSlide (src : Nat → Option Nat) (c : VCtl) (d a : WOp) (xf : XReg) (s : State) : Host.Outcome State Fault Refusal :=
  vissue c.g [xf] 3 [a] (some d) (fun x rb xr =>
    let act := laneSet c x (lanes c.ty)
    { touch := [⟨a, opw a c.ty, act.filterMap src, true, false⟩, ⟨d, opw d c.ty, act, false, false⟩], masks := [(c.pred, act)],
      res := lanesOut d rb (opw d c.ty) (act.map (fun i =>
        (i, (match src i with
          | some j => x.elemBits rb a j c.ty
          | none => xElem c.ty (xr xf)), 0))) }) s

/-- vslup. -/
def execVslup (c : VCtl) (d a : WOp) (xf : XReg) (amt : BitVec 7) (s : State) :=
  vSlide (fun i => if amt.toNat ≤ i then some (i - amt.toNat) else none) c d a xf s
/-- vsldn. -/
def execVsldn (c : VCtl) (d a : WOp) (xf : XReg) (amt : BitVec 7) (s : State) :=
  vSlide (fun i => if i + amt.toNat < lanes c.ty then some (i + amt.toNat) else none) c d a xf s

/-- vzip (R173). -/
def execVzip (g : Guard) (ty : Ty) (d a b : WOp) (s : State) : Host.Outcome State Fault Refusal :=
  let n := lanes ty
  vissue g [] 3 [a, b] (some d) (fun x rb _ =>
    { touch := [⟨a, opw a ty, List.range n, true, false⟩, ⟨b, opw b ty, List.range n, true, false⟩,
                ⟨d, opw d ty, List.range (2 * n), false, true⟩],
      res := lanesOut d rb (opw d ty)
        ((List.range (2 * n)).map (fun i => (i, x.elemBits rb (if i % 2 = 0 then a else b) (i / 2) ty, 0))) }) s

/-- vunzip (R173). -/
def execVunzip (g : Guard) (ty : Ty) (d a : WOp) (s : State) : Host.Outcome State Fault Refusal :=
  let n := lanes ty
  vissue g [] 3 [a] (some d) (fun x rb _ =>
    { touch := [⟨a, opw a ty, List.range (2 * n), true, true⟩, ⟨d, opw d ty, List.range (2 * n), false, true⟩],
      res := lanesOut d rb (opw d ty)
        ((List.range (2 * n)).map (fun i => (i, x.elemBits rb a (if i < n then 2 * i else 2 * (i - n) + 1) ty, 0))) }) s

/-! Reductions (R100, R174). -/

/-- One level of the tree: neighbours combined, the lower index on the left. -/
def pairUp {α : Type} (op : α → α → α) : List α → List α
  | a :: b :: t => op a b :: pairUp op t
  | l => l

/-- `tree` of R100 over 2^k lanes. -/
def treeOf {α : Type} (op : α → α → α) : Nat → List α → List α
  | 0, l => l
  | k + 1, l => treeOf op k (pairUp op l)

/-- The tree's value. -/
def tree {α : Type} (op : α → α → α) (d : α) (l : List α) : α := (treeOf op 7 l).headD d

/-- The elements of all lanes; an inactive lane contributes the identity. -/
def withIdentity (x : Ctx) (rb : Nat) (v : VCtl) (a : WOp) (ident : Int) : List Int :=
  (List.range (lanes v.ty)).map (fun i => if active (x.mask v.pred) i then x.elemInt rb a i v.ty else ident)

/-- A sum in FP32 with RNE (R100). The model's choice: a sum beyond the largest finite number (notes/assumptions/107.md). -/
def addF32 (a b : Nat) : Nat := arith .f .rne (exAdd .rne (decodeF .f a) (decodeF .f b)).1

/-- vrsum's value (R100, R174). -/
def sumOf (ty : Ty) (l : List Int) : Nat × BitVec 32 :=
  if tyFloat ty then convert ty .rne (decodeF .f (tree addF32 0 (l.map (fun v => arith .f .rne (flt ty v)))))
  else satInt ty (tree (· + ·) 0 l)

/-- vrmax's and vrmin's value: any NaN lane gives the canonical NaN and NV (R82, R100). -/
def extremeOf (mx : Bool) (ty : Ty) (l : List Int) : Nat × BitVec 32 :=
  if tyFloat ty then
    let r := tree (fun a b => if exNan a || exNan b then .nan else if mx then exMax a b else exMin a b) .nan (l.map (flt ty))
    (arith ty .rne r, nvBits (exNan r))
  else
    (wrapNat (tree (fun a b => if decide (a ≤ b) = mx then b else a) 0 l) (tyBits ty), 0)

/-- The identity of vrmax and vrmin as an element (R100). -/
def extremeId (mx : Bool) (ty : Ty) : Int :=
  if tyFloat ty then (infBits ty mx : Nat) else if mx then minInt ty else maxInt ty

/-- A reduction word: element 0 of d alone is written, whatever lanes are active (R174). -/
def vRed (ident : Ty → Int) (val : Ty → List Int → Nat × BitVec 32) (c : VCtl) (d a : WOp) (s : State) :
    Host.Outcome State Fault Refusal :=
  vissue c.g [] (lat35 c.ty) [a] (some d) (fun x rb _ =>
    let act := laneSet c x (lanes c.ty)
    { touch := [⟨a, opw a c.ty, act, true, false⟩, ⟨d, opw d c.ty, [0], false, false⟩], masks := [(c.pred, act)],
      res := lanesOut d rb (opw d c.ty) [(0, val c.ty (withIdentity x rb c a (ident c.ty)))] }) s

/-- vrsum. -/
def execVrsum (c : VCtl) (d a : WOp) (s : State) := vRed (fun _ => 0) sumOf c d a s
/-- vrmax. -/
def execVrmax (c : VCtl) (d a : WOp) (s : State) := vRed (extremeId true) (extremeOf true) c d a s
/-- vrmin. -/
def execVrmin (c : VCtl) (d a : WOp) (s : State) := vRed (extremeId false) (extremeOf false) c d a s

/-! The accumulator store (R175 to R177). -/

/-- What the running word of the array will write to an element of the ACS that it has not written yet: bits, NSTAT and
the marks that it meets: any, and one of a MARGIN event. A row of A that the word has not read yet gives nothing. -/
def runElem (fresh : Nat) (cl : Cluster) (r : Run) (i : Nat) : Option (Nat × BitVec 32 × Bool × Bool) :=
  if i / 16384 ≠ actOf r.entry.op || r.early.contains i then none
  else
    let row := i % 16384 / 128
    let free := Config.zeroSign fresh i
    match r.entry.op with
    | .mma m =>
      if r.rows ≤ row && decide (row < rowsOf m.mm1) then
        (aRow r m row).map (fun a =>
          let v := stepElem fresh r m a row (i % 128) (cl.elem i)
          (v.1, v.2.1, v.2.2, stepBad true r m a row (i % 128)))
      else none
    | .mzero _ => some (0, 0, false, false)
    | .mtcopy _ t | .mtadd _ _ t =>
      let v := tileElem free r.entry.op (cl.elem i) (cl.elem (t * 16384 + i % 16384))
      some (v.1, v.2, false, false)
    | .mtscale _ _ =>
      let v := tileElem free r.entry.op (cl.elem i) 0
      some (v.1, v.2, false, false)
    | _ => none

/-- An element that a vaccrd sees as the running word will leave it is written now (R177). -/
def seeEarly (fresh core i : Nat) (s : State) : State :=
  let cl := s.cluster (clusterOf core)
  match cl.mxa.run with
  | none => s
  | some r =>
    if Config.accPrefix (fresh + i) then
      match runElem fresh cl r i with
      | none => s
      | some (v, n, bad, margin) =>
        s.updCluster (clusterOf core) (fun c =>
          let c := c.setElems [(i, v)]
          { c with mxa := { c.mxa with run := some { r with early := i :: r.early, nstat := r.nstat ||| n,
                                                            marked := r.marked || bad,
                                                            margin := r.margin || margin } } })
    else s

/-- The entry writes elements of the ACS for stream E. -/
def isVaccwr (e : MEntry) : Bool :=
  match e.op with
  | .vaccwr _ => true
  | _ => false

/-- vaccrd (R176, R177): each element holds a value between two words of the array. The model's choices: the order of its own
context alone (notes/assumptions/108.md), and the faults, POISON of an ACS element among them, before the wait for an earlier vaccwr
(notes/assumptions/25.md). -/
def execVaccrd (c : VCtl) (d : WOp) (acs : AcsAddr) (s : State) : Host.Outcome State Fault Refusal :=
  wideWord c.g [acs.xr] [] (some d)
    (fun s =>
      let act := laneSet c s.myCtx 16
      match planFault s.myCtx s.me.rb.toNat
        { touch := [⟨d, opw d c.ty, act, false, false⟩], masks := [(c.pred, act)], res := {} } with
      | some f => some f
      | none =>
        let bad := (s.cluster (clusterOf s.cur.1)).acsPoison
        if act.any (fun i => bad.contains (acsIndex acs (s.x acs.xr) i)) then some .poison else none)
    (fun s =>
      let isle := mxaIsland (clusterOf s.cur.1)
      if s.myCtx.order.any isVaccwr then s.block (.wait .vaccwr)
      else if !s.islandOn isle then s.block (.wait (.island isle))
      else
        let k := s.cur.1
        let act := laneSet c s.myCtx 16
        let s := s.bump
        let s := act.foldl (fun s i => seeEarly s.fresh k (acsIndex acs (s.x acs.xr) i) s) s
        let cl := s.cluster (clusterOf k)
        let r := lanesOut d s.me.rb.toNat (opw d c.ty) (act.map (fun i => (i, cl.elem (acsIndex acs (s.x acs.xr) i), 0)))
        let cyc := (s.core k).cyc
        let tag := s.me.tag
        (s.updMyCtx (launchRes cyc 3 [] (some d) tag r)).advance 12) s

/-- An entry joins the tail of the matrix command order (R183, R185). -/
def enterOrder (e : MEntry) (c : Ctx) : Ctx := { c with order := c.order ++ [e], mxOut := c.mxOut + 1 }

/-- The matrix command order has no free entry (R183). -/
def orderFull (c : Ctx) : Bool := decide (16 ≤ c.order.length)

/-- vaccwr: its elements enter the matrix command order (R177). -/
def execVaccwr (c : VCtl) (acs : AcsAddr) (a : WOp) (s : State) : Host.Outcome State Fault Refusal :=
  wideWord c.g [acs.xr] [a] none
    (fun s =>
      let act := laneSet c s.myCtx 16
      planFault s.myCtx s.me.rb.toNat { touch := [⟨a, opw a c.ty, act, true, false⟩], masks := [(c.pred, act)], res := {} })
    (fun s =>
      if orderFull s.myCtx then s.block (.wait (.order false))
      else
        let rb := s.me.rb.toNat
        let xr := s.x acs.xr
        (s.updMyCtx (fun x =>
          let elems := (laneSet c x 16).map (fun i => (acsIndex acs xr i, BitVec.ofNat 32 (x.elemBits rb a i c.ty)))
          enterOrder { op := .vaccwr elems } (popQueues (sourceQueues [a]) x))).advance 12) s

/-! Spilling and filling (R178, R179). -/

/-- The fault of a spill or a fill: W range, scratchpad range, bank set (R178). -/
def spillFault (c : Ctx) (p n b : Nat) : Option Cause :=
  let bytes := (n + 1) / 2
  if wLast < p + n - 1 then some .wRange
  else if 24 * 32768 < b + bytes then some .pageAbsent
  else if (List.range 24).any (fun k => decide (b / 32768 ≤ k) && decide (k ≤ (b + bytes - 1) / 32768) && !c.bankSet.getLsbD k) then
    some .pageProt
  else none

/-- The first W position of a spill or a fill. -/
def spillPos (w : WStart) (rb : Nat) : Nat := (w.row.toNat + if w.rb then rb else 0) * 128 + w.slc.toNat

/-- The first scratchpad byte of a spill or a fill. -/
def spillByte (sp : SpAddr) (xs : Word) : Nat := sp.bank.toNat * 32768 + sp.off.toNat + xs.toNat

/-- E-cycles for which a spill or a fill holds E. -/
def spillTime (n : Nat) : Nat := (n + 127) / 128

/-- The word has issued and holds E for a number of cycles. -/
def State.advanceHold (s : State) (len n : Nat) : State := s.issued (s.me.pc + .ofNat 56 len) n

/-- wspill: its slices are read at issue and written by one access of the issue buffer (R179). -/
def execWspill (g : Guard) (sp : SpAddr) (w : WStart) (cnt : BitVec 24) (s : State) : Host.Outcome State Fault Refusal :=
  word [.e] g [sp.xs] (fun s => s.advance 12) (fun s =>
    let n := cnt.toNat + 1
    let p := spillPos w s.me.rb.toNat
    let b := spillByte sp (s.x sp.xs)
    match spillFault s.myCtx p n b with
    | some f => s.trap f
    | none =>
      let bad (s : State) : Option Cause :=
        if s.myCtx.wPoison.any (fun q => decide (p ≤ q) && decide (q < p + n)) then some .poison else none
      match bad s with
      | some f => s.raiseAt f 0 (s.poisonDetail f bad) 0
      | none =>
        (s.enqueue (.spill b (leBytes ((n + 1) / 2) (s.myCtx.sliceRead p n)))).advanceHold 12 (spillTime n)) s

/-- wfill: its bytes are read at issue, its slices land at t + 2 + ⌈n/128⌉ (R179). -/
def execWfill (g : Guard) (w : WStart) (sp : SpAddr) (cnt : BitVec 24) (s : State) : Host.Outcome State Fault Refusal :=
  word [.e] g [sp.xs] (fun s => s.advance 12) (fun s =>
    let n := cnt.toNat + 1
    let p := spillPos w s.me.rb.toNat
    let b := spillByte sp (s.x sp.xs)
    if !s.me.ib.isEmpty then s.block (.wait .ib)
    else
      match spillFault s.myCtx p n b with
      | some f => s.trap f
      | none =>
        let co := s.core s.cur.1
        let bad (s : State) : Option Cause := if (s.core s.cur.1).spPoisoned b ((n + 1) / 2) then some .poison else none
        match bad s with
        | some f => s.raiseAt f 0 (s.poisonDetail f bad) 0
        | none =>
          let v := leOf (co.spRead b ((n + 1) / 2))
          let cyc := co.cyc
          (s.updMyCtx (launchRes cyc (2 + spillTime n) [] none [] { slices := sliceWrites p n v })).advanceHold 12
            (spillTime n)) s

/-! The backwater queue (R180 to R182). -/

/-- Operand a_k: ROW increased by k. -/
def rowPlus (f : WOp) (k : Nat) : WOp := { f with row := f.row + .ofNat 10 k }

/-- defer (R181). The model's choice: which fault comes first (notes/assumptions/25.md). -/
def execDefer (c : VCtl) (a : WOp) (tag : BitVec 4) (xi : XReg) (k : BitVec 5) (s : State) :
    Host.Outcome State Fault Refusal :=
  let ks := List.range (k.toNat + 1)
  wideWord c.g [xi] [] none
    (fun s =>
      let act := laneSet c s.myCtx (lanes c.ty)
      match planFault s.myCtx s.me.rb.toNat
        { touch := ks.map (fun j => ⟨rowPlus a j, opw a c.ty, act, true, false⟩), masks := [(c.pred, act)], res := {} } with
      | some f => some f
      | none => if 512 < s.myCtx.back.length + act.length then some .queueMisuse else none)
    (fun s =>
      let rb := s.me.rb.toNat
      let x := (s.x xi).toNat
      (s.updMyCtx (fun v =>
        { v with back := v.back ++ (laneSet c v (lanes c.ty)).map (fun i =>
            { tag := tag.toNat, k := k.toNat + 1, width := tyw c.ty, lane := i, index := (x + i) % 2 ^ 25,
              elems := ks.map (fun j => v.elemBits rb (rowPlus a j) i c.ty) }) })).advance 12) s

/-- The records that a drain takes (R182). -/
def drained8 (c : Ctx) (tag n : Nat) : List BackRec := (c.back.filter (fun r => r.tag == tag)).take n

/-- Removes the first n records of a tag. -/
def dropTag (tag : Nat) : Nat → List BackRec → List BackRec
  | 0, l => l
  | _, [] => []
  | n + 1, r :: t => if r.tag = tag then dropTag tag n t else r :: dropTag tag (n + 1) t

/-- drain (R182). -/
def execDrain (g : Guard) (ty : Ty) (d idx : WOp) (md : MReg) (tag : BitVec 4) (k : BitVec 5) (s : State) :
    Host.Outcome State Fault Refusal :=
  let n := lanes ty
  let ks := List.range (k.toNat + 1)
  wideWord g [] [] none
    (fun s =>
      let S := drained8 s.myCtx tag.toNat n
      if S.any (fun r => decide (r.k ≠ k.toNat + 1) || decide (r.width ≠ tyw ty)) then some .queueMisuse
      else
        let js := List.range S.length
        planFault s.myCtx s.me.rb.toNat
          { touch := ks.map (fun j => ⟨rowPlus d j, opw d ty, js, false, false⟩) ++ [⟨idx, 8, js, false, false⟩], res := {} })
    (fun s =>
      let rb := s.me.rb.toNat
      let cyc := (s.core s.cur.1).cyc
      (s.updMyCtx (fun c =>
        let S := drained8 c tag.toNat n
        let ws := (S.zip (List.range S.length)).flatMap (fun e =>
          ks.flatMap (fun j => wWrites (rowPlus d j) rb (opw d ty) [(e.2, e.1.elems.getD j 0)])
            ++ wWrites idx rb 8 [(e.2, e.1.lane * 2 ^ 25 + e.1.index)])
        launchRes cyc 3 [] none [] { slices := ws, masks := [(md.toNat, .allOnes 128, lowOnes S.length)] }
          { c with back := dropTag tag.toNat n c.back })).advance 12) s

end Sys2Proof.Machine
end

