-- ==== Sys2Proof/Machine/Matrix.lean ====
section
/-! DEFINITION. The matrix words at issue, and the steps of the array (R183 to R204). -/

namespace Sys2Proof.Machine

/-! Issue (R185 to R187). -/

/-- The course of a matrix word: its checks, its place in the order and its credit, then its entry (R185). -/
def mWord (g : Guard) (compute : Bool) (fault : Ctx → Nat → Option Cause) (entry : Ctx → Nat → MEntry) (extra : Ctx → Ctx)
    (hold : Nat) (s : State) : Host.Outcome State Fault Refusal :=
  word [.e] g [] (fun s => s.advance 24) (fun s =>
    let rb := s.me.rb.toNat
    let check (s : State) : Option Cause :=
      if compute && !s.myCtx.leaseOpen then some .queueMisuse else fault s.myCtx rb
    match check s with
    | some f => s.raiseAt f 0 (s.poisonDetail f check) 0
    | none =>
      if orderFull s.myCtx || (compute && decide (32 ≤ s.myCtx.credit)) then s.block (.wait (.order compute))
      else
        (s.updMyCtx (fun c =>
          let e := { entry c rb with mode := c.mmode }
          let c := extra (enterOrder e c)
          if compute then { c with credit := c.credit + 1 } else c)).advanceHold 24 hold) s

/-- A scratchpad bank outside the group's set (R186). -/
def bankProt (c : Ctx) (bank : BitVec 5) : Option Cause := if c.bankSet.getLsbD bank.toNat then none else some .pageProt

/-- The W rows that hold the permutation of GEN 3 (R187, R196). -/
def permAt (m : Mma) : Nat := m.grow.toNat * 128

/-- The faults of mma at issue, but for the closed lease (R186). The model's choice: which fault comes first
(notes/assumptions/25.md). -/
def mmaFault (m : Mma) (c : Ctx) (rb : Nat) : Option Cause :=
  let rows := match m.a with
    | .w f => c.opFault rb true f 256 (List.range (rowsOf m.mm1))
    | .sp _ => none
  let banks := (match m.a with
    | .sp r => [r.bank]
    | .w _ => []) ++ (if tyQa m.ty then [m.sca.bank, m.scb.bank] else [])
  match rows, banks.findSome? (bankProt c) with
  | some .wRange, _ => some .wRange
  | _, some f => some f
  | some f, none => some f
  | none, none =>
    if m.gen.toNat = 3 && (List.range 256).any (fun j => c.wPoison.contains (permAt m + j)) then some .poison else none

/-- What mma samples at issue (R185, R187). -/
def mmaEntry (m : Mma) (c : Ctx) (rb : Nat) : MEntry :=
  { op := .mma m,
    rows := match m.a with
      | .w f => (List.range (rowsOf m.mm1)).map (fun i => .ofNat 1024 (c.sliceRead (elemPos f rb i 256) 256))
      | .sp _ => [],
    perm := if m.gen.toNat = 3 then .ofNat 1024 (c.sliceRead (permAt m) 256) else 0 }

/-- mma (R193): with its rows of A from the W file it holds E for M cycles (R187). -/
def execMma (m : Mma) (s : State) : Host.Outcome State Fault Refusal :=
  mWord m.g true (mmaFault m) (mmaEntry m) id
    (match m.a with
      | .w _ => rowsOf m.mm1
      | .sp _ => 1) s

/-- A compute word without checks of its own. -/
def mPlain (g : Guard) (op : MOp) (s : State) : Host.Outcome State Fault Refusal :=
  mWord g true (fun _ _ => none) (fun _ _ => { op := op }) id 1 s

/-- mlatch (R200). -/
def execMlatch (g : Guard) (ty : Ty) (bbuf : Bool) (brow : BitVec 11) (btr : Bool) (s : State) :=
  mPlain g (.mlatch ty bbuf brow.toNat btr) s
/-- mzero (R201). -/
def execMzero (g : Guard) (act : BitVec 4) (s : State) := mPlain g (.mzero act.toNat) s
/-- mtcopy (R201). -/
def execMtcopy (g : Guard) (act src : BitVec 4) (s : State) := mPlain g (.mtcopy act.toNat src.toNat) s
/-- mtadd (R201). -/
def execMtadd (g : Guard) (ty : Ty) (act src : BitVec 4) (s : State) := mPlain g (.mtadd ty act.toNat src.toNat) s
/-- mtscale (R201). -/
def execMtscale (g : Guard) (_ty : Ty) (act : BitVec 4) (tfill : BitVec 16) (s : State) :=
  mPlain g (.mtscale act.toNat tfill) s
/-- mtout (R202). -/
def execMtout (g : Guard) (ty : Ty) (act : BitVec 4) (mm1 : BitVec 7) (rows : SpRows) (s : State) :
    Host.Outcome State Fault Refusal :=
  mWord g true (fun c _ => bankProt c rows.bank) (fun _ _ => { op := .mtout ty act.toNat (rowsOf mm1) rows }) id 1 s

/-- An order entry that is no compute word. -/
def mEntryWord (g : Guard) (op : MOp) (extra : Ctx → Ctx) (s : State) : Host.Outcome State Fault Refusal :=
  mWord g false (fun _ _ => none) (fun _ _ => { op := op }) extra 1 s

/-- mrnd (R93, R203). -/
def execMrnd (g : Guard) (mode : RMode) (s : State) := mEntryWord g .mrnd (fun c => { c with mmode := mode }) s
/-- mlease opens the lease flag at issue (R191). -/
def execMlease (g : Guard) (s : State) := mEntryWord g .mlease (fun c => { c with leaseOpen := true }) s
/-- mfree closes the lease flag at issue (R191). -/
def execMfree (g : Guard) (s : State) := mEntryWord g .mfree (fun c => { c with leaseOpen := false }) s

/-- mwait holds E until every entry has completed or been applied (R204). -/
def execMwait (g : Guard) (s : State) : Host.Outcome State Fault Refusal :=
  word [.e] g [] (fun s => s.advance 24)
    (fun s => if s.myCtx.mxOut ≠ 0 then s.block (.wait .array) else s.advance 24) s

/-! The array. -/


/-- The array of a cluster takes steps. -/
def State.mxaOn (s : State) (cl : Nat) : Bool :=
  decide (cl < 32) && s.islandOn (mxaIsland cl) && !(s.cluster cl).mxa.frozen && !s.inReset

/-- The active context of a core takes part in its array's work: the core is not exchanging its banks, and its island takes
cycles (R351, R355). -/
def State.ordersOn (s : State) (k : Nat) : Bool :=
  (s.core k).swapEnd.isNone && decide ((s.act k).st ≠ .empty) && s.islandOn (coreIsland k)

/-- The B-store of a cluster can be read: its periphery, in the copy engine's island, and the half of the SRAM die take cycles (R16,
R20, notes/assumptions/113.md). -/
def State.bstoreOn (s : State) (cl : Nat) : Bool := s.islandOn (cpeIsland cl) && s.islandOn (sramIsland cl)

/-- The word loads a latch buffer from the B-store (R197, R200). -/
def readsB (e : MEntry) : Bool :=
  match e.op with
  | .mma m => m.bld
  | .mlatch .. => true
  | _ => false

/-- The head of a context's order is a compute word. -/
def headComputes (c : Ctx) : Bool :=
  match c.order with
  | e :: _ => isCompute e
  | [] => false

/-- The lease state at the end of a term (R190). -/
def afterTerm (c : Ctx) : Ctx := { c with lease := if headComputes c then .requested else .parked, endTerm := false }

/-- The array holds no term any more. -/
def State.dropTerm (s : State) (cl : Nat) : State := s.updCluster cl (fun c => { c with mxa := { c.mxa with holder := none, idle := 0 } })

/-- The array of a cluster runs a word of the context. -/
def State.runsWord (s : State) (k : Nat) : Bool :=
  match (s.cluster (clusterOf k)).mxa.run with
  | some r => decide (r.core = k) && decide (r.oid = (s.act k).oid)
  | none => false

/-- The head entry leaves the order. -/
def popOrder (c : Ctx) : Ctx := { c with order := c.order.drop 1, mxOut := c.mxOut - 1 }

/-- MLEASE at the head (R190, R191). -/
def State.mleaseHead (s : State) (k : Nat) : State :=
  let s := s.updAct k popOrder
  match (s.act k).lease with
  | .closed => s.updAct k (fun c => { c with lease := .parked, termCount := 0 })
  | .held =>
    if s.runsWord k then s.updAct k (fun c => { c with endTerm := true })
    else (s.updAct k afterTerm).dropTerm (clusterOf k)
  | _ => s

/-- MFREE at the head (R190, R191). -/
def State.mfreeHead (s : State) (k : Nat) : State :=
  let held := decide ((s.act k).lease = .held)
  let s := s.updAct k (fun c => { popOrder c with lease := .closed, endTerm := false, unpaid := false })
  if held && !s.runsWord k then s.dropTerm (clusterOf k) else s

/-- MATRIX_ORDER_HEAD: the entry at the head of the active context's order, or its request for the array (R188, R190). -/
def execMatrixOrderHead (core : Nat) (s : State) : Host.Outcome State Fault Refusal :=
  .next (
    if !s.mxaOn (clusterOf core) || !s.ordersOn core then s
    else
      match (s.act core).order with
      | [] => s
      | e :: _ =>
        match e.op with
        | .mrnd => s.updAct core popOrder
        | .mlease => s.mleaseHead core
        | .mfree => s.mfreeHead core
        | .vaccwr _ => s
        | _ => if (s.act core).lease = .parked then s.updAct core (fun c => { c with lease := .requested }) else s)

/-- VACCWR_APPLY: a vaccwr at the head writes its elements, between two words of the array (R177). -/
def execVaccwrApply (core : Nat) (s : State) : Host.Outcome State Fault Refusal :=
  let cl := clusterOf core
  .next (
    if !s.mxaOn cl || !s.ordersOn core || (s.cluster cl).mxa.run.isSome then s
    else
      match (s.act core).order with
      | { op := .vaccwr elems, .. } :: _ =>
        (s.updCluster cl (fun c => c.setElems (elems.map (fun e => (e.1, e.2.toNat))))).updAct core popOrder
      | _ => s)

/-- What the word at the head of a core's order pays (R188, R339). -/
def headCharge (c : Ctx) : List Charge :=
  match c.order with
  | e :: _ => [{ cls := clsMxa, bytes := 128 * (occupies e.op).getD 0 }]
  | [] => []

/-- The core's active context is a candidate for a term (R190, R192). -/
def State.wantsTerm (s : State) (k : Nat) : Bool :=
  let c := s.act k
  s.ordersOn k && decide (c.lease = .requested) && (!c.unpaid || s.canPay c.owner (.word k c.oid) (headCharge c))

/-- The core to which a term goes (R192). -/
def State.termGoes (s : State) (cl : Nat) : Option Nat :=
  let last := (s.cluster cl).mxa.last
  let cand := ((List.range 4).map (fun i => 4 * cl + (last + 1 + i) % 4)).filter s.wantsTerm
  let best := cand.foldl (fun b k => min b (s.act k).tier) 4
  cand.find? (fun k => decide ((s.act k).tier = best))

/-- GRANT: the array grants a term (R190, R192). -/
def execGrant (cl : Nat) (s : State) : Host.Outcome State Fault Refusal :=
  .next (
    if !s.mxaOn cl || (s.cluster cl).mxa.holder.isSome || (s.cluster cl).mxa.run.isSome then s
    else
      match s.termGoes cl with
      | none => s
      | some k =>
        (s.updCluster cl (fun c => { c with mxa := { c.mxa with holder := some k, last := k % 4, idle := 0 } })).updAct k
          (fun c => { c with lease := .held, termCount := 0, unpaid := false, endTerm := false }))

/-- What the array reads at a word's start (R86, R193, R197). The model's choice: what unordered writes it sees
(notes/assumptions/109.md). -/
def startRun (cl : Cluster) (co : Core) (k : Nat) (c : Ctx) (e : MEntry) (cyc : Nat) : Run :=
  let r : Run := { entry := e, core := k, oid := c.oid, start := cyc }
  match e.op with
  | .mma m =>
    let ld := if m.bld then latchLoad cl m.ty m.brow.toNat m.btr else {}
    { r with sa := scalesA co m, sb := scalesB co m, latch := if m.bbuf then c.lb1 else c.lb0, load := ld.bytes,
             loadPoison := ld.poison, marked := !ld.poison.isEmpty, margin := !(marginMarks ld.poison).isEmpty }
  | .mlatch ty _ brow btr =>
    let ld := latchLoad cl ty brow btr
    { r with load := ld.bytes, loadPoison := ld.poison, marked := !ld.poison.isEmpty, margin := !(marginMarks ld.poison).isEmpty }
  | _ => r

/-- The array starts the word at the head of the holder's order, paid (R188, R190). -/
def State.startWord (s : State) (cl k : Nat) (e : MEntry) : State :=
  let c := s.act k
  let r := startRun (s.cluster cl) (s.core k) k c e (s.cluster cl).mxa.cyc
  let tick := s.islandTime (mxaIsland cl)
  let s := s.pay c.owner (.word k c.oid) (headCharge c)
  let s := s.updCluster cl (fun x => { x with mxa := { x.mxa with run := some r, lastStart := some tick, idle := 0 } })
  s.updAct k (fun c => { c with order := c.order.drop 1, termCount := c.termCount + 1 })

/-- The head word cannot be paid: the term ends (R190). -/
def State.sluiceEnds (s : State) (cl k : Nat) : State :=
  let c := s.act k
  ((s.updAct k (fun c => { c with lease := .requested, unpaid := true, endTerm := false })).waitAtSluice c.owner (.word k c.oid)
    (headCharge c)).dropTerm cl

/-- MXA_START: the array starts a compute word (R188). -/
def execMxaStart (cl : Nat) (s : State) : Host.Outcome State Fault Refusal :=
  let x := (s.cluster cl).mxa
  .next (
    if !s.mxaOn cl || x.run.isSome then s
    else
      match x.holder with
      | none => s
      | some k =>
        let c := s.act k
        if !s.ordersOn k || decide (c.lease ≠ .held) then s
        else
          match c.order with
          | [] => s
          | e :: _ =>
            if !isCompute e || !gapPassed (s.islandTime (mxaIsland cl)) x.lastStart (s.cluster cl).paceM.gap
                || (readsB e && !s.bstoreOn cl) then s
            else if s.canPay c.owner (.word k c.oid) (headCharge c) then s.startWord cl k e else s.sluiceEnds cl k)

/-- The columns of a row that the word still has to write. -/
def lateCols (r : Run) (i : Nat) : List Nat := (List.range 128).filter (fun j => !r.early.contains (actOf r.entry.op * 16384 + i * 128 + j))

/-- A row of a tile step is due: row i at the end of cycle s + 20 + i (R193). -/
def rowDue (x : Mxa) : Option (Run × Mma) :=
  match x.run with
  | some r =>
    match r.entry.op with
    | .mma m => if r.rows < rowsOf m.mm1 && decide (r.start + 21 + r.rows ≤ x.cyc) then some (r, m) else none
    | _ => none
  | none => none

/-- The run of the array changes. -/
def State.setRun (s : State) (cl : Nat) (r : Option Run) : State := s.updCluster cl (fun c => { c with mxa := { c.mxa with run := r } })

/-- The running word has had its time, and every row of a tile step is written (R184, R189, R197). -/
def wordDone (x : Mxa) : Option Run :=
  match x.run with
  | some r =>
    let rowsLeft := match r.entry.op with
      | .mma m => decide (r.rows < rowsOf m.mm1)
      | _ => false
    if !rowsLeft && decide (r.start + (occupies r.entry.op).getD 0 ≤ x.cyc) then some r else none
  | none => none

/-- The last writes of a word other than mma as it completes, and the run with its NSTAT (R200 to R202). -/
def State.finishWord (s : State) (cl : Nat) (r : Run) : State × Run :=
  match r.entry.op with
  | .mma _ | .mlatch _ _ _ _ => (s, r)
  | .mtout ty t rows sp =>
    let (co, n) := outRows (s.cluster cl) r.entry.mode ty t sp (List.range rows) (s.core r.core, 0)
    (s.setCore r.core co, { r with nstat := r.nstat ||| n })
  | op =>
    let (ws, n) := tileWord s.fresh (s.cluster cl) op r.early
    (s.bump.updCluster cl (fun c => c.setElems ws), { r with nstat := r.nstat ||| n })

/-- The latch load of a word takes its place (R197, R200). -/
def loadLatch (r : Run) (c : Ctx) : Ctx :=
  let l : Latch := { bytes := r.load, poison := r.loadPoison }
  match r.entry.op with
  | .mma m => if m.bld then (if m.bbuf then { c with lb0 := l } else { c with lb1 := l }) else c
  | .mlatch _ bbuf _ _ => if bbuf then { c with lb1 := l } else { c with lb0 := l }
  | _ => c

/-- What a word that completes leaves in its context: NSTAT and its token, which bears a mark where a poisoned byte reached an
element (R95, R189, R199). -/
def giveToken (r : Run) (c : Ctx) : Ctx :=
  let c := c.record r.nstat
  let act := actOf r.entry.op + if r.margin then marginTag else 0
  { c with kme := c.kme ++ [if r.marked then some act else none], mxOut := c.mxOut - 1 }

/-- The term after a word: it goes on, or it ends (R190). -/
def State.termAfter (s : State) (cl : Nat) (r : Run) : State :=
  match (s.cluster cl).mxa.holder with
  | none => s
  | some k =>
    let c := s.act k
    if c.oid ≠ r.oid || decide (c.lease ≠ .held) then s.dropTerm cl
    else if c.endTerm || decide (64 ≤ c.termCount) then (s.updAct k afterTerm).dropTerm cl
    else s

/-- A word leaves the array: its latch load takes its place, and the term goes on or ends (R190, R197). -/
def State.freeArray (s : State) (cl : Nat) (r : Run) : State := ((s.setRun cl none).updOid r.oid (loadLatch r)).termAfter cl r

/-- The elements of a row that a tile step still has to write, each with its place. -/
def rowElems (fresh : Nat) (c : Cluster) (r : Run) (m : Mma) (row : Nat × Bool × Bool) : List (Nat × Nat × BitVec 32 × Bool) :=
  let t := m.act.toNat * 16384 + r.rows * 128
  (lateCols r r.rows).map (fun j => (t + j, stepElem fresh r m row r.rows j (c.elem (t + j))))

/-- A tile step completes with its latch load, after its last row: the load takes longer than M + 20 cycles (R197). -/
def loadsLonger (m : Mma) : Bool := m.bld && decide (rowsOf m.mm1 + 20 < loadTime m.btr)

/-- A row of a tile step is written; with row M − 1 the word completes, in the same step (R189, R193), unless its latch load still
runs (R197). -/
def State.writeRow (s : State) (cl : Nat) (r : Run) (m : Mma) (row : Nat × Bool × Bool) : State :=
  let res := rowElems s.fresh (s.cluster cl) r m row
  let last := decide (rowsOf m.mm1 ≤ r.rows + 1) && !loadsLonger m
  let r := { r with rows := r.rows + 1, nstat := res.foldl (fun a e => a ||| e.2.2.1) r.nstat,
                    marked := r.marked || res.any (fun e => e.2.2.2),
                    margin := r.margin || (lateCols r r.rows).any (stepBad true r m row r.rows), given := last }
  let s := (s.bump.updCluster cl (fun c => c.setElems (res.map (fun e => (e.1, e.2.1))))).setRun cl (some r)
  if !last then s
  else
    let s := s.updOid r.oid (giveToken r)
    if (wordDone (s.cluster cl).mxa).isSome then s.freeArray cl r else s

/-- The island of the core whose word the array runs takes cycles, so that what the word reads or leaves there can cross (R355). -/
def State.runCoreOn (s : State) (r : Run) : Bool := s.islandOn (coreIsland r.core)

/-- TILE_ROW_WRITE: the row of the tile that is due is written (R193). -/
def execTileRowWrite (cl : Nat) (s : State) : Host.Outcome State Fault Refusal :=
  .next (
    if !s.mxaOn cl then s
    else
      match rowDue (s.cluster cl).mxa with
      | none => s
      | some (r, m) =>
        match aRow r m r.rows with
        | none => s
        | some row => if rowsOf m.mm1 ≤ r.rows + 1 && !s.runCoreOn r then s else s.writeRow cl r m row)

/-- MATRIX_COMPLETE: a compute word completes in one step (R189), or the latch load of an mma whose token is given ends (R197). A
word whose group is gone gives its token to none (R194). -/
def execMatrixComplete (cl : Nat) (s : State) : Host.Outcome State Fault Refusal :=
  .next (
    if !s.mxaOn cl then s
    else
      match wordDone (s.cluster cl).mxa with
      | none => s
      | some r =>
        if !s.runCoreOn r then s else
        let (s, r) := s.finishWord cl r
        (if r.given then s else s.updOid r.oid (giveToken r)).freeArray cl r)

/-- Another context of the cluster is REQUESTED. -/
def State.otherWants (s : State) (cl k : Nat) : Bool :=
  (List.range 4).any (fun i =>
    decide (4 * cl + i ≠ k) && s.ordersOn (4 * cl + i) && decide ((s.act (4 * cl + i)).lease = .requested))

/-- TERM_IDLE: the holder's order has been empty for 64 cycles while another context is REQUESTED (R190). -/
def execTermIdle (cl : Nat) (s : State) : Host.Outcome State Fault Refusal :=
  let x := (s.cluster cl).mxa
  .next (
    match x.holder with
    | none => s
    | some k =>
      if !s.mxaOn cl || !s.islandOn (coreIsland k) || decide (x.idle < 64) || !s.otherWants cl k || decide ((s.act k).lease ≠ .held) then s
      else
        let s := s.updAct k (fun c => { c with lease := .parked, endTerm := false })
        if x.run.isSome then s else s.dropTerm cl)

/-- The row of A that a tile step reads from the scratchpad in the cycle that passes: row i in the i-th after its start (R193).
The model's choice: what unordered writes it sees (notes/assumptions/109.md). -/
def State.readRow (s : State) (cyc : Nat) (r : Run) : Run :=
  match r.entry.op with
  | .mma m =>
    match m.a with
    | .sp a =>
      if r.aRows.length < rowsOf m.mm1 && decide (r.start + r.aRows.length ≤ cyc) then
        { r with aRows := r.aRows ++ [spRow a (s.core r.core) r.aRows.length] }
      else r
    | .w _ => r
  | _ => r

/-- A row of A is to be read from a scratchpad whose core's island takes no cycles: the read waits, and the array with it (R355). -/
def State.rowStops (s : State) (cyc : Nat) (r : Run) : Bool := !s.runCoreOn r && decide ((s.readRow cyc r).aRows.length ≠ r.aRows.length)

/-- One MXA cycle passes: a due row is written and a due word completes first (R5, R190, R239), and a row of A is read (R193). -/
def mxaTurn (cl : Nat) (s : State) : State :=
  let x := (s.cluster cl).mxa
  if 32 ≤ cl || !s.islandOn (mxaIsland cl) || s.inReset then s
  else if x.frozen then s.updCluster cl (fun c => { c with mxa := { c.mxa with freezeLeft := c.mxa.freezeLeft - 1 } })
  else if (rowDue x).isSome || (wordDone x).isSome || x.run.any (s.rowStops x.cyc) then s
  else
    let idles := match x.holder with
      | some k => (s.act k).order.isEmpty && s.otherWants cl k
      | none => false
    s.updCluster cl (fun c =>
      { c with mxa := { c.mxa with run := x.run.map (s.readRow x.cyc), cyc := x.cyc + 1, idle := if idles then x.idle + 1 else 0 } })

/-- A term ends when its context leaves the array, after the running word; the lease waits PARKED (R190: SWAP, PREEMPT,
MIGRATE), and its word no longer waits at a sluice. -/
def State.leaveArray (s : State) (k : Nat) : State :=
  let cl := clusterOf k
  let runs := s.runsWord k
  let mine := decide ((s.cluster cl).mxa.holder = some k)
  let s := (s.leaveLine (s.act k).owner (.word k (s.act k).oid)).updAct k (fun c =>
    { c with lease := if c.lease = .closed then .closed else .parked, endTerm := false, unpaid := false })
  if mine && !runs then s.dropTerm cl else s

end Sys2Proof.Machine
end

