-- ==== Sys2Proof/Machine/ContextEv.lean ====
section
/-! DEFINITION. The context's own steps: traps, shadow-clear points, records, policies, swaps, freezes and clock hops (R231 to
R241, R268 to R270). -/

namespace Sys2Proof.Machine

/-- A core whose active context may take an event: it is no swap in progress, no freeze, and its island takes cycles. -/
def State.coreTakes (s : State) (k : Nat) : Bool :=
  decide (k < 128) && (s.core k).swapEnd.isNone && !(s.core k).frozen && s.islandOn (coreIsland k) && !s.inReset

/-- TRAP: the first waiting trap of the active context is taken at a word boundary, as the event of R232 (R233). -/
def execTrap (k : Nat) (s : State) : Host.Outcome State Fault Refusal :=
  .next (
    let c := s.act k
    if !s.coreTakes k || decide (c.st ≠ .running) || !c.trapReady then s
    else
      match c.traps with
      | [] => s
      | t :: rest =>
        let cyc := (s.core k).cyc
        s.updAct k (fun c => { c with st := .draining, drain := some (.trap t), eventAt := cyc, traps := rest, boundary := false }))

/-- The core stands at a shadow-clear point for what its active context drains for: no vector result is still to land (R232).
The earlier entries of a faulting sequencer's issue buffer have performed when it faults (R122, `State.raiseReq`). -/
def State.clearReady (s : State) (k : Nat) : Bool :=
  let c := s.act k
  decide (c.st = .draining) && c.taken.isNone && c.pend.isEmpty && c.drain.isSome

/-- The exchange of the banks starts (R237): for 96 REFCLK ticks neither bank is active. -/
def State.startSwap (s : State) (k : Nat) : State :=
  let s := s.leaveArray k
  let t := s.islandTime (coreIsland k)
  let f (c : Ctx) : Ctx := if c.st = .empty then c
    else { c with was := if c.st = .draining then .running else c.st, st := .swapping, drain := none, boundary := false }
  s.updCore k (fun co => { co with swapEnd := some (t + 96), a := f co.a, b := f co.b })

/-- CLEAR: the event that the active context drains for is taken at the shadow-clear point (R231, R232, R234). -/
def execClear (k : Nat) (s : State) : Host.Outcome State Fault Refusal :=
  .next (
    let c := s.act k
    if !s.coreTakes k || !s.clearReady k then s
    else
      let shd := (s.core k).cyc - c.eventAt
      match c.drain with
      | some (.trap t) => (s.updAct k (fun c => { c with shd := shd })).takeTrap k (s.bank k) t
      | some .debugStop => s.updAct k (fun c => { c with st := .stopped, drain := none, taken := none, notified := true })
      | some .swap => s.startSwap k
      | none => s)

/-- Writes the records of a move that still wait, in order, while the fault queue has room (R367). -/
def writeRedirects (k : Nat) (bank : Bool) : List TrapReq → State → State
  | [], s => s.updCtx k bank (fun c => { c with redirects := [] })
  | t :: rest, s =>
    let c := s.ctx k bank
    if s.recordRoom c.group.region then
      writeRedirects k bank rest (s.writeRecord c.group.region (recordBytes s k bank c t 0))
    else s.updCtx k bank (fun c => { c with redirects := t :: rest })

/-- FAULT_RECORD_WRITE: a trap record that waited for room is written (R270), and the records of a move. -/
def execFaultRecordWrite (k : Nat) (s : State) : Host.Outcome State Fault Refusal :=
  .next (
    let c := s.act k
    let s := match c.st, c.taken with
      | .draining, some t => s.takeTrap k (s.bank k) t
      | _, _ => s
    let s := writeRedirects k false (s.ctx k false).redirects s
    writeRedirects k true (s.ctx k true).redirects s)

/-- The charge whose refusal raised a quota trap would stand now (R268): the chain's limits and the polder's frames or pool
entries; a page move makes no charge (R312). -/
def chargeStands (s : State) (c : Ctx) (t : TrapReq) : Bool :=
  let chain := (s.region c.group.region).chain
  let opc := (t.cmd.bind (fun id => Map.find s.cmds id)).map (fun x => (x.opc, x.hdr 32 32))
  match t.cause with
  | .quotaMem =>
    let lg := match s.leafAddr c.polder t.faddr with
      | some la => leafBit (s.readLE la 8) 6
      | none => false
    let free (tier : Nat) : Bool := (takeFrame lg (Map.get [] s.frames (c.polder * 2 + tier))).isSome
    if opc = some (12, 1) then free 1
    else if opc.any (fun o => o.1 == 11 || o.1 == 12) then free 0
    else (chain.find? (overQuota s false)).isNone && free 0
  | .quotaVer => (chain.find? (overQuota s true)).isNone && decide (Map.get 0 s.pool c.polder < s.ptField c.polder 32 8)
  | _ => true

/-- Policy resume (R227, R236, R268): the context goes on, and a suspended command with it; a quota charge that is still
refused turns it into notify host. -/
def State.resumePolicy (s : State) (k : Nat) (bank : Bool) : State :=
  let c := s.ctx k bank
  match c.taken with
  | none => s.resumeCtx k bank
  | some t =>
    if !chargeStands s c t then s.updCtx k bank (fun c => { c with notified := true })
    else
      let s := match t.cmd with
        | some id => s.updCmd id (fun x => { x with susp := false })
        | none => s
      s.resumeCtx k bank

/-- FAULT_POLICY: the region's policy is applied to a STOPPED context (R236, R268). -/
def execFaultPolicy (k bank : Nat) (s : State) : Host.Outcome State Fault Refusal :=
  .next (
    let b := decide (bank = 1)
    let c := s.ctx k b
    if c.st ≠ .stopped || c.taken.isNone || c.notified then s
    else
      match (s.region c.group.region).policy with
      | 1 => s.resumePolicy k b
      | 2 => (s.restartGroup c.oid).settleAborts
      | 3 => s.killDomain c.group.region
      | _ => s.updCtx k b (fun c => { c with notified := true }))

/-- A write of the register RESUME of a terp (R269). -/
def State.writeResume (s : State) (t v : Nat) : State :=
  let k := bitsOf v 6 0
  let b := v.testBit 8
  if terpOf k ≠ t || decide ((s.ctx k b).st ≠ .stopped) then s.updTerp t (fun x => { x with resumeErr := true })
  else (s.updTerp t (fun x => { x with resumeErr := false })).resumePolicy k b

/-- RESUME. -/
def execResume (t : Nat) (v : BitVec 32) (s : State) : Host.Outcome State Fault Refusal :=
  .next (if 4 ≤ t then s else s.writeResume t v.toNat)

/-- A swap is called for (R237, R284): the shadow context has a lower tier number than the active one, or no context is
active. -/
def State.swapCalled (s : State) (k : Nat) : Bool :=
  let c := s.act k
  let d := s.ctx k (!s.bank k)
  (decide (d.st = .parked) || decide (d.st = .stopped)) && (decide (c.st = .empty) || decide (d.tier < c.tier))

/-- SWAP: the request reaches the core: a RUNNING context drains, a STOPPED one leaves at once (R231, R237). -/
def execSwap (k : Nat) (s : State) : Host.Outcome State Fault Refusal :=
  .next (
    if !s.coreTakes k || !s.swapCalled k then s
    else
      match (s.act k).st with
      | .running =>
        let cyc := (s.core k).cyc
        s.updAct k (fun c => { c with st := .draining, drain := some .swap, eventAt := cyc, boundary := false })
      | .stopped | .empty => s.startSwap k
      | _ => s)

/-- SWAP_DONE: after 96 ticks the banks have exchanged their roles (R231, R237). -/
def execSwapDone (k : Nat) (s : State) : Host.Outcome State Fault Refusal :=
  .next (
    match (s.core k).swapEnd with
    | none => s
    | some t =>
      if s.islandTime (coreIsland k) < t then s
      else
        let now := !s.bank k
        let back (c : Ctx) (active : Bool) : Ctx :=
          if c.st = .swapping then
            { c with st := if c.was = .stopped then .stopped else if active then .running else .parked, was := .empty }
          else c
        s.updCore k (fun co => { co with activeB := now, swapEnd := none, a := back co.a (!now), b := back co.b now }))

/-- REFCLK ticks of a window of 1 ms (R5, R356). -/
def errWindow : Nat := 6600000

/-- A window of an undervolted island ends at this tick and has not been judged (R356). -/
def State.windowEnds (s : State) (n : Nat) : Bool :=
  let i := s.island n
  i.uven && decide (s.tick % errWindow = 0) && decide (i.windowAt ≠ s.tick)

/-- The number of the window in which an error is found now. -/
def State.windowNo (s : State) (n : Nat) : Nat := s.tick / errWindow - (if s.windowEnds n then 1 else 0)

/-- A correctable error of an island is counted for its undervolting (R239, R356). -/
def State.countError (s : State) (n : Nat) : State :=
  let w := s.windowNo n
  s.updIsland n (fun i => { i with ceWindow := w, ceCount := if i.ceWindow = w then i.ceCount + 1 else 1 })

/-- CE_FREEZE: a correctable error freezes a unit for 24 more of its own cycles, and counts (R239). -/
def execCeFreeze (u : FreezeUnit) (s : State) : Host.Outcome State Fault Refusal :=
  .next (match u with
    | .core k =>
      if k < 128 then
        (s.countError (coreIsland k)).updCore k (fun co => { co with frozen := true, freezeLeft := co.freezeLeft + 24 })
      else s
    | .mxa cl =>
      if cl < 32 then
        (s.countError (mxaIsland cl)).updCluster cl (fun c =>
          { c with mxa := { c.mxa with frozen := true, freezeLeft := c.mxa.freezeLeft + 24 } })
      else s
    | .cpe cl =>
      if cl < 32 then
        (s.countError (cpeIsland cl)).updCluster cl (fun c =>
          { c with cpe := { c.cpe with frozen := true, freezeLeft := c.cpe.freezeLeft + 24 } })
      else s)

/-- FREEZE_END: the frozen cycles have passed (R239). -/
def execFreezeEnd (u : FreezeUnit) (s : State) : Host.Outcome State Fault Refusal :=
  .next (match u with
    | .core k => if (s.core k).freezeLeft = 0 then s.updCore k (fun co => { co with frozen := false }) else s
    | .mxa cl =>
      if (s.cluster cl).mxa.freezeLeft = 0 then s.updCluster cl (fun c => { c with mxa := { c.mxa with frozen := false } }) else s
    | .cpe cl =>
      if (s.cluster cl).cpe.freezeLeft = 0 then s.updCluster cl (fun c => { c with cpe := { c.cpe with frozen := false } }) else s)

/-- CLOCK_HOP_DONE: a hop ends (R241); a droop that came during it is applied after it (R355). -/
def execClockHopDone (i : Nat) (s : State) : Host.Outcome State Fault Refusal :=
  .next (match (s.island i).hop with
    | none => s
    | some (d, _) => s.updIsland i (fun x => { x with div := d, hop := none, droop := x.droop || x.droopHeld, droopHeld := false }))

end Sys2Proof.Machine
end

