-- ==== Sys2Proof/Machine/Queue.lean ====
section
/-! DEFINITION. The queue: QSYNC, the expansion of entries, operators, and notices to the host (R249 to R255, R362, R363). -/

namespace Sys2Proof.Machine

/-! QSYNC (R249). -/

/-- The terp that is HOME of a QCB: that of the cached copy, which is authoritative while it is cached (R248). -/
def State.homeOf (s : State) (q : Nat) : Nat :=
  match s.cached q with
  | some (t, _) => t
  | none => s.qHome q

/-- STATUS with RESET and WDOG written as 0. -/
def released (e : Qcb) : Qcb := { e with reset := false, wdogBit := false }

/-- RESET and WDOG are cleared in the guest part of a QCB that is not cached. -/
def releaseHeld (s : State) (q : Nat) : State :=
  let a := s.qGuest q + 24
  let st := s.readLE a 4
  s.writeLE a 4 (st - bitsOf st 4 4 * 16 - bitsOf st 6 6 * 64)

/-- A QSYNC request that no other one holds up: refused with ERR, complete at once for a QCB that is not cached, or in
progress. -/
def State.qsyncNow (s : State) (t : Nat) (q : BitVec 20) (rls : Bool) : State :=
  if s.homeOf q.toNat ≠ t then s.updTerp t (fun x => { x with qsyncErr := true })
  else
    match s.cached q.toNat with
    | some _ => s.updTerp t (fun x => { x with qsyncErr := false, qsyncBusy := true, qsyncIdx := q, qsyncRls := rls })
    | none => (if rls then releaseHeld s q.toNat else s).updTerp t (fun x => { x with qsyncErr := false })

/-- Requests that waited for BUSY take effect in the order in which they came, until one of them is in progress. -/
def qsyncHeldOn (t : Nat) : List (BitVec 20 × Bool) → State → State
  | [], s => s.updTerp t (fun x => { x with qsyncHeld := [] })
  | r :: rest, s =>
    if (s.terp t).qsyncBusy then s.updTerp t (fun x => { x with qsyncHeld := r :: rest })
    else qsyncHeldOn t rest (s.qsyncNow t r.1 r.2)

/-- A write of QSYNC. -/
def State.qsyncWrite (s : State) (t : Nat) (q : BitVec 20) (rls : Bool) : State :=
  if 4 ≤ t || s.inReset then s else qsyncHeldOn t ((s.terp t).qsyncHeld ++ [(q, rls)]) s

/-- QSYNC: a write with RLS 0. -/
def execQsync (t : Nat) (q : BitVec 20) (s : State) : Host.Outcome State Fault Refusal := .next (s.qsyncWrite t q false)
/-- QSYNC_RELEASE: a write with RLS 1. -/
def execQsyncRelease (t : Nat) (q : BitVec 20) (s : State) : Host.Outcome State Fault Refusal := .next (s.qsyncWrite t q true)

/-- An entry of the queue is partly expanded: a CHAIN with records still to dispatch. -/
def partly (l : QLive) : Bool :=
  match l.exps with
  | e :: _ => decide (e.kind = 1)
  | [] => false

/-- ENABLE and DISABLE at the QSYNC of a cached entry, which finds EN in the privileged part in memory (R251). -/
def qsyncFinds (s : State) (q : Nat) (e : Qcb) : Qcb :=
  let en := (s.readLE (s.qPriv q) 1).testBit 0
  if e.st = .draining || e.reset then e
  else if !en then { e with st := .disabled }
  else if e.st = .disabled then { e with st := .idle, dberr := false, wdogBit := false, recerr := false }
  else e

/-- The watchdog counter and the expansion of a queue after ENABLE and DISABLE (R249, R251). -/
def qsyncLive (old new : QState) (l : QLive) : QLive :=
  if new = .disabled then { l with exps := [], faulted := false } else if old = .disabled then { l with wd := 0 } else l

/-- QSYNC_WRITEBACK: at an entry boundary the dynamic fields are written back and the entry is invalidated. -/
def execQsyncWriteback (t : Nat) (s : State) : Host.Outcome State Fault Refusal :=
  .next (
    let x := s.terp t
    let q := x.qsyncIdx.toNat
    if !x.qsyncBusy || partly (s.live q) then s
    else
      let s := match s.cached q with
        | some (h, e) =>
          let e' := qsyncFinds s q (if x.qsyncRls then released e else e)
          ((s.qWriteBack q e').updTerp h (fun x => { x with cache := Map.del x.cache q })).updLive q (qsyncLive e.st e'.st)
        | none => if x.qsyncRls then releaseHeld s q else s
      qsyncHeldOn t x.qsyncHeld (s.updTerp t (fun x => { x with qsyncBusy := false })))

/-! The front end's reads and writes in a queue's polder. -/

/-- Bytes read as the front end reads what a queue names: each piece in a page of the polder, without poison, and in a plain
page where one is asked for (R252, R253, R308); none where it cannot be read. -/
def qLoadAll (s : State) (polder : Nat) (plain : Bool) : List (Nat × Nat) → Option (List Byte)
  | [] => some []
  | (va, n) :: t =>
    match s.translate { polder := polder } va .read with
    | .error _ => none
    | .ok x =>
      if (plain && (x.v || x.y)) then none
      else
        let here : Option (List Byte) :=
          if x.dem then some (List.replicate n 0)
          else if x.v then
            let (d, p) := s.vRead [] s.tide (lineOf x.pa)
            if p then none else some ((d.drop (x.pa % 128)).take n)
          else if s.poisoned x.pa then none
          else some (s.plainBytes x.pa n)
        match here, qLoadAll s polder plain t with
        | some b, some bs => some (b ++ bs)
        | _, _ => none

/-- Bytes read in a queue's polder. -/
def qLoad (s : State) (polder : Nat) (plain : Bool) (va n : Nat) : Option (List Byte) :=
  qLoadAll s polder plain (cutLines (n / 128 + 2) va n)

/-- A move of its page, or an island on its way, holds an access of a terp's front end (R312, R351). -/
def qMoving (s : State) (terp polder va : Nat) : Bool := s.moving (32 + terp) polder va []

/-- A signal word (R252, R253). -/
def signalWord (s : State) (polder va : Nat) : Option Nat := if va % 8 = 0 then (qLoad s polder true va 8).map leOf else none

/-- The chain of nodes above and with a node, as far as they are valid. -/
def nodesUp (s : State) : Nat → Nat → List Nat
  | 0, _ => []
  | f + 1, n => if n = 0 || !s.paOk n then [] else n :: nodesUp s f (nodeParent s n)

/-- The chain that the queue's RCB names. -/
def queueChain (s : State) (e : Qcb) : List Nat :=
  match s.feAddr e.polder e.rcb with
  | some n => nodesUp s 4 n
  | none => []

/-- Writes a signal word, in a plain and writable page; none where it cannot be written. -/
def writeSignal (s : State) (e : Qcb) (va v : Nat) : Option State :=
  match s.translate { polder := e.polder } va .write with
  | .error _ => none
  | .ok x =>
    if x.v || decide (va % 8 ≠ 0) then none
    else
      match (if x.dem then frameFor s e.polder (queueChain s e) x else .ok s) with
      | .error _ => none
      | .ok s =>
        match s.translate { polder := e.polder } va .write with
        | .error _ => none
        | .ok x => some (s.plainWrite x.pa (leBytes 8 v))

/-! Entries (R252, R253). -/

/-- A fetched entry as it goes into expansion: a malformed one has KIND 255. -/
def parseEntry (b : List Byte) : Expansion :=
  let kind := leOf (b.take 1)
  let addr := leOf ((b.drop 8).take 8)
  let val := leOf ((b.drop 16).take 8)
  let bad := decide (4 < kind) || ((b.drop 1).take 7).any (· != 0) || (b.drop 24).any (· != 0)
    || ((decide (kind = 0) || decide (kind = 4)) && (decide (addr ≠ 0) || decide (val ≠ 0)))
    || (decide (kind = 1) && (decide (addr = 0) || decide (addr % 16 ≠ 0) || decide (val ≠ 0)))
    || ((decide (kind = 2) || decide (kind = 3)) && decide (addr % 8 ≠ 0))
  { kind := if bad then 255 else kind, addr := addr, val := val, nextRec := addr }

/-- The entry at the head of expansion is done. -/
def State.entryDone (s : State) (q : Nat) : State := (s.updLive q (fun l => { l with exps := l.exps.drop 1 })).qEmpty q

/-- The course of an entry row: nothing in expansion, nothing happens; the QCB is filled if it was not cached, which may
abandon the expansion (R249); an ACTIVE queue whose head of expansion is of the row's KIND takes it; a malformed entry, or a
fetch that faulted, is RECFAULT (R253). -/
def onEntry (kind q : Nat) (eff : State → Qcb → Expansion → State) (s : State) : Host.Outcome State Fault Refusal :=
  .next (
    let l := s.live q
    if l.exps.isEmpty && !l.faulted then s
    else
      let s := s.qFill q
      let e := s.qcb q
      let l := s.live q
      if e.st ≠ .active then s
      else
        match l.exps with
        | [] => if l.faulted then s.recfault q else s
        | x :: _ => if 4 < x.kind then s.recfault q else if x.kind = kind then eff s e x else s)

/-- NOP_ENTRY. -/
def execNopEntry (q : Nat) (s : State) : Host.Outcome State Fault Refusal := onEntry 0 q (fun s _ _ => s.entryDone q) s

/-- An operator record (R254): GO, NEXT, and the registers it writes; none where it is malformed. -/
def parseRecord (hd : List Byte) (ws : List (Nat × Word)) : Option (Bool × Nat × Map Word) :=
  let regs : Map Word := ws.foldl (fun m r => Map.put m r.1 r.2) []
  let go := leOf ((hd.drop 1).take 1)
  if ((hd.drop 2).take 6).any (· != 0) || decide (1 < go) || ws.any (fun r => decide (2 < r.1))
      || (decide (go = 1) && decide (regs.length < 3)) then none
  else some (go == 1, leOf ((hd.drop 8).take 8), regs)

/-- The register writes of a record from its bytes. -/
def recordWrites : Nat → List Byte → List (Nat × Word)
  | 0, _ => []
  | n + 1, b => (leOf (b.take 8), .ofNat 64 (leOf ((b.drop 8).take 8))) :: recordWrites n (b.drop 16)

/-- NW of a record is 1 to 14. -/
def nwOk (n : Nat) : Bool := decide (1 ≤ n) && decide (n ≤ 14)

/-- A record of device memory in a queue's polder. -/
def memRecord (s : State) (polder va : Nat) : Option (Bool × Nat × Map Word) :=
  if va % 16 ≠ 0 then none
  else
    match qLoad s polder false va 16 with
    | none => none
    | some hd =>
      let nw := leOf (hd.take 1)
      if !nwOk nw then none
      else match qLoad s polder false (va + 16) (16 * nw) with
        | none => none
        | some b => parseRecord hd (recordWrites nw b)

/-- The bytes that a record's read reaches: its header, and the writes that a header within limits counts. -/
def recordSpan (s : State) (polder va : Nat) : Nat :=
  match qLoad s polder false va 16 with
  | none => 16
  | some hd => if nwOk (leOf (hd.take 1)) then 16 + 16 * leOf (hd.take 1) else 16

/-- A record becomes the pending operator of a launcher's shadow bank (R255, R262), which becomes active at once where the active
bank holds no unretired operator. -/
def State.offer (s : State) (n q : Nat) (e : Qcb) (go : Bool) (regs : Map Word) : State :=
  ((s.updFep n (fun f =>
    { f with shadow := some { queue := q, go := go, rcb := Map.find regs 0, arg := Map.find regs 1,
                              ng := (Map.find regs 2).map (fun v => .ofNat 64 (v.toNat % 2 ^ 24)), tier := e.tier,
                              polder := e.polder, owner := e.owner, terp := e.home } })).updLive q (fun l =>
    { l with unret := l.unret + 1 })).activate n

/-- The queue's expansion goes on past a record of its chain (R253): the entry ends with the record whose NEXT is 0. -/
def State.chainOn (s : State) (q next : Nat) : State :=
  if next = 0 then s.entryDone q
  else s.updLive q (fun l => { l with exps := match l.exps with
    | y :: t => { y with nextRec := next } :: t
    | [] => [] })

/-- CHAIN_ENTRY: the chain's next record is dispatched once the launcher's shadow bank is free; the entry ends with its last
record (R253, R255). -/
def execChainEntry (q : Nat) (s : State) : Host.Outcome State Fault Refusal :=
  onEntry 1 q (fun s e x =>
    let n := 8 * e.home + e.fepn
    let m := recordSpan s e.polder x.nextRec
    if (s.fep n).shadow.isSome || qMoving s e.home e.polder x.nextRec || qMoving s e.home e.polder (x.nextRec + m - 1) then s
    else
      match memRecord s e.polder x.nextRec with
      | none => s.recfault q
      | some (go, next, regs) => ((qTouchFor s q e.polder x.nextRec m).offer n q e go regs).chainOn q next) s

/-- SWAIT_ENTRY: the queue goes on when the signal word is at least VAL, and waits otherwise. -/
def execSwaitEntry (q : Nat) (s : State) : Host.Outcome State Fault Refusal :=
  onEntry 2 q (fun s e x =>
    if qMoving s e.home e.polder x.addr then s
    else
      match signalWord s e.polder x.addr with
      | none => s.recfault q
      | some v =>
        let s := qTouchFor s q e.polder x.addr 8
        if x.val ≤ v then s.entryDone q else s.updQcb q (fun e => { e with st := .waiting })) s

/-- QUEUE_SIGNAL: the signal word of a WAITING queue meets the condition (R251). -/
def execQueueSignal (q : Nat) (s : State) : Host.Outcome State Fault Refusal :=
  .next (
    match (s.live q).exps with
    | [] => s
    | _ :: _ =>
      let s := s.qFill q
      match (s.live q).exps, (s.qcb q).st with
      | x :: _, .waiting =>
        if qMoving s (s.qcb q).home (s.qcb q).polder x.addr then s
        else
          match signalWord s (s.qcb q).polder x.addr with
          | none => s.recfault q
          | some v =>
            let s := qTouchFor s q (s.qcb q).polder x.addr 8
            if x.val ≤ v then (s.updQcb q (fun e => { e with st := .active })).entryDone q else s
      | _, _ => s)

/-- SWRITE_ENTRY: the value is written once every earlier operator of the queue has retired. -/
def execSwriteEntry (q : Nat) (s : State) : Host.Outcome State Fault Refusal :=
  onEntry 3 q (fun s e x =>
    if (s.live q).unret ≠ 0 || qMoving s e.home e.polder x.addr then s
    else
      match writeSignal s e x.addr x.val with
      | none => s.recfault q
      | some s => s.entryDone q) s

/-- FENCE_ENTRY: expansion goes on once every earlier operator of the queue has retired. -/
def execFenceEntry (q : Nat) (s : State) : Host.Outcome State Fault Refusal :=
  onEntry 4 q (fun s _ _ => if (s.live q).unret ≠ 0 then s else s.entryDone q) s

/-- OPERATOR_ACTIVATE (R255). -/
def execOperatorActivate (n : Nat) (s : State) : Host.Outcome State Fault Refusal :=
  .next (if n < 32 && !s.inReset then s.activate n else s)

/-! Notices (R362, R363). -/

/-- The 64 bytes of a notice; TIDE is that of the step that writes it. -/
def noticeBytes (s : State) (n : Notice) : List Byte :=
  field 1 n.cause ++ field 1 n.stat ++ field 1 n.polder ++ field 1 n.fep ++ field 4 n.qidx ++ field 4 n.head ++ field 4 n.tail
  ++ field 8 n.retired ++ field 8 s.tide ++ field 2 n.island ++ field 30 0

/-- Bytes written to host memory. -/
def putHost : Nat → List Byte → Map Byte → Map Byte
  | _, [], m => m
  | a, b :: t, m => putHost (a + 1) t (Map.set 0 m (a % 2 ^ 64) b)

/-- NOTICE_WRITE: a waiting notice of an FEP is written to the ring while the host link carries it and the ring has room; PROD
follows in the next step (`State.prodUp`), before which no other notice is written. -/
def execNoticeWrite (fep : Nat) (s : State) : Host.Outcome State Fault Refusal :=
  .next (
    match s.notices.find? (fun n => n.fep == fep), s.nrWritten with
    | some n, none =>
      if !s.hostIn || decide (2 ^ s.nringLog2.toNat ≤ (s.nrProd - s.nrCons).toNat) then s
      else
        let a := s.nringBase.toNat * 4096 + 64 * (s.nrProd.toNat % 2 ^ s.nringLog2.toNat)
        { s with hostMem := putHost a (noticeBytes s n) s.hostMem, nrWritten := some n, notices := s.notices.erase n }
    | _, _ => s)

end Sys2Proof.Machine
end

