-- ==== Sys2Proof/Machine/FepWords.lean ====
section
/-! DEFINITION. The Xnim words of a front-end processor (R256 to R262). -/

namespace Sys2Proof.Machine

/-- x[r] of the front-end processor that runs. -/
def State.fx (s : State) (r : BitVec 5) : Word := (s.fep s.curFep).get r

/-- The word retires: x[rd] is written and the pc goes on. -/
def State.fepRetire (s : State) (rd : BitVec 5) (v : Word) : State :=
  s.updFep s.curFep (fun f => { f.set rd v with pc := f.pc + 4 })

/-- The QCB exists and its HOME and FEPN name the front-end processor that runs (R257). -/
def State.servesQ (s : State) (q : Nat) : Bool :=
  decide (q < 2 ^ 20) && match s.cached q with
    | some (_, e) => decide (8 * e.home + e.fepn = s.curFep)
    | none => decide (8 * (s.readLE (s.qPriv q + 1) 1 % 4) + s.readLE (s.qPriv q + 2) 1 % 8 = s.curFep)

/-- Bytes written to the local memory of a front-end processor. -/
def fepPut : Nat → List Byte → Map Byte → Map Byte
  | _, [], m => m
  | a, b :: t, m => fepPut (a + 1) t (Map.set 0 m (a % 2 ^ 64) b)

/-- Bytes of the local memory of a front-end processor. -/
def fepBytes (f : Fep) (a n : Nat) : List Byte := (List.range n).map (fun i => Map.get 0 f.mem ((a + i) % 2 ^ 64))

/-- A word of CSRRW, CSRRS or CSRRC, or of one of their immediate forms, that names xnimq (R258): its new value, if it is written.
The forms are those of the RISC-V standard (notes/assumptions/95.md). -/
def xnimqNew (f : Fep) (w : Nat) : Option (BitVec 20) :=
  let rs1 := bitsOf w 19 15
  let v : BitVec 20 := if bitsOf w 14 14 = 1 then .ofNat 20 rs1 else .ofNat 20 (f.get (.ofNat 5 rs1)).toNat
  match bitsOf w 13 12 with
  | 1 => some v
  | 2 => if rs1 = 0 then none else some (f.xnimq ||| v)
  | _ => if rs1 = 0 then none else some (f.xnimq &&& ~~~v)

/-- The word reads and writes xnimq by its number, 0x7C0. -/
def isXnimq (w : Nat) : Bool := decide (w % 128 = 0x73) && decide (bitsOf w 31 20 = 0x7C0) && decide (bitsOf w 13 12 ≠ 0)

/-- A CSR word that names xnimq retires: rd takes the old value. -/
def State.fepCsr (s : State) (w : Nat) : State :=
  let f := s.fep s.curFep
  (s.updFep s.curFep (fun f => { f with xnimq := (xnimqNew f w).getD f.xnimq })).fepRetire (.ofNat 5 (bitsOf w 11 7))
    (.ofNat 64 f.xnimq.toNat)

/-- rfetch (R259). -/
def execRfetch (rd rs1 rs2 : BitVec 5) (s : State) : Host.Outcome State Fault Refusal :=
  .next (
    let n := s.curFep
    let q := (s.fx rs1).toNat
    let dst := (s.fx rs2).toNat
    if !s.servesQ q then s.fepTrap n 24 q
    else if dst % 64 ≠ 0 then s.fepTrap n 6 dst
    else
      let s := s.qFill q
      let e := s.qcb q
      let named (s : State) : State := s.updFep n (fun f => { f with xnimq := .ofNat 20 q })
      if e.st ≠ .active || decide (e.head = e.tail) then (named s).fepRetire rd 0
      else
        let va := e.ring + 64 * (e.head.toNat % 2 ^ e.log2)
        if qMoving s e.home e.polder va then s else
        match (if va % 64 = 0 then qLoad s e.polder true va 64 else none) with
        | none => (s.updLive q (fun l => { l with faulted := true })).fepTrap n 25 va
        | some b =>
          let s := (qTouchFor s q e.polder va 64).updQcb q (fun e => { e with head := e.head + 1, fetched := e.fetched + 1 })
          let s := s.updLive q (fun l => { l with exps := l.exps ++ [parseEntry b], faulted := false })
          let s := (named s).updFep n (fun f => { f with mem := fepPut dst b f.mem })
          s.fepRetire rd (.ofNat 64 (e.tail - e.head).toNat))

/-- bfx (R260). -/
def execBfx (rd rs1 rs2 : BitVec 5) (s : State) : Host.Outcome State Fault Refusal :=
  .next (
    let b := (s.fx rs2).toNat
    let pos := bitsOf b 5 0
    let len := bitsOf b 14 8
    if len = 0 || decide (64 < len) || decide (64 < pos + len) then s.fepTrap s.curFep 26 b
    else s.fepRetire rd (.ofNat 64 ((s.fx rs1).toNat / 2 ^ pos % 2 ^ len)))

/-- swait (R258, R261): the word waits while its signal word is less than x[rs2]. -/
def execSwait (rd rs1 rs2 : BitVec 5) (s : State) : Host.Outcome State Fault Refusal :=
  .next (
    let a := (s.fx rs1).toNat
    let q := (s.fep s.curFep).xnimq.toNat
    let s := s.qFill q
    let polder := (s.qcb q).polder
    if qMoving s (s.curFep / 8) polder a then s
    else
      match signalWord s polder a with
      | none => s.fepTrap s.curFep 27 a
      | some v =>
        let s := qTouchFor s q polder a 8
        if (s.fx rs2).toNat ≤ v then s.fepRetire rd (.ofNat 64 v) else s)

/-- A record of the local memory of a front-end processor. -/
def localRecord (f : Fep) (a : Nat) : Option (Bool × Nat × Map Word) :=
  let hd := fepBytes f a 16
  let nw := leOf (hd.take 1)
  if a % 16 ≠ 0 || !nwOk nw then none else parseRecord hd (recordWrites nw (fepBytes f (a + 16) (16 * nw)))

/-- The entry at the head of a queue's expansion is a CHAIN. -/
def QLive.chaining (l : QLive) : Bool :=
  match l.exps with
  | x :: _ => decide (x.kind = 1)
  | [] => false

/-- dispatch (R262). While a CHAIN entry of the queue is in expansion, the record counts as that chain's next one
(notes/assumptions/57.md). -/
def execDispatch (rd rs1 rs2 : BitVec 5) (s : State) : Host.Outcome State Fault Refusal :=
  .next (
    let n := s.curFep
    let q := (s.fx rs2).toNat
    let a := (s.fx rs1).toNat
    if !s.servesQ q then s.fepTrap n 24 q
    else
      let s := s.qFill q
      let e := s.qcb q
      if e.st ≠ .active then s.fepTrap n 29 q
      else if (s.fep n).shadow.isSome then s.fepRetire rd 1
      else
        match localRecord (s.fep n) a with
        | none => s.fepTrap n 28 a
        | some (go, next, regs) =>
          let u := s.offer n q e go regs
          ((if (s.live q).chaining then u.chainOn q next else u).updFep n (fun f => { f with xnimq := .ofNat 20 q })).fepRetire rd 0)

end Sys2Proof.Machine
end

