-- ==== Sys2Proof/Machine/Group.lean ====
section
/-! DEFINITION. Groups: stage evaluation, placement, retirement, images, restores and thermal migration (R277, R280 to R290,
R357, R367). -/

namespace Sys2Proof.Machine

/-! Stages (R277). -/

/-- The physical address of a stage's ring, which must be one. -/
def ringAt (s : State) (r : Region) (va : Nat) : Option Nat :=
  match s.feAddr r.polder va with
  | some pa => if va ≠ 0 && decide (s.kind pa = 1) then some pa else none
  | none => none

/-- The sum of the targets of the stages. -/
def targets (r : Region) : Nat := (r.stages.map (·.target)).foldl (· + ·) 0

/-- Changes a stage of a region. -/
def Region.updStage (r : Region) (i : Nat) (f : Stage → Stage) : Region := { r with stages := r.stages.modify i f }

/-- Some group of a stage is blocked at rwaite on a ring. -/
def blockedOn (s : State) (rk stage pa : Nat) : Bool :=
  s.banks.any (fun kb =>
    let c := s.ctx kb.1 kb.2
    c.st ≠ .empty && decide (c.group.region = rk) && decide (c.group.stage = stage)
      && (s.obj pa).waiters.any (fun w => w.oid == c.oid && match w.w with
          | .rwaite .. => true
          | _ => false))

/-- The evaluation of one stage. -/
def evalStage (s : State) (rk i : Nat) : State :=
  let r := s.region rk
  let g := r.stages.getD i {}
  let full := match ringAt s r g.inRing with
    | some pa => s.ringFull pa
    | none => false
  let r := if full && decide (g.target < g.maxc) && decide (targets r < r.maxc) then r.updStage i (fun g => { g with target := g.target + 1 })
    else r
  let short := match ringAt s r g.outRing with
    | some pa => blockedOn s rk i pa
    | none => false
  let r := if short then r.updStage i (fun g => { g with target := max g.minc (g.target - 1) }) else r
  { s with regions := Map.put s.regions rk r }

/-- Every stage, in ascending order. -/
def evalStages (rk : Nat) : List Nat → State → State
  | [], s => s
  | i :: t, s => evalStages rk t (evalStage s rk i)

/-- STAGE_EVALUATION: every 65,536 ticks the targets of a RUNNING region are raised or lowered (R277). -/
def execStageEvaluation (rk : Nat) (s : State) : Host.Outcome State Fault Refusal :=
  .next (
    let r := s.region rk
    if r.st ≠ .running || decide (s.islandTime (frontIsland r.terp) < r.evalAt) then s
    else (evalStages rk (List.range r.stages.length) s).updRegion rk (fun r => { r with evalAt := r.evalAt + 65536 }))

/-- The position of a stage that is next to be placed: a returned one first, else NEXT (R277, R286). -/
def Region.nextOf (r : Region) (i : Nat) : Option Returned :=
  match r.returned.find? (fun p => p.stage == i) with
  | some p => some p
  | none =>
    let g := r.stages.getD i {}
    if g.next < g.count then some { stage := i, gidx := g.next, begin := 0, grun := 0 } else none

/-- The stage's input allows a group: no ring, a filled slot, or producers that are done (R277). -/
def inputReady (s : State) (rk i : Nat) : Bool :=
  let r := s.region rk
  let g := r.stages.getD i {}
  decide (g.inRing = 0)
  || (match ringAt s r g.inRing with
      | some pa => decide (s.pub pa ≠ s.fre pa)
      | none => false)
  || (List.range r.stages.length).all (fun j =>
      decide ((r.stages.getD j {}).outRing ≠ g.inRing) || (r.gridPlaced j && decide (s.placedStage rk j = 0)))

/-- The stage has a ready group and holds fewer than it should (R271, R277). -/
def State.wantsGroup (s : State) (rk i : Nat) : Bool :=
  let r := s.region rk
  let g := r.stages.getD i {}
  let h := s.placedStage rk i
  decide (r.st = .running) && decide (i < r.stages.length) && decide (h < max g.target 1) && decide (h < g.maxc)
    && (r.nextOf i).isSome && inputReady s rk i && !s.saved.any (fun v => v.ctx.group.region == rk && v.ctx.group.stage == i)

/-! Fitting cores (R283, R284). -/

/-- What a group needs of a core. -/
structure Need where
  banks : BitVec 24
  culs : List Nat
deriving DecidableEq, Repr

/-- Two lists of declared culverts share no index. -/
def culsApart (a b : List Nat) : Bool := (List.range 4).all (fun i => decide (a.getD i 0 = 0) || decide (b.getD i 0 = 0))

/-- The region has room for one more placed group, `own` of which is the group itself. -/
def State.regionRoom (s : State) (rk own : Nat) : Bool := decide ((s.placedOf rk).length < (s.region rk).maxc + own)

/-- A core fits a group of a region (R283), but for the region's own room. -/
def State.coreFits (s : State) (rk : Nat) (n : Need) (k : Nat) : Bool :=
  let r := s.region rk
  let co := s.core k
  let apart (c : Ctx) : Bool := decide (c.st = .empty) || (decide (c.bankSet &&& n.banks = 0) && culsApart c.culs n.culs)
  decide (terpOf k = r.terp) && s.holdsCluster r.polder (clusterOf k) && (decide (co.a.st = .empty) || decide (co.b.st = .empty))
    && apart co.a && apart co.b && !co.migReq && !co.excluded

/-- A core holds no context. -/
def Core.vacant (c : Core) : Bool := decide (c.a.st = .empty) && decide (c.b.st = .empty)

/-- The core that R283 takes among some: the first that holds no context, else the first. -/
def pickCore (s : State) (l : List Nat) : Option Nat :=
  match l.find? (fun k => (s.core k).vacant) with
  | some k => some k
  | none => l.head?

/-- The core for a group of a region. -/
def State.coreFor (s : State) (rk : Nat) (n : Need) : Option Nat := pickCore s ((List.range 128).filter (s.coreFits rk n))

/-- The bank of a core that takes a group, and the state of the context there (R231, R284): the active bank of a core that holds
no other context, else its shadow bank. While a swap is in progress the banks count as it leaves them. None while the bank that
is to be active stands empty beside a context that is still to be swapped in. -/
def State.slotFor (s : State) (k : Nat) : Option (Bool × CtxState) :=
  let co := s.core k
  let active := if co.swapEnd.isSome then !co.activeB else co.activeB
  if co.vacant then some (active, if co.swapEnd.isSome then .swapping else .running)
  else if (co.ctx (!active)).st = .empty then some (!active, .parked)
  else none

/-- The lowest free lcore of a region. -/
def Region.freeLcore (r : Region) : Nat := ((List.range (r.remap.length + 1)).find? (fun l => (Map.find r.remap l).isNone)).getD 0

/-- The remap entry that names a core and bank (R15). -/
def remapTo (k : Nat) (bank : Bool) : Nat := 2 * k + (if bank then 1 else 0)

/-! Placement (R284). -/

/-- A group descriptor as a placement reads it (R280): its entry addresses, and its context's fixed part. -/
def descCtx (s : State) (polder d : Nat) : Ctx :=
  let ent (i : Nat) : BitVec 56 := .ofNat 56 (s.feRead polder (d + 8 * i) 8)
  let banks := s.feRead polder (d + 32) 4
  { seqC := { pc := ent 0 }, seqL := { pc := ent 1 }, seqE := { pc := ent 2 }, seqS := { pc := ent 3 },
    bankSet := .ofNat 24 banks, persist := banks.testBit 24, save := s.feRead polder (d + 136) 8,
    rects := (List.range (s.feRead polder (d + 36) 1)).map (rectAt s polder d),
    culs := (List.range 4).map (fun i => 16 * s.feRead polder (d + 38 + i) 1) }

/-- A core as a placement sets it up: BFMT of the bank set, and the declared culverts made empty. -/
def openCore (s : State) (polder d : Nat) (c : Ctx) (co : Core) : Core :=
  { co with
    bfmt := (List.range 24).foldl (fun m i =>
      if c.bankSet.getLsbD i then Map.put m i (.ofNat 32 (s.feRead polder (d + 48 + i) 1 % 32)) else m) co.bfmt,
    cul := (List.range 4).foldl (fun m i =>
      if c.culs.getD i 0 ≠ 0 then Map.put m i { size := c.culs.getD i 0, entries := [] } else m) co.cul }

/-- Places a position of a stage on a core. -/
def State.place (s : State) (rk : Nat) (p : Returned) (d k : Nat) (bank : Bool) (st : CtxState) : State :=
  let r := s.region rk
  let fresh := !r.returned.contains p
  let base := descCtx s r.polder d
  let lc := r.freeLcore
  let g := r.stages.getD p.stage {}
  let c : Ctx :=
    { base with
      st := st, was := if st = .swapping then .parked else .empty, rarg := r.arg, gidx := .ofNat 24 p.gidx, gcnt := .ofNat 24 g.count,
      stgn := .ofNat 4 p.stage, grun := if p.grun = 65535 then 65535 else p.grun + 1, lcore := .ofNat 16 lc,
      group := { region := rk, stage := p.stage, gidx := p.gidx }, oid := s.nextId, begin := if fresh then s.tide else p.begin,
      snap := s.tide, polder := r.polder, owner := r.owner, tier := r.tier }
  let s := { s with nextId := s.nextId + 1 }
  let s := (s.updCore k (openCore s r.polder d c)).setCtx k bank c
  let s := s.updRegion rk (fun r =>
    { (if fresh then r.updStage p.stage (fun g => { g with next := g.next + 1 }) else { r with returned := r.returned.erase p })
      with remap := Map.put r.remap lc (remapTo k bank) })
  if fresh then s.writeNext r p.stage (p.gidx + 1) else s

/-- What a stage's groups need. -/
def stageNeed (s : State) (rk i : Nat) : Need :=
  let r := s.region rk
  let c := descCtx s r.polder (r.stages.getD i {}).gdesc
  { banks := c.bankSet, culs := c.culs }

/-- A stage of a higher number wants a group that fits somewhere: it is served first (R277). -/
def laterServed (s : State) (rk i : Nat) : Bool :=
  (List.range (s.region rk).stages.length).any (fun j =>
    decide (i < j) && s.wantsGroup rk j && (s.coreFor rk (stageNeed s rk j)).isSome)

/-- GROUP_PLACE: the next ready position of a stage is placed on a fitting core (R277, R283, R284). -/
def execGroupPlace (rk stage : Nat) (s : State) : Host.Outcome State Fault Refusal :=
  .next (
    if !s.wantsGroup rk stage || !s.regionRoom rk 0 || laterServed s rk stage || s.inReset then s
    else
      match (s.region rk).nextOf stage, s.coreFor rk (stageNeed s rk stage) with
      | some p, some k =>
        if !s.islandOn (coreIsland k) then s else
        match s.slotFor k with
        | some (b, st) => s.place rk p ((s.region rk).stages.getD stage {}).gdesc k b st
        | none => s
      | _, _ => s)

/-! Retirement (R153, R279, R290). -/

/-- Every sequencer of a context has stopped. -/
def Ctx.allStopped (c : Ctx) : Bool := streams.all (fun st => (c.seq st).stopped)

/-- The conditions of R153 hold, and no trap waits to be taken. -/
def State.retireReady (s : State) (k : Nat) (bank : Bool) : Bool :=
  let c := s.ctx k bank
  (decide (c.st = .running) || decide (c.st = .parked)) && c.allStopped && (c.retiring || s.lineUp c) && c.traps.isEmpty
    && streams.all (fun st => (stripIb (c.seq st).ib).isEmpty) && !(s.core k).sb.any (fun e => e.oid == c.oid)
    && !s.cmds.any (fun e => e.2.oid == c.oid) && decide (c.mxOut = 0) && c.redirects.isEmpty

/-- The ABORT_LINE records of the sequencers that stopped while blocked, in the order C, L, E, S, as the fault queue has room
(R279). -/
def abortRecords (k : Nat) (bank : Bool) : List Stream → State → State
  | [], s => s
  | st :: t, s =>
    let c := s.ctx k bank
    if !(c.seq st).blockedAtAbort then abortRecords k bank t s
    else if s.recordRoom c.group.region then
      abortRecords k bank t ((s.writeRecord c.group.region
        (recordBytes s k bank c { cause := .abortLine, async := true, st := st } 0)).updCtx k bank (fun c =>
          c.updSeq st (fun q => { q with blockedAtAbort := false })))
    else s

/-- The retirement step: the commit, RETG, RETIRED, the watchdog, and the bank becomes EMPTY (R113, R282). -/
def State.retire (s : State) (k : Nat) (bank : Bool) : State :=
  let c := s.ctx k bank
  let rk := c.group.region
  let r := s.region rk
  let s := s.commit (.group c.oid) (fun _ => true)
  let s := s.freeCtx k bank
  let s := s.updRegion rk (fun r => { r with retg := r.retg + 1 })
  let s := s.feWrite r.polder (r.guest + 64) (leBytes 8 (r.retg + 1))
  let s := match r.queue with
    | some q => ((s.qFill q).updQcb q (fun e => { e with retired := e.retired + 1 })).updLive q (fun l => { l with wd := 0 })
    | none => s
  let s := s.updCore k (fun co => { co with excluded := co.excluded || (co.migReq && !c.persist) })
  s.haltTree rk

/-- A retirement that is ready can take place: the core's island takes cycles, and the accesses to the region's tables are not
held (R312, R351). -/
def State.retires (s : State) (k : Nat) (bank : Bool) : Bool :=
  s.retireReady k bank && s.islandOn (coreIsland k) && !s.guestHeld (s.ctx k bank).group.region

/-- GROUP_RETIRE. -/
def execGroupRetire (k bank : Nat) (s : State) : Host.Outcome State Fault Refusal :=
  .next (
    let b := decide (bank = 1)
    if !s.retires k b then s
    else
      let s := abortRecords k b streams s
      if streams.any (fun st => ((s.ctx k b).seq st).blockedAtAbort) then s else s.retire k b)

/-! Boundaries (R287 to R289). -/

/-- C proceeds with the word after its YIELD. -/
def Ctx.passYield (c : Ctx) : Ctx :=
  { c with boundary := false, seqC := { c.seqC with pc := c.seqC.pc + 4, held := .none } }

/-- The E-cycles that a context remembers, moved from one count to another. -/
def Ctx.rebase (c : Ctx) (from_ into : Nat) : Ctx :=
  let mv (n : Nat) : Nat := into + (n - from_)
  streams.foldl (fun c st => c.updSeq st (fun q => { q with next := mv q.next }))
    { c with wfNext := c.wfNext.map (fun e => (mv e.1, e.2)), eventAt := mv c.eventAt }

/-- The slice lies in a group's allocation (R285). -/
def allocated (rs : List Rect) (pos : Nat) : Bool :=
  rs.any (fun r => decide (r.row0 ≤ pos / 128) && decide (pos / 128 < r.row0 + r.nrows) && decide (r.slc0 ≤ pos % 128)
    && decide (pos % 128 < r.slc0 + r.nslc))

/-- A context as an image or a move carries it: without the W slices outside its allocation (R285). -/
def Ctx.carried (c : Ctx) : Ctx :=
  { c with w := c.w.filter (fun e => allocated c.rects e.1), wPoison := c.wPoison.filter (fun m => allocated c.rects (markOf m)) }

/-- A scratchpad offset lies in a bank of a set. -/
def inBanks (set : BitVec 24) (off : Nat) : Bool := set.getLsbD (off / 32768)

/-- What an image or a move takes from a core with a context: its banks, their marks, its culverts, its BFMT values. -/
def Core.share (co : Core) (c : Ctx) : Map Byte × List Nat × Map Culvert × Map (BitVec 32) :=
  (co.sp.filter (fun e => inBanks c.bankSet e.1), co.spPoison.filter (fun l => inBanks c.bankSet (128 * markOf l)),
   co.cul.filter (fun e => decide (c.culs.getD e.1 0 ≠ 0)), co.bfmt.filter (fun e => c.bankSet.getLsbD e.1))

/-- Lists entries of one map over another. -/
def overMap {α : Type} (new old : Map α) : Map α := new.foldl (fun m e => Map.put m e.1 e.2) old

/-- A core takes what `share` carried. -/
def Core.receive (co : Core) (c : Ctx) (x : Map Byte × List Nat × Map Culvert × Map (BitVec 32)) : Core :=
  { co with
    sp := overMap x.1 (co.sp.filter (fun e => !inBanks c.bankSet e.1)),
    spPoison := x.2.1 ++ co.spPoison.filter (fun l => !inBanks c.bankSet (128 * markOf l)),
    cul := overMap x.2.2.1 co.cul,
    bfmt := overMap x.2.2.2 (co.bfmt.filter (fun e => !c.bankSet.getLsbD e.1)) }

/-- A bank becomes EMPTY as its context leaves it alive: its term ends, its culverts there are closed (R190, R288, R289). -/
def State.vacate (s : State) (k : Nat) (bank : Bool) : State :=
  let c := s.ctx k bank
  (s.updCore k (fun co =>
    { co with cul := (List.range 4).foldl (fun m i => if c.culs.getD i 0 ≠ 0 then Map.put m i {} else m) co.cul })).setCtx k bank {}

/-- A context stands at the boundary that it was offered, and its stores have drained (R282, R287, R288). -/
def State.atBoundary (s : State) (k : Nat) : Bool :=
  let c := s.act k
  s.coreTakes k && decide (c.st = .running) && c.boundary && !s.lineUp c && c.traps.isEmpty
    && !(s.core k).sb.any (fun e => e.oid == c.oid)

/-- The polder's slice has ended and the group can be saved (R281, R287). -/
def State.preempts (s : State) (c : Ctx) : Bool := decide ((s.region c.group.region).st = .preempted) && decide (c.save ≠ 0)

/-- The save area of a grid position holds an image: 64 KiB in the region's polder, of no architectural layout (R281). -/
def State.writeImage (s : State) (c : Ctx) : State :=
  let p := (s.region c.group.region).polder
  let at_ := c.save + 65536 * c.group.gidx
  let n := 65536 - at_ % 65536
  let b := (List.range 65536).map (Config.image s.fresh)
  (s.bump.feWrite p at_ (b.take n)).feWrite p (at_ + n) (b.drop n)

/-- The front end's accesses to the save area of a position are held (R312, R351). -/
def State.imageHeld (s : State) (r : Region) (c : Ctx) : Bool :=
  s.feHolds r.terp r.polder [(c.save + 65536 * c.group.gidx, 65536)]

/-- PREEMPT: the group's image is saved and its bank becomes EMPTY (R288). -/
def execPreempt (k : Nat) (s : State) : Host.Outcome State Fault Refusal :=
  .next (
    let b := s.bank k
    if !s.atBoundary k || !s.preempts (s.act k) || s.imageHeld (s.region (s.act k).group.region) (s.act k) then s
    else
      let s := s.leaveArray k
      let c := (s.ctx k b).carried
      let x := (s.core k).share c
      let s := s.dropWaiters c.oid
      let image : Saved := { group := c.group, ctx := { (c.passYield.rebase (s.core k).cyc 0) with st := .parked }, sp := x.1,
                             spPoison := x.2.1, cul := x.2.2.1, bfmt := x.2.2.2 }
      let s := { s with saved := s.saved ++ [image] }
      let s := s.updRegion c.group.region (fun r => { r with remap := Map.del r.remap c.lcore.toNat })
      (s.vacate k b).writeImage c)

/-- The commands of a saved group whose next step, or the next step of whose end, is held for its image (R288). -/
def restoringOf (s : State) (oid : Nat) : List Nat :=
  (s.cmds.filter (fun e =>
    let c := e.2
    decide (c.oid = oid) && c.started && !c.killed && !c.susp && match c.ending with
      | .running => c.wait.isNone && heldForImage s c (stepPlan s c)
      | .heldArrival => false
      | .stepped => decide (c.unacked = 0)
      | _ => true)).map (·.1)

/-- GROUP_RESTORE: a SAVED position is restored to a fitting core, the lowest GIDX of its stage first (R288). -/
def execGroupRestore (rk stage gidx : Nat) (s : State) : Host.Outcome State Fault Refusal :=
  .next (
    let r := s.region rk
    match s.saved.find? (fun v => decide (v.ctx.group = { region := rk, stage := stage, gidx := gidx })) with
    | none => s
    | some v =>
      let first := !s.saved.any (fun u => u.ctx.group.region == rk && u.ctx.group.stage == stage && decide (u.ctx.group.gidx < gidx))
      if !first || (decide (r.st ≠ .running) && decide (r.st ≠ .aborting)) || !s.regionRoom rk 1
          || s.imageHeld r v.ctx then s
      else
        match s.coreFor rk { banks := v.ctx.bankSet, culs := v.ctx.culs } with
        | none => s
        | some k =>
          if !s.islandOn (coreIsland k) then s else
          match s.slotFor k with
          | none => s
          | some (b, st) =>
            let lc := r.freeLcore
            let c := v.ctx.rebase 0 (s.core k).cyc
            let c := { c with st := st, was := if st = .swapping then .parked else .empty, lcore := .ofNat 16 lc,
                              restoring := restoringOf s c.oid,
                              grun := if c.grun = 65535 then 65535 else c.grun + 1 }
            let s := { s with saved := s.saved.erase v }
            let s := (s.updCore k (fun co => co.receive c (v.sp, v.spPoison, v.cul, v.bfmt))).setCtx k b c
            s.updRegion rk (fun r => { r with remap := Map.put r.remap lc (remapTo k b) }))

/-! Heat (R289, R290, R357, R366, R367). -/

/-- The override of a terp names the core and is in force (R366). -/
def State.overridden (s : State) (k : Nat) : Bool :=
  let t := s.terp (terpOf k)
  t.ovEn && decide (t.ovCore.toNat = k)

/-- The reading of a core as the thermal logic uses it: the forced one, or that of its own sensor at this step, which is free (R357,
R366, notes/assumptions/6.md). -/
def State.reading (s : State) (k : Nat) : Nat :=
  if s.overridden k then (s.terp (terpOf k)).ovTemp.toNat else Config.sensor s.fresh k

/-- SENSOVR's READ: the reading of core CORE, and the reset value while CORE names none of the terp's (R366). -/
def State.ovRead (s : State) (t : Nat) : Nat :=
  let k := (s.terp t).ovCore.toNat
  if terpOf k = t then s.reading k % 256 else 0

/-- The thermal logic judges a core by a reading: TMIG or above raises its migration request, below TREL it is withdrawn and
the core's exclusion ends (R290, R357). -/
def State.judge (s : State) (k r : Nat) : State :=
  let t := s.terp (terpOf k)
  s.updCore k (fun co =>
    if t.tmig.toNat ≤ r then { co with migReq := true }
    else if r < t.trel.toNat then { co with migReq := false, excluded := false }
    else co)

/-- The thermal logic judges a core by its reading as it now is. -/
def State.heat (s : State) (k : Nat) : State := s.judge k (s.reading k)

/-- A core's own sensor reports a reading, which an override of the core ignores (R366). -/
def State.sense (s : State) (k r : Nat) : State := if s.overridden k then s else s.judge k r

/-- MIGRATION_REQUEST: a core's own sensor rises to TMIG or above. -/
def execMigrationRequest (k reading : Nat) (s : State) : Host.Outcome State Fault Refusal :=
  .next (if k < 128 && decide ((s.terp (terpOf k)).tmig.toNat ≤ reading) then s.sense k reading else s)

/-- THERMAL_RELEASE: a core's own sensor falls below TREL. -/
def execThermalRelease (k reading : Nat) (s : State) : Host.Outcome State Fault Refusal :=
  .next (if k < 128 && decide (reading < (s.terp (terpOf k)).trel.toNat) then s.sense k reading else s)

/-- The coolest of some cores, the earlier one of equals. -/
def coolest (s : State) : List Nat → Option Nat
  | [] => none
  | k :: t =>
    match coolest s t with
    | some j => if s.reading j < s.reading k then some j else some k
    | none => some k

/-- The destination of a move (R289): the coolest fitting core below the threshold, in R283's order among equals. -/
def State.moveTarget (s : State) (k : Nat) : Option Nat :=
  let c := s.act k
  let rk := c.group.region
  let stays := c.culs.any (· != 0)
  let fit := (List.range 128).filter (fun j =>
    decide (j ≠ k) && s.coreFits rk { banks := c.bankSet, culs := c.culs } j && (!stays || decide (clusterOf j = clusterOf k))
    && decide (s.reading j < (s.terp (terpOf j)).tmig.toNat))
  if s.regionRoom rk 1 then coolest s (fit.filter (fun j => (s.core j).vacant) ++ fit.filter (fun j => !(s.core j).vacant)) else none

/-- The first piece of some ranges, cut by lines, that lies in the scratchpad window (R206). -/
def windowPiece (l : List (Nat × Nat)) : Option Nat := ((l.flatMap spanLines).find? (fun p => inWindow p.1)).map (·.1)

/-- The first address of a command's next step that step 1 of R289 holds: in the scratchpad of the moving context, or, for an
append to its culverts, that of the source. -/
def heldStep (s : State) (k : Nat) (bank : Bool) (c : Cmd) : Option Nat :=
  let io := stepPlan s c
  if !c.started || c.susp || c.killed || c.wait.isSome || decide (c.ending ≠ .running) then none
  else if decide (c.opc = 9) && decide (Map.find (s.region c.group.region).remap (c.hdr 47 32) = some (remapTo k bank)) then
    some (c.w 1)
  else if c.oid = (s.ctx k bank).oid then windowPiece (io.dests ++ io.reads)
  else none

/-- The MIGRATION_REDIRECT records of a move, in the order of the pushes (R367). -/
def redirectsOf (s : State) (k : Nat) (bank : Bool) : List TrapReq :=
  s.cmds.filterMap (fun e => (heldStep s k bank e.2).map (fun a =>
    { cause := .migrationRedirect, async := true, st := e.2.st, faddr := a, tag := e.2.tagField, opc := e.2.opc,
      done := e.2.done }))

/-- The context moves to another core (R289). -/
def State.migrate (s : State) (k j : Nat) (bank : Bool) (st : CtxState) : State :=
  let b := s.bank k
  let recs := redirectsOf s k b
  let s := s.leaveArray k
  let c := (s.ctx k b).carried
  let x := (s.core k).share c
  let n := (s.cmds.filter (fun e => e.2.oid == c.oid && e.2.cnt == k)).length
  let s := s.vacate k b
  let c := { (c.passYield.rebase (s.core k).cyc (s.core j).cyc) with
             st := st, was := if st = .swapping then .parked else .empty, redirects := recs }
  let s := (s.updCore j (fun co => { co.receive c x with inflight := co.inflight + n })).setCtx j bank c
  let s := s.updCore k (fun co => { co with inflight := co.inflight - n })
  let s := { s with cmds := s.cmds.map (fun (e : Nat × Cmd) => (e.1, if e.2.oid == c.oid && e.2.cnt == k then { e.2 with cnt := j } else e.2)) }
  let s := s.updRegion c.group.region (fun r => { r with remap := Map.put r.remap c.lcore.toNat (remapTo j bank) })
  writeRedirects j bank recs s

/-- THERMAL_MIGRATION: at a YIELD the context moves to the coolest fitting core, or goes on where none fits (R289). -/
def execThermalMigration (k : Nat) (s : State) : Host.Outcome State Fault Refusal :=
  .next (
    if !s.atBoundary k || s.preempts (s.act k) || !(s.core k).migReq then s
    else
      let s := s.bump
      match s.moveTarget k with
      | none => s.updAct k Ctx.passYield
      | some j =>
        if !s.islandOn (coreIsland j) then s else
        match s.slotFor j with
        | some (b, st) => s.migrate k j b st
        | none => s)

end Sys2Proof.Machine
end

