-- ==== Sys2Proof/Machine/Levee.lean ====
section
/-! DEFINITION. The levee engine: curves, equations, verdicts, the bound mirror, and the host's requests (R333 to R345,
R353). -/

namespace Sys2Proof.Machine

/-! Figures (R333, R334, R340). -/

/-- The fixed latency of a class in ns; DLK takes TDLK. -/
def classT (cls : Nat) : Nat := [80, 45, 40, 30, 0].getD cls 0
/-- The largest unit of a class in bytes. -/
def classL (cls : Nat) : Nat := [128, 18944, 128, 128, 128].getD cls 0
/-- Ten times the capacity of a class in bytes/ns. -/
def classC10 (cls : Nat) : Nat := [120000, 4224, 4000, 20000, 800].getD cls 0

/-- An owner's path under evaluation: owner, polder, path. -/
structure Flow where
  own : Nat
  polder : Nat
  path : List PStep
deriving DecidableEq, Repr

/-- What an evaluation takes as weights: those of the polder table, with one of a polder and class replaced, and a polder
counted as on. -/
structure Weights where
  ovr : Option (Nat × Nat × Nat) := none
  on : Option Nat := none
deriving DecidableEq, Repr

/-- The polder is not OFF. -/
def State.polderOn (s : State) (w : Weights) (p : Nat) : Bool := decide (w.on = some p) || decide (s.polderSt p ≠ 0)

/-- The weight of a polder at DRAM or FAB. -/
def State.weightOf (s : State) (w : Weights) (p cls : Nat) : Nat :=
  match w.ovr with
  | some (q, c, v) => if q = p ∧ c = cls then v else s.ptField p (if cls = clsDram then 8 else 10) 2
  | none => s.ptField p (if cls = clsDram then 8 else 10) 2

/-- The polders active at DRAM or FAB (R333). -/
def State.activeAt (s : State) (w : Weights) (cls : Nat) : List Nat :=
  (List.range 16).filter (fun p => s.polderOn w p && decide (s.weightOf w p cls ≠ 0))

/-- The class is shared by weight. -/
def sharedCls (cls : Nat) : Bool := decide (cls = clsDram) || decide (cls = clsFab)

/-- R_pj in units of 2^-16/10 bytes/ns (R340). -/
def State.rate10 (s : State) (w : Weights) (p cls : Nat) : Nat :=
  if sharedCls cls then
    let act := s.activeAt w cls
    let total := (act.map (fun q => s.weightOf w q cls)).foldl (· + ·) 0
    if act.contains p then classC10 cls / 10 * 65536 * s.weightOf w p cls / total * 10 else 0
  else classC10 cls * 65536

/-- The owner holds a step at DLK with curves in force. -/
def State.holdsDlk (s : State) (p : Nat) : Bool :=
  s.owners.any (fun e => decide (e.2.polder = p) && s.inForce e.1 && e.2.path.any (fun k => decide (k.cls = clsDlk)))

/-- TDLK of a polder as an evaluation takes it (R334): frozen while the polder holds an admitted DLK step, else the largest
TLAT of its ports that are UP. -/
def State.tdlkOf (s : State) (p : Nat) : Nat :=
  if s.holdsDlk p then Map.get 0 s.tdlk p
  else (List.range 16).foldl (fun a d =>
    if decide ((s.port d).st = .up) && decide ((s.port d).pol.toNat = p) then max a (s.port d).tlat.toNat else a) 0

/-- Every evaluation sets the figures that are not frozen (R334). -/
def State.setTdlk (s : State) : State := { s with tdlk := (List.range 16).map (fun p => (p, s.tdlkOf p)) }

/-- T_pj in units of 2^-16 ns (R340). -/
def State.latency (s : State) (w : Weights) (p cls : Nat) : Nat :=
  let r := s.rate10 w p cls
  let c := classC10 cls
  let n := if sharedCls cls then (s.activeAt w cls).length else 1
  (if cls = clsDlk then s.tdlkOf p else classT cls) * 65536
    + ceilDiv (classL cls * (n - 1) * 655360 * r + classL cls * 10 * 2 ^ 32 * c) (c * r)

/-! The evaluation (R337, R340, R341). -/

/-- The key of a node. -/
def nodeKey (p cls : Nat) : Nat := 8 * p + cls

/-- The nodes that carry a step, by rising polder and class. -/
def nodesOf (fs : List Flow) : List (Nat × Nat) :=
  ((List.range 16).flatMap (fun p => (List.range 5).map (fun c => (p, c)))).filter (fun n =>
    fs.any (fun f => decide (f.polder = n.1) && f.path.any (fun k => decide (k.cls = n.2))))

/-- Sum of ρ at a node. -/
def rhoAt (fs : List Flow) (n : Nat × Nat) : Nat :=
  (fs.filter (fun f => decide (f.polder = n.1))).foldl (fun a f =>
    (f.path.filter (fun k => decide (k.cls = n.2))).foldl (fun a k => a + k.rho) a) 0

/-- The bursts of a path from the delays (R337). -/
def bursts (d : Map Nat) (p : Nat) : Option PStep → List PStep → List Nat
  | _, [] => []
  | none, k :: t => k.sigma :: bursts d p (some k) t
  | some q, k :: t => (k.sigma + ceilDiv (q.rho * Map.get 0 d (nodeKey p q.cls)) (2 ^ 32)) :: bursts d p (some k) t

/-- Sum of bursts at a node. -/
def burstAt (d : Map Nat) (fs : List Flow) (n : Nat × Nat) : Nat :=
  (fs.filter (fun f => decide (f.polder = n.1))).foldl (fun a f =>
    ((f.path.zip (bursts d f.polder none f.path)).filter (fun x => decide (x.1.cls = n.2))).foldl (fun a x => a + x.2) a) 0

/-- D_pj from the bursts that the delays `d` give (R340). -/
def State.delay (s : State) (w : Weights) (d : Map Nat) (fs : List Flow) (n : Nat × Nat) : Nat :=
  s.latency w n.1 n.2 + ceilDiv (burstAt d fs n * 10 * 2 ^ 32) (s.rate10 w n.1 n.2)

/-- Classes directly followed one by another in a path. -/
def edgesOf : List PStep → List (Nat × Nat)
  | a :: b :: t => (a.cls, b.cls) :: edgesOf (b :: t)
  | _ => []

/-- The edges of the graph (R341). -/
def graphEdges (fs : List Flow) : List ((Nat × Nat) × (Nat × Nat)) :=
  fs.flatMap (fun f => (edgesOf f.path).map (fun e => ((f.polder, e.1), (f.polder, e.2))))

/-- An order of the nodes in which every edge points forward, or none where the graph has a cycle; the fuel is the number of
nodes. -/
def forwardOrder (edges : List ((Nat × Nat) × (Nat × Nat))) : Nat → List (Nat × Nat) → Option (List (Nat × Nat))
  | _, [] => some []
  | 0, _ => none
  | f + 1, nodes =>
    match nodes.find? (fun n => !edges.any (fun e => e.2 == n && nodes.contains e.1)) with
    | none => none
    | some n => (forwardOrder edges f (nodes.filter (· != n))).map (n :: ·)

/-- The delays of a single pass in forward order. -/
def State.forwardPass (s : State) (w : Weights) (fs : List Flow) : List (Nat × Nat) → Map Nat → Map Nat
  | [], d => d
  | n :: t, d => s.forwardPass w fs t (Map.put d (nodeKey n.1 n.2) (s.delay w d fs n))

/-- The rounds of a graph with a cycle: the delays before the last round, those after it, and the rounds run; none where 16
rounds do not converge. -/
def State.rounds (s : State) (w : Weights) (fs : List Flow) (nodes : List (Nat × Nat)) : Nat → Map Nat → Option (Map Nat × Map Nat × Nat)
  | 0, _ => none
  | f + 1, d =>
    let d' : Map Nat := nodes.map (fun n => (nodeKey n.1 n.2, s.delay w d fs n))
    if nodes.all (fun n => decide (Map.get 0 d' (nodeKey n.1 n.2) < Map.get 0 d (nodeKey n.1 n.2) + 65536)) then
      some (d, d', 16 - f)
    else s.rounds w fs nodes f d'

/-- The result of an evaluation. -/
structure Eval where
  reason : Nat := 0
  /-- none names the newcomer -/
  named : Option Nat := none
  cls : Nat := 0
  excess : Nat := 0
  rounds : Nat := 0
  /-- the delays published, and those that give the bursts -/
  d : Map Nat := []
  db : Map Nat := []
  margin : Nat := 0
  computed : Bool := false
deriving DecidableEq, Repr

/-- Checks 4 and 5 of R342 with the equations. -/
def State.evaluate (s : State) (w : Weights) (fs : List Flow) : Eval :=
  let fs := fs.filter (fun f => s.polderOn w f.polder)
  let nodes := nodesOf fs
  match nodes.find? (fun n => decide (s.rate10 w n.1 n.2 = 0) || decide (s.rate10 w n.1 n.2 < 10 * rhoAt fs n)) with
  | some n =>
    let who := (fs.filter (fun f => decide (f.polder = n.1) && f.path.any (fun k => decide (k.cls = n.2)))).map (·.own)
    { reason := 3, named := some (who.foldl min 1023), cls := n.2,
      excess := ceilDiv (10 * rhoAt fs n - s.rate10 w n.1 n.2) 10, rounds := 1 }
  | none =>
    let d0 : Map Nat := nodes.map (fun n => (nodeKey n.1 n.2, s.latency w n.1 n.2))
    match forwardOrder (graphEdges fs) nodes.length nodes with
    | some order =>
      let d := s.forwardPass w fs order d0
      { rounds := 1, d := d, db := d, computed := true }
    | none =>
      match s.rounds w fs nodes 16 d0 with
      | none => { reason := 4, rounds := 16 }
      | some (db, d, n) => { rounds := n, d := d, db := db, margin := 1, computed := true }

/-- CUR of a path (R340, R341). -/
def curOf (e : Eval) (f : Flow) : Nat :=
  ceilDiv (f.path.foldl (fun a k => a + Map.get 0 e.d (nodeKey f.polder k.cls) + e.margin * 65536) 0) 65536

/-- The paths in force, of one owner replaced or added. -/
def State.flows (s : State) (new : Option Flow) : List Flow :=
  let old := (s.owners.filter (fun e => s.inForce e.1 && decide (some e.1 ≠ new.map (·.own)))).map (fun e =>
    ({ own := e.1, polder := e.2.polder, path := e.2.path } : Flow))
  match new with
  | none => old
  | some f => (old.filter (fun g => decide (g.own < f.own))) ++ [f] ++ old.filter (fun g => decide (f.own < g.own))

/-- Check 6: the first other admitted owner whose CUR exceeds its PUB, with the excess (R342). -/
def State.overBound (s : State) (w : Weights) (e : Eval) (newcomer : Option Nat) (fs : List Flow) : Option (Nat × Nat) :=
  ((fs.filter (fun f => decide (some f.own ≠ newcomer) && s.polderOn w f.polder)).find? (fun f =>
    decide ((s.owner f.own).pub < curOf e f))).map (fun f => (f.own, curOf e f - (s.owner f.own).pub))

/-! What a verdict sets. -/

/-- The depth of a sluice becomes the new burst, and its content is capped (R338). -/
def reprogram (e : Eval) (f : Flow) (full : Bool) : List PStep :=
  (f.path.zip (bursts e.db f.polder none f.path)).map (fun x =>
    { x.1 with b := x.2, d := Map.get 0 e.d (nodeKey f.polder x.1.cls),
               content := if full then x.2 * byteUnits else min x.1.content (x.2 * byteUnits) })

/-- Every CUR and every sluice of the owners evaluated (R342). -/
def State.publish (s : State) (w : Weights) (e : Eval) : List Flow → State
  | [] => s
  | f :: t =>
    (if s.polderOn w f.polder then
      s.updOwner f.own (fun o => { o with cur := curOf e f, path := reprogram e { f with path := o.path } false })
    else s).publish w e t

/-- CEIL of one engine queue (R353). -/
def State.ceilGap (s : State) (cl cls charge : Nat) : BitVec 16 :=
  let rho := (s.flows none).foldl (fun a f =>
    if s.holdsCluster f.polder cl then (f.path.filter (fun k => decide (k.cls = cls))).foldl (fun a k => a + k.rho) a else a) 0
  if rho = 0 then 0xFFFF else .ofNat 16 (min 0xFFFF (66 * charge * 65536 / (10 * rho)))

/-- Every CEIL, at each verdict (R353). -/
def State.setCeils (s : State) : State :=
  (List.range 32).foldl (fun t cl =>
    let m := s.ceilGap cl clsMxa 1024
    let c := s.ceilGap cl clsCpe 128
    if (s.cluster cl).paceM.ceil = m ∧ (s.cluster cl).paceC.ceil = c then t
    else t.updCluster cl (fun x => { x with paceM := { x.paceM with ceil := m }, paceC := { x.paceC with ceil := c } })) s

/-- The mirror entry of an owner (R344): STATE, POLDER, NSTEP, PUB, CUR. -/
def mirrorBody (s : State) (o : Nat) : Nat × Nat × Nat × Nat × Nat :=
  let e := s.owner o
  let adm := decide (e.st = .admitted)
  let code := match e.st with
    | .unassigned => 0 | .free => 1 | .evaluating => 2 | .admitted => 3
  (code, e.polder, if s.inForce o then e.path.length else 0, if adm then e.pub else 0, if adm then e.cur else 0)

/-- Writes bytes to the mirror of a polder where its pages are plain pages of the polder (R344). -/
def mirrorPieces (s : State) (p : Nat) : List (Nat × Nat) → List Byte → State
  | [], _ => s
  | (va, n) :: t, b =>
    let s' := match s.leafAddr p va with
      | some la =>
        let l := s.readLE la 8
        if leafOk s l && decide (leafPolder l = p) && !leafBit l 1 && !leafBit l 2 && !leafBit l 3 then
          s.plainWrite (leafPa l va) (b.take n)
        else s
      | none => s
    mirrorPieces s' p t (b.drop n)

/-- Writes an entry of a polder's mirror; a MIRROR of 0 names none. -/
def State.writeMirror (s : State) (p o : Nat) (b : List Byte) : State :=
  let m := s.ptField p 40 8
  if m = 0 then s else mirrorPieces s p (spanLines (m + 32 * o, 32)) b

/-- The mirror entries that changed, in a step that advances SEQ (R344). -/
def State.mirror (s : State) : List Nat → State
  | [] => s
  | o :: t =>
    let e := s.owner o
    let m := mirrorBody s o
    if e.entry = m then s.mirror t
    else
      let s := if e.entry.1 ≠ 0 ∧ e.entry.2.1 ≠ e.polder then s.writeMirror e.entry.2.1 o (List.replicate 32 0) else s
      let b := field 1 m.1 ++ field 1 m.2.1 ++ field 1 m.2.2.1 ++ field 1 0 ++ field 4 m.2.2.2.1 ++ field 4 (min m.2.2.2.2 (2 ^ 32 - 1))
        ++ field 4 0 ++ field 8 s.levSeq ++ field 8 0
      let s := s.updOwner o (fun e => { e with entry := m, seq := s.levSeq })
      (s.writeMirror e.polder o b).mirror t

/-- SEQ advances by 1 in a step that settles a request (R343). -/
def State.nextSeq (s : State) : State := { s with levSeq := s.levSeq + 1 }

/-- CEILs and mirror at the end of a step that settles a request. -/
def State.settled (s : State) : State :=
  let s := s.setCeils
  s.mirror (s.owners.map (·.1))

/-- The curves of an owner are removed (R336). -/
def State.unadmit (s : State) (o : Nat) : State :=
  s.updOwner o (fun e => { e with st := .free, prior := .free, path := [], pub := 0, cur := 0 })

/-- CUR is recomputed for every owner (R336, R348). -/
def State.recompute (s : State) : State :=
  let s := s.setTdlk
  let fs := s.flows none
  let e := s.evaluate {} fs
  if e.reason = 0 then s.publish {} e fs else s

/-- LEVREF and RES after a host request (R345). -/
def State.hostResult (s : State) (res reason named excess : Nat) : State :=
  if res = 1 then
    { s with levRes := 1, levReason := .ofNat 8 reason, levNamed := .ofNat 10 named, levExcess := .ofNat 32 excess }
  else { s with levRes := .ofNat 2 res }

/-! The verdict of a declaration (R342, R343). -/

/-- Checks 1 to 3: the REASON of the first that fails, 0 where none does. -/
def earlyReason (s : State) (own polder : Nat) (path : List PStep) : Nat :=
  let e := s.owner own
  let missing (k : PStep) : Bool :=
    if k.cls = clsMxa ∨ k.cls = clsCpe then decide (s.ptField polder 4 4 = 0)
    else if sharedCls k.cls then decide (s.weightOf {} polder k.cls = 0)
    else !(List.range 16).any (fun d => s.portServes d polder)
  if decide (e.st = .unassigned) || decide (e.polder ≠ polder) then 7
  else if path.any missing then 6
  else match path.head? with
    | some k => if k.sigma < classL k.cls then 5 else 0
    | none => 0

/-- The whole verdict on a declaration: the evaluation with REASON, NAMED, CLASS and EXCESS settled. -/
def verdictOn (s : State) (own polder : Nat) (path : List PStep) (bound : Nat) : Eval :=
  let r := earlyReason s own polder path
  if r ≠ 0 then { reason := r, named := some own }
  else
    let f : Flow := { own := own, polder := polder, path := path }
    let fs := s.flows (some f)
    let e := s.evaluate {} fs
    if e.reason ≠ 0 then { e with named := some (e.named.getD own) }
    else
      match s.overBound {} e (some own) fs with
      | some (o, x) => { e with reason := 1, named := some o, excess := x }
      | none =>
        if bound < curOf e f then { e with reason := 2, named := some own, excess := curOf e f - bound }
        else { e with named := some own }

/-- The verdict record (R343). -/
def verdictRecord (s : State) (e : Eval) (f : Flow) : List Byte :=
  let bs := bursts e.db f.polder none f.path
  field 1 (if e.reason = 0 then 0 else 1) ++ field 1 e.reason ++ field 2 (e.named.getD f.own) ++ field 1 e.cls ++ field 1 e.rounds
  ++ field 2 0 ++ field 4 e.excess ++ field 4 (if e.computed then curOf e f else 2 ^ 32 - 1)
  ++ field 8 s.levSeq ++ field 8 0
  ++ (List.range 16).flatMap (fun k =>
      match e.computed, f.path[k]? with
      | true, some st => field 8 (Map.get 0 e.d (nodeKey f.polder st.cls)) ++ field 8 (bs.getD k 0)
      | _, _ => field 16 0)

/-- ACCEPT: the newcomer's path is in force with its bound, every CUR and sluice is set (R342). -/
def State.accept (s : State) (e : Eval) (f : Flow) (bound : Nat) : State :=
  let others := (s.flows none).filter (fun g => decide (g.own ≠ f.own))
  let s := s.publish {} e others
  s.updOwner f.own (fun o =>
    { o with st := .admitted, prior := .admitted, pub := bound, cur := curOf e f, path := reprogram e f true })

/-- REFUSE: nothing else changes (R342). -/
def State.refuse (s : State) (f : Flow) : State :=
  s.updOwner f.own (fun o => if decide (o.st = .evaluating) && decide (o.polder = f.polder) then { o with st := o.prior } else o)

/-- A declaration is settled (R342, R343): its command has its STATUS and the verdict record, which is written in the same step
unless the page, a refused frame, the group's image or its core holds it, and then completes. -/
def State.settleDeclare (s : State) (cmd own polder : Nat) (path : List PStep) (bound : Nat) : State :=
  let s := (s.nextSeq).setTdlk
  let f : Flow := { own := own, polder := polder, path := path }
  let e := verdictOn s own polder path bound
  let s := (if e.reason = 0 then s.accept e f bound else s.refuse f).settled
  let s := s.updCmd cmd (fun c => { c with status := if e.reason = 0 then 0 else 3, wait := none, record := verdictRecord s e f })
  match Map.find s.cmds cmd with
  | some c =>
    let io := planVerdict c
    if c.killed || rangeMoving s c (c.w 2, 288) || heldForImage s c io || coreStops s c io then s else s.settleStep cmd (io.act s)
  | none => s

/-- Checks 4 to 6 with no newcomer, for WEIGHT and START (R345, R348): accepted, or REASON, NAMED and EXCESS. -/
def State.weigh (s : State) (w : Weights) : Except (Nat × Nat × Nat) State :=
  let s := s.setTdlk
  let fs := s.flows none
  let e := s.evaluate w fs
  if e.reason ≠ 0 then .error (e.reason, e.named.getD 0, e.excess)
  else
    match s.overBound w e none fs with
    | some (o, x) => .error (1, o, x)
    | none => .ok (s.publish w e fs)

/-- The engine takes a declaration by an owner of the polder into evaluation (R336): none where it is already there, or needs
none. -/
def State.takeReq (s : State) (r : LevReq) : Option State :=
  match r with
  | .declare _ own polder .. =>
    let e := s.owner own
    if decide (e.polder = polder) && (decide (e.st = .free) || decide (e.st = .admitted)) then
      some (s.updOwner own (fun e => { e with st := .evaluating, prior := e.st }))
    else none
  | _ => none

/-- The engine settles one request (R336, R342, R345, R348). -/
def State.settleReq (s : State) (r : LevReq) : State :=
  match r with
  | .declare cmd own polder path bound => s.settleDeclare cmd own polder path bound
  | .revoke own =>
    let s := s.nextSeq
    match (s.owner own).st with
    | .admitted => (((s.unadmit own).recompute).hostResult 0 0 0 0).settled
    | _ => (s.hostResult 1 0 own 0).settled
  | .assign own polder =>
    let s := s.nextSeq
    match (s.owner own).st with
    | .unassigned | .free => ((s.updOwner own (fun e => { e with st := .free, polder := polder })).hostResult 0 0 0 0).settled
    | _ => (s.hostResult 1 0 own 0).settled
  | .late own => (s.nextSeq.hostResult 1 0 own 0).settled
  | .weight polder cls wgt =>
    match s.nextSeq.weigh { ovr := some (polder, cls, wgt) } with
    | .ok s => ((s.writeLE (s.ptAddr polder + (if cls = clsDram then 8 else 10)) 2 wgt).hostResult 0 0 0 0).settled
    | .error (a, b, c) => (s.nextSeq.hostResult 1 a b c).settled
  | .start polder =>
    match s.nextSeq.weigh { on := some polder } with
    | .ok s => ({ s.writeLE (s.ptAddr polder) 1 1 with pctlBusy := false, pctlErr := false }).settled
    | .error (a, b, c) =>
      ({ s.nextSeq with pctlBusy := false, pctlErr := true, levReason := .ofNat 8 a, levNamed := .ofNat 10 b,
                        levExcess := .ofNat 32 c }).settled
  | .malformed => s.hostResult 2 0 0 0

/-- LEVREQ.BUSY: a host request is queued (R345). -/
def State.levBusy (s : State) : Bool :=
  s.levQ.any (fun r => match r with
    | .revoke _ | .assign .. | .late _ | .weight .. | .malformed => true
    | _ => false)

/-- A host request reaches the engine: an ASSIGN of an owner in evaluation is refused (R336), in its turn. -/
def State.reaches (s : State) (r : LevReq) : State :=
  { s with levQ := s.levQ ++ [match r with
    | .assign own p => if (s.owner own).st = .evaluating then .late own else .assign own p
    | r => r] }

/-- A host request through LEVREQ; while BUSY is 1 it is held (R345). -/
def State.hostRequest (s : State) (r : LevReq) : State :=
  if s.inReset then s else if s.levBusy then { s with levHeld := s.levHeld ++ [r] } else s.reaches r

/-- The first held write of LEVREQ starts once BUSY is clear. -/
def State.nextHostRequest (s : State) : State :=
  match s.levHeld with
  | [] => s
  | r :: t => if s.levBusy then s else { s with levHeld := t }.reaches r

/-- The request that a value of LEVREQ names (R345). -/
def levReqOf (v : Nat) : LevReq :=
  match bitsOf v 55 54 with
  | 0 => .revoke (bitsOf v 41 32)
  | 1 => .assign (bitsOf v 41 32) (bitsOf v 51 48)
  | 2 => if sharedCls (bitsOf v 47 45) then .weight (bitsOf v 51 48) (bitsOf v 47 45) (bitsOf v 31 16) else .malformed
  | _ => .malformed

/-- REVOKE. -/
def execRevoke (own : Nat) (s : State) : Host.Outcome State Fault Refusal :=
  .next (if own < 1024 then s.hostRequest (.revoke own) else s)

/-- ASSIGN. -/
def execAssign (own polder : Nat) (s : State) : Host.Outcome State Fault Refusal :=
  .next (if own < 1024 ∧ polder < 16 then s.hostRequest (.assign own polder) else s)

/-- WEIGHT: of DRAM or FAB; another class is malformed (R345). -/
def execWeight (polder cls wgt : Nat) (s : State) : Host.Outcome State Fault Refusal :=
  .next (if polder < 16 ∧ cls < 8 ∧ wgt < 65536 then
      s.hostRequest (if sharedCls cls then .weight polder cls wgt else .malformed)
    else s)

/-- A polder reset revokes every owner of the polder; evaluations in progress end with no record written (R336). -/
def State.revokePolder (s : State) (p : Nat) : State :=
  let s := s.nextSeq
  let s := { s with levQ := s.levQ.filter (fun r => match r with
    | .declare _ _ q .. => decide (q ≠ p)
    | _ => true) }
  let own := (s.owners.filter (fun (e : Nat × OEntry) => decide (e.2.polder = p) && decide (e.2.st ≠ .unassigned))).map (·.1)
  (own.foldl State.unadmit s).recompute.settled

end Sys2Proof.Machine
end

