-- ==== Sys2Proof/Machine/Link.lean ====
section
/-! DEFINITION. The link: dike-link ports, flits, forwarding, the link remap table, tier-2 ports and the host link (R322 to
R332). -/

namespace Sys2Proof.Machine

/-! Ports (R325, R326). -/

/-- TRAIN written with EN = 1. -/
def State.trainPort (s : State) (d : Nat) : State :=
  let t := s.tick
  s.updPort d (fun p =>
    let p := { p with late := false }
    match p.st with
    | .off | .fault => { p with st := .training, timeout := t + 660000000 }
    | _ => p)

/-- DLK_TRAIN: a write of DLK with EN and TRAIN. -/
def execDlkTrain (d : Nat) (s : State) : Host.Outcome State Fault Refusal :=
  .next (if d < 16 && !s.inReset then (s.updPort d (fun p => { p with en := true })).trainPort d else s)

/-- EN written 0: a port that is UP drains. -/
def State.disablePort (s : State) (d : Nat) : State :=
  s.updPort d (fun p => { p with en := false, st := match p.st with
    | .up => .draining
    | st => st })

/-- DLK_DISABLE: a write of DLK that clears EN. -/
def execDlkDisable (d : Nat) (s : State) : Host.Outcome State Fault Refusal :=
  .next (if d < 16 && !s.inReset then s.disablePort d else s)

/-- A write of DLK: POL takes effect only in state OFF. -/
def State.writeDlk (s : State) (d v : Nat) : State :=
  let s := s.updPort d (fun p => if p.st = .off then { p with pol := .ofNat 4 (bitsOf v 19 16) } else p)
  if v.testBit 0 then
    let s := s.updPort d (fun p => { p with en := true })
    if v.testBit 1 then s.trainPort d else s
  else
    let s := s.disablePort d
    if v.testBit 1 then s.updPort d (fun p => { p with late := false }) else s

/-! Forwarding (R331). -/

/-- The forwarding entry for an address that arrives under a polder. -/
def State.fwdFor (s : State) (polder addr : Nat) : Option (Nat × Fwd) :=
  s.fwd.find? (fun e => decide (e.2.st ≠ 0) && decide (e.2.pol.toNat = polder) && decide (e.2.old.toNat ≤ addr)
    && decide (addr < e.2.old.toNat + e.2.len.toNat))

/-- A flit that came on a port has been forwarded and is not acknowledged by the next device: its place, and the port it left on. -/
def State.forwarded (s : State) (d : Nat) : List Nat :=
  s.ports.flatMap (fun p => p.2.out.filterMap (fun f => f.fwd.bind (fun o => if o.port = d then some p.1 else none)))

/-- A port answers its peer. -/
def State.answer (s : State) (d : Nat) (l : List Answer) : State := s.updPort d (fun p => { p with answers := p.answers ++ l })

/-- An entry has forwarded all that came for it and seen it acknowledged: nothing waits for it in a receive buffer. -/
def fwdQuiet (s : State) (i : Nat) (e : Fwd) : Bool :=
  !s.ports.any (fun p => p.2.buf.any (fun f => decide (f.kind < 7) && decide ((s.fwdFor p.2.pol.toNat f.addr).map (·.1) = some i)))
  && !(s.port e.port.toNat).out.any (fun f => f.fwd.isSome && decide (e.new.toNat ≤ f.addr) && decide (f.addr < e.new.toNat + e.len.toNat))

/-- FWDDONE goes out for a range. -/
def State.sendDone (s : State) (a : Nat × Nat × Nat) : State :=
  s.sendFlit a.1 { seq := 0, kind := 8, addr := a.2.1, data := leBytes 8 a.2.2 }

/-- A REMAPACK that waits is answered with FWDDONE once every entry that it waits at is quiet and there is credit; these entries are
freed in the same step (R332). -/
def answerRemap (a : Nat × Nat × Nat) (s : State) : State :=
  let mine := s.fwd.filter (fun e => e.2.acks.contains a)
  if mine.isEmpty || !mine.all (fun e => fwdQuiet s e.1 e.2) || decide ((s.port a.1).credit = 0) then s
  else
    State.sendDone { s with fwd := s.fwd.map (fun (e : Nat × Fwd) =>
      (e.1, if e.2.acks.contains a then { e.2 with st := 0, acks := e.2.acks.filter (· != a) } else e.2)) } a

/-- The REMAPACKs that wait are answered as they can be. -/
def State.answerRemaps (s : State) : State := (s.fwd.flatMap (fun e => e.2.acks)).eraseDups.foldl (fun s a => answerRemap a s) s

/-- FWD_STATE_WRITE: the host sets an entry to HOLD or FORWARD; the device alone returns it to FREE. -/
def execFwdStateWrite (i : Nat) (st : BitVec 2) (s : State) : Host.Outcome State Fault Refusal :=
  .next (
    if 64 ≤ i || decide (st = 0) || decide (st = 3) || s.inReset then s
    else
      let e : Fwd := Map.get {} s.fwd i
      { s with fwd := Map.put s.fwd i { e with st := st } })

/-! Loss, acknowledgement and replay (R326 to R328). -/

/-- A command of a peer has ended: its versions here commit (R113, R121). -/
def State.remoteEnd (s : State) (d cmd : Nat) : State :=
  let o := Owner.remote d cmd
  let s := if s.holds o (fun _ => true) then s.commit o (fun _ => true) else s
  s.updPort d (fun p => { p with rcmds := Map.del p.rcmds cmd })

/-- A step of a peer's command is refused: all that the command wrote here is removed, and its later flits are refused too. -/
def State.refuseRemote (s : State) (d cmd : Nat) (last : Bool) : State :=
  (s.dropOwner (.remote d cmd)).updPort d (fun p =>
    if last then { p with rcmds := Map.del p.rcmds cmd, dead := p.dead.filter (· != cmd) }
    else { p with dead := cmd :: p.dead })

/-- The next device has acknowledged or refused a forwarded flit, or it is lost on the way: the original sender is told (R331). -/
def State.originTold (s : State) (o : Origin) (refused : Bool) : State :=
  let s := s.answer o.port [.ack o.seq refused]
  if refused then s.refuseRemote o.port o.cmd o.last else if o.last then s.remoteEnd o.port o.cmd else s

/-- The flits that a loss discards before they are acknowledged: a command ends with ENGINE_FAULT, SUB 10 (R327), and the sender
of a forwarded one is refused. -/
def faultFlits : List OutFlit → State → State
  | [], s => s
  | f :: t, s =>
    let s := match f.cmd with
      | some c => s.faultCmd c 10 f.addr
      | none => s
    faultFlits t (match f.fwd with
      | some o => s.originTold o true
      | none => s)

/-- Versions that commands of a peer hold go with the port. -/
def dropRemote (d : Nat) : List (Nat × Nat) → State → State
  | [], s => s
  | (id, _) :: t, s => dropRemote d t (s.dropOwner (.remote d id))

/-- A port forgets where flits that it forwards came from. -/
def Port.forgetOrigin (d : Nat) (p : Port) : Port :=
  { p with out := p.out.map (fun f => { f with fwd := f.fwd.filter (fun o => o.port != d) }) }

/-- An entry forgets the REMAPACKs that came over a port. -/
def Fwd.forgetAcks (d : Nat) (e : Fwd) : Fwd := { e with acks := e.acks.filter (fun a => a.1 != d) }

/-- What came over a port is forgotten: the versions of its peer's commands, its receive buffer, and the answers that its peer
still awaits. -/
def State.forgetPeer (s : State) (d : Nat) : State :=
  let s := dropRemote d (s.port d).rcmds s
  let ports := s.ports.map (fun p => (p.1, p.2.forgetOrigin d))
  let fwd := s.fwd.map (fun e => (e.1, e.2.forgetAcks d))
  { s with ports := ports, fwd := fwd }.updPort d (fun p => { p with buf := [], rcmds := [], dead := [] })

/-- LOSS on a port: the link buffers are discarded and the port is in FAULT. -/
def State.losePort (s : State) (d : Nat) : State :=
  match (s.port d).st with
  | .up | .draining =>
    let out := (s.port d).out
    faultFlits out ((s.forgetPeer d).updPort d (fun p => { p with st := .fault, out := [] }))
  | _ => s

/-- LOSS: a lane loses lock, or an unknown flit arrives. -/
def execLoss (d : Nat) (s : State) : Host.Outcome State Fault Refusal := .next (s.losePort d)

/-- TRAIN_DONE: all four lanes are locked (R326, R334). -/
def execTrainDone (d delay pdev pport : Nat) (s : State) : Host.Outcome State Fault Refusal :=
  .next (
    let p := s.port d
    if p.st ≠ .training || decide (p.timeout < s.tick) then s
    else
      let tlat := 250 + 2 * delay
      let late := s.holdsDlk p.pol.toNat && decide (Map.get 0 s.tdlk p.pol.toNat < tlat)
      (s.forgetPeer d).updPort d (fun p =>
        { p with tlat := .ofNat 16 tlat, pdev := .ofNat 8 pdev, pport := .ofNat 4 pport, late := late,
                 rply := if late then p.rply else 0, st := if late then .fault else .up, out := [], seq := 0, credit := 64,
                 rseq := 0, answers := [] }))

/-- TRAIN_TIMEOUT: 100 ms have elapsed in training, or before that fewer than four lanes have locked (R326). -/
def execTrainTimeout (d : Nat) (s : State) : Host.Outcome State Fault Refusal :=
  .next (if (s.port d).st = .training then s.updPort d (fun p => { p with st := .fault }) else s)

/-- DLK_DRAINED: every flit of a draining port's link buffers is delivered and acknowledged. -/
def execDlkDrained (d : Nat) (s : State) : Host.Outcome State Fault Refusal :=
  .next (
    let p := s.port d
    if p.st = .draining && p.out.isEmpty && p.buf.isEmpty && (s.forwarded d).isEmpty then
      (s.forgetPeer d).updPort d (fun p => { p with st := .off })
    else s)

/-- IDLE_FLIT: fill, without effect. -/
def execIdleFlit (_d : Nat) (s : State) : Host.Outcome State Fault Refusal := .next s

/-- ACK: a flit is acknowledged, or refused at the peer: its command has one fewer outstanding, or ends with SUB 10 (R327); the
sender of a forwarded flit is told (R331). -/
def execAck (d seq : Nat) (refused : Bool) (s : State) : Host.Outcome State Fault Refusal :=
  .next (
    match (s.port d).out.find? (fun f => f.seq == seq) with
    | none => s
    | some f =>
      let s := s.updPort d (fun p => { p with out := p.out.filter (fun f => f.seq != seq) })
      let s := match f.cmd with
        | some c => if refused then s.faultCmd c 10 f.addr else s.updCmd c (fun x => { x with unacked := x.unacked - 1 })
        | none => s
      let s := match f.fwd with
        | some o => s.originTold o refused
        | none => s
      s.answerRemaps)

/-- NAK: the flit and every later one are replayed; a second replay is LOSS. -/
def execNak (d seq : Nat) (s : State) : Host.Outcome State Fault Refusal :=
  .next (
    let again := (s.port d).out.filter (fun f => decide (seq ≤ f.seq))
    if again.isEmpty then s
    else if again.any (·.replayed) then s.losePort d
    else s.updPort d (fun p =>
      { p with rply := .ofNat 16 (min 65535 (p.rply.toNat + again.length)),
               out := p.out.map (fun f => if seq ≤ f.seq then { f with replayed := true } else f) }))

/-- CREDIT: the receiver frees room. -/
def execCredit (d n : Nat) (s : State) : Host.Outcome State Fault Refusal :=
  .next (if (s.port d).st = .up || decide ((s.port d).st = .draining) then
      s.updPort d (fun p => { p with credit := min 64 (p.credit + n) })
    else s)

/-! Flits that arrive (R121, R327, R328, R331). -/

/-- The bytes that a mask names, cut into runs within one line: offset from the flit's address, and bytes. -/
def maskRuns (addr mask : Nat) : List (Nat × Byte) → List (Nat × List Byte)
  | [] => []
  | (i, b) :: t =>
    let rest := maskRuns addr mask t
    if !mask.testBit i then rest
    else match rest with
      | (j, bs) :: u => if j = i + 1 && decide ((addr + j) % 128 ≠ 0) then (i, b :: bs) :: u else (i, [b]) :: rest
      | [] => [(i, [b])]

/-- How a step of a peer's command ends here. -/
inductive Remote where
  | done (s : State)
  | wait
  | refused
  /-- it lost a conflict, after owners that lost to it were aborted -/
  | lost (s : State)

/-- The terms under which a command of a peer writes V pages. -/
def remoteWriter (s : State) (d id polder : Nat) : Writer :=
  { owner := .remote d id, snap := Map.get s.tide (s.port d).rcmds id, polder := polder, node := 0 }

/-- A run of bytes within one line is written as a peer's command writes it. -/
def remoteWrite (d id va : Nat) (data : List Byte) (s : State) : Remote :=
  let p := (s.port d).pol.toNat
  let v : Via := { polder := p }
  if s.moving (32 + d / 4) p va [] then .wait
  else
    match s.translate v va .write with
    | .error _ => .refused
    | .ok x =>
      match (if x.dem then frameFor s p [] x else .ok s) with
      | .error _ => .refused
      | .ok s =>
        match s.translate v va .write with
        | .error _ => .refused
        | .ok x =>
          let s := s.walked v va x
          if x.v then
            match s.vWrite (remoteWriter s d id p) (lineOf va) (lineOf x.pa) (x.pa % 128) data with
            | .done s => .done s
            | .wait _ => .wait
            | .aborted s => .lost s
            | .fault .. => .refused
          else .done (s.plainWrite x.pa data)

/-- The runs of a flit, in order. -/
def remoteAll (d id addr : Nat) : List (Nat × List Byte) → State → Remote
  | [], s => .done s
  | (i, b) :: t, s =>
    match remoteWrite d id (addr + i) b s with
    | .done s => remoteAll d id addr t s
    | r => r

/-- Bytes that a peer's command reads at its destination: plain bytes, or the version it would read (R118). -/
def remoteRead (s : State) (d id va n : Nat) : Option (List Byte) :=
  let p := (s.port d).pol.toNat
  match s.translate { polder := p } va .read with
  | .error _ => none
  | .ok x =>
    if x.dem then some (List.replicate n 0)
    else if x.v then
      let w := remoteWriter s d id p
      let (b, poison) := s.vRead [w.owner] w.snap (lineOf x.pa)
      if poison then none else some ((b.drop (x.pa % 128)).take n)
    else if s.poisoned x.pa then none
    else some (s.plainBytes x.pa n)

/-- One element added at the destination (R221). -/
def addElem (rt old v : Nat) : Nat :=
  if rt = 2 then (old + v) % 2 ^ 32
  else
    let ty : Ty := if rt = 0 then .f else .bf
    arith ty .rne (exAdd .rne (decodeF ty old) (decodeF ty v)).1

/-- The elements of a reduction, added in order. -/
def reduceAll (rt d id addr : Nat) : List (List Byte) → State → Remote
  | [], s => .done s
  | e :: t, s =>
    match remoteRead s d id addr e.length with
    | none => .refused
    | some old =>
      match remoteWrite d id addr (leBytes e.length (addElem rt (leOf old) (leOf e))) s with
      | .done s => reduceAll rt d id (addr + e.length) t s
      | r => r

/-- Bytes in groups. -/
def groupsOf (n : Nat) : Nat → List Byte → List (List Byte)
  | 0, _ => []
  | f + 1, b => if b.length < n then [] else b.take n :: groupsOf n f (b.drop n)

/-- A flit performs in one step (R328). -/
def perfFlit (d : Nat) (f : InFlit) (s : State) : Remote :=
  match f.kind with
  | 1 => remoteAll d f.cmd f.addr (maskRuns f.addr f.mask ((List.range f.data.length).zip f.data)) s
  | 2 => reduceAll f.rt d f.cmd f.addr (groupsOf (if f.rt = 1 then 2 else 4) 128 f.data) s
  | _ =>
    if s.moving (32 + d / 4) (s.port d).pol.toNat f.addr [] then .wait
    else match (if f.rt = 1 then remoteRead s d f.cmd f.addr 8 else some []) with
      | none => .refused
      | some old => remoteWrite d f.cmd f.addr (leBytes 8 (leOf old + leOf f.data)) s

/-- The head of a receive buffer leaves it, and its place is free again. -/
def State.popBuf (s : State) (d : Nat) : State := (s.updPort d (fun p => { p with buf := p.buf.drop 1 })).answer d [.credit 1]

/-- The head has performed or is refused: it leaves the buffer and is answered. -/
def State.served (s : State) (d : Nat) (f : InFlit) (refused : Bool) : State := (s.popBuf d).answer d [.ack f.seq refused]

/-- The head performs here, after every earlier flit, those forwarded among them (R121). -/
def State.performFlit (s : State) (d : Nat) (f : InFlit) : State :=
  if !(s.forwarded d).isEmpty then s
  else
    let t := s.tide
    let s := (s.updPort d (fun p =>
      if (Map.find p.rcmds f.cmd).isSome then p else { p with rcmds := Map.put p.rcmds f.cmd t })).bump
    match perfFlit d f s with
    | .done s => (if f.last then s.remoteEnd d f.cmd else s).served d f false
    | .wait => s
    | .refused => (s.refuseRemote d f.cmd f.last).served d f true
    | .lost s => ((s.refuseRemote d f.cmd f.last).served d f true).settleAborts

/-- The head goes on to the next device (R331): its entry is in FORWARD, the port there is UP with credit, and what its own port
forwarded before it is acknowledged, or went the same way. -/
def State.forwardFlit (s : State) (d : Nat) (e : Fwd) (f : InFlit) : State :=
  let q := e.port.toNat
  if e.st ≠ 2 || !s.linkOn q || !s.crossOn (d / 4) (q / 4) || decide ((s.port q).st ≠ .up) || decide ((s.port q).credit = 0) || (s.forwarded d).any (· != q) then s
  else
    (s.sendFlit q { seq := 0, kind := f.kind, addr := e.new.toNat + (f.addr - e.old.toNat), data := f.data, mask := f.mask, rt := f.rt,
                    fwd := some { port := d, seq := f.seq, cmd := f.cmd, last := f.last } }).popBuf d

/-- An active entry that a range of addresses meets under a polder. -/
def Fwd.meets (e : Fwd) (polder addr len : Nat) : Bool :=
  decide (e.st ≠ 0) && decide (e.pol.toNat = polder) && decide (e.old.toNat < addr + len) && decide (addr < e.old.toNat + e.len.toNat)

/-- REMAPACK at the head: it waits for FWDDONE at every active entry of its range, or with none is answered at once (R332). -/
def State.serveRemap (s : State) (d : Nat) (f : InFlit) : State :=
  let a := (d, f.addr, f.mask)
  let p := (s.port d).pol.toNat
  if s.fwd.any (fun e => e.2.meets p f.addr f.mask) then
    (({ s with fwd := s.fwd.map (fun (e : Nat × Fwd) =>
      (e.1, if e.2.meets p f.addr f.mask then { e.2 with acks := e.2.acks ++ [a] } else e.2)) } : State).served d f false).answerRemaps
  else if (s.port d).credit = 0 then s
  else (s.served d f false).sendDone a

/-- The address of the link remap table's entry whose switch a FWDDONE completes: SWITCH is set, and PORT, BASE and LEN are
those of the message. -/
def switching (s : State) (d addr len : Nat) : Option Nat :=
  let lo := s.lrtbase.toNat
  ((s.mem.filter (fun c => decide (lo ≤ c.1) && decide (c.1 < lo + 2097152) && decide ((c.1 - lo) % 32 = 7))).map (fun c => c.1 - 7)).find?
    (fun e =>
      let w := s.readLE e 8
      w.testBit 61 && decide (bitsOf w 59 56 = d) && decide (bitsOf w 55 0 = addr) && decide (bitsOf (s.readLE (e + 8) 8) 39 0 = len))

/-- BASE and PORT take their new values and SWITCH clears, in one step. -/
def State.endSwitch (s : State) (e : Nat) : State :=
  let w := s.readLE e 8
  let n := s.readLE (e + 16) 8
  s.writeLE e 8 (bitsOf n 59 0 + bitsOf w 60 60 * 2 ^ 60 + bitsOf w 63 62 * 2 ^ 62)

/-- FWDDONE at the head ends the switch of the entry that awaits it; a port that has left UP leaves SWITCH set (R332). -/
def State.serveDone (s : State) (d : Nat) (f : InFlit) : State :=
  let up := decide ((s.port d).st = .up)
  let s := s.served d f false
  match switching s d f.addr f.mask with
  | some e => if up then s.endSwitch e else s
  | none => s

/-- A flit is refused, and a step's command with it (R327). -/
def State.refuseFlit (s : State) (d : Nat) (f : InFlit) : State := if 7 ≤ f.kind then s else s.refuseRemote d f.cmd f.last

/-- The head of a port's receive buffer performs, is refused, goes on, or waits (R121, R327, R328, R331). -/
def State.serveLink (s : State) (d : Nat) : State :=
  match (s.port d).buf with
  | [] => s
  | f :: _ =>
    if f.refuse then (s.refuseFlit d f).served d f true
    else if f.kind = 7 then s.serveRemap d f
    else if f.kind = 8 then s.serveDone d f
    else if (s.port d).dead.contains f.cmd then (s.refuseFlit d f).served d f true
    else match s.fwdFor (s.port d).pol.toNat f.addr with
      | some (_, e) => s.forwardFlit d e f
      | none => s.performFlit d f

/-- A numbered flit arrives. One whose CRC fails is answered by NAK, and until it comes again no other is taken; else it enters the
receive buffer. A port that drains takes no new flit: one that comes is refused in its turn, after every flit before it is delivered; a
port in another state refuses a step at once, and removes all that its command wrote here (R326 to R328). -/
def arrival (d : Nat) (f : InFlit) (bad : Bool) (s : State) : Host.Outcome State Fault Refusal :=
  .next (
    let p := s.port d
    let drains := decide (p.st = .draining)
    if !s.linkOn d then s
    else if p.st ≠ .up && !drains then (s.refuseFlit d f).answer d [.ack f.seq true]
    else if bad then s.answer d [.nak p.rseq]
    else if f.seq ≠ p.rseq || decide (64 ≤ p.buf.length) then s
    else (s.updPort d (fun p => { p with rseq := p.rseq + 1, buf := p.buf ++ [{ f with refuse := drains }] })).serveLink d)

/-- A data or signal flit as the receive buffer holds it. -/
def Flit.held (f : Flit) (kind rt : Nat) : InFlit :=
  { kind := kind, seq := f.seq, addr := f.addr, data := f.data, mask := f.mask, rt := rt, cmd := f.cmd, last := f.last }

/-- WRITE: the bytes that the mask names. -/
def execFlitWrite (d : Nat) (f : Flit) (s : State) : Host.Outcome State Fault Refusal := arrival d (Flit.held f 1 0) f.bad s
/-- REDUCE: the elements are added. -/
def execFlitReduce (d : Nat) (f : Flit) (rt : Nat) (s : State) : Host.Outcome State Fault Refusal :=
  arrival d (Flit.held f 2 rt) f.bad s
/-- SIGNAL_FLIT: the value is written or added, after every earlier flit of the buffer. -/
def execSignalFlit (d : Nat) (f : Flit) (add : Bool) (s : State) : Host.Outcome State Fault Refusal :=
  arrival d (Flit.held f 3 (if add then 1 else 0)) f.bad s

/-! Remap switching (R332). -/

/-- A flit that names a range, as the receive buffer holds it. -/
def Flit.range (f : Flit) (kind len : Nat) : InFlit := { kind := kind, seq := f.seq, addr := f.addr, mask := len }

/-- REMAPACK enters the receive buffer, behind every flit sent before it. -/
def execRemapack (d : Nat) (f : Flit) (len : Nat) (s : State) : Host.Outcome State Fault Refusal := arrival d (Flit.range f 7 len) f.bad s
/-- FWDDONE enters the receive buffer, behind every flit sent before it. -/
def execFwddone (d : Nat) (f : Flit) (len : Nat) (s : State) : Host.Outcome State Fault Refusal := arrival d (Flit.range f 8 len) f.bad s

/-- The first entry number written to LRSW that has not taken effect: SWITCH is set and REMAPACK goes out on the old port, behind
every signal already sent, in one step; it waits for credit (R328, R332). -/
def State.switchLink (s : State) : State :=
  match s.lrswWait with
  | [] => s
  | i :: rest =>
    let e := s.lrtEntry i
    let w := s.readLE e 8
    let d := bitsOf w 59 56
    let up := decide ((s.port d).st = .up)
    if up && (decide ((s.port d).credit = 0) || !s.linkOn d) then s
    else
      let s := { s with lrswWait := rest }
      let s := if w.testBit 61 then s else s.writeLE e 8 (w + 2 ^ 61)
      if up then s.sendFlit d { seq := 0, kind := 7, addr := bitsOf w 55 0, data := leBytes 8 (bitsOf (s.readLE (e + 8) 8) 39 0) } else s

/-- A write of LRSW. -/
def State.writeLrsw (s : State) (v : Nat) : State :=
  State.switchLink { s with lrsw := .ofNat 16 v, lrswWait := s.lrswWait ++ [v % 65536] }

/-- LRSW_WRITE. -/
def execLrswWrite (v : BitVec 64) (s : State) : Host.Outcome State Fault Refusal :=
  .next (if s.inReset then s else s.writeLrsw v.toNat)

/-- A turn of a port: the head of its receive buffer is served, entries answer their REMAPACKs, and a switch that waits goes out. -/
def linkTurn (d : Nat) (s : State) : State :=
  if !s.linkOn d then s
  else
    let s := s.serveLink d
    s.answerRemaps.switchLink

/-! Tier-2 ports and the host link (R323, R324). -/

/-- Marks lines poisoned. -/
def poisonLines : List Nat → State → State
  | [], s => s
  | l :: t, s => poisonLines t (s.addPoison l)

/-- The lines that lie in a port's range. -/
def inPort (s : State) (p : Nat) (l : List Nat) : List Nat := l.filter (fun a => decide (s.t2PortOf a = some p))

/-- A read at an address is of one of some lines. -/
def readsOne (s : State) (v : Via) (lines : List Nat) (va : Nat) : Bool :=
  !inWindow va && match s.translate v va .read with
    | .ok x => !x.dem && lines.contains (lineOf x.pa)
    | .error _ => false

/-- What an entry of an issue buffer reads in memory. -/
def ibReads : IbOp → List Nat
  | .load _ _ va | .qld _ va => [va]
  | .sbind va d _ => [va, d, d + 15]
  | .rclaim _ va _ | .rpost va _ | .rfree va _ | .sync _ va | .acq _ va | .rel va | .binit _ va _ _ | .rinit _ va | .recheck va _ _ => [va]
  | _ => []

/-- Reads of some lines by a sequencer, the access at the head of its issue buffer and the fetch of its word, are not answered: the
poisoned lines answer them. -/
def loseSeq (s : State) (k : Nat) (bank : Bool) (lines : List Nat) (st : Stream) (c : Ctx) : Ctx :=
  c.updSeq st (fun q =>
    { q with
      lost := q.lost || (decide (s.bank k = bank) && decide (c.st = .running) && !q.stopped && s.fetchesMemory k st
        && readsOne s (s.viaIssue k bank) lines q.pc.toNat),
      ib := match q.ib with
        | e :: t => { e with lost := e.lost || (ibReads e.op).any (readsOne s (s.viaIb k bank st) lines) } :: t
        | [] => [] })

/-- The lines of a command's next step that some lines lost hold, by virtual address. -/
def lostReads (s : State) (c : Cmd) (lines : List Nat) : List Nat :=
  if c.started then
    ((((stepPlan s c).reads.flatMap spanLines).map (·.1)).filter (readsOne s (s.viaCmd c) lines)).map lineOf
  else []

/-- T2_PORT_LOST: poisoned lines answer the reads not answered, the lines of the writes not acknowledged are poisoned, and the range
answers no more (R324). -/
def State.loseT2 (s : State) (p : Nat) (unread unwritten : List Nat) : State :=
  let t : T2Port := Map.get {} s.t2 p
  if !t.up then s
  else
    let un := inPort s p unread
    let lose (k : Nat) (b : Bool) (c : Ctx) : Ctx := streams.foldl (fun c st => loseSeq s k b un st c) c
    let s1 := { s with cores := s.cores.map (fun e => (e.1, { e.2 with a := lose e.1 false e.2.a, b := lose e.1 true e.2.b })),
                       cmds := s.cmds.map (fun e => (e.1, { e.2 with lost := e.2.lost ++ lostReads s e.2 un })) }
    let s2 := poisonLines (un ++ inPort s p unwritten) s1
    { s2 with t2 := Map.upd {} s2.t2 p (fun t => { t with lost := true, up := false }) }

/-- T2_PORT_LOST. -/
def execT2PortLost (p : Nat) (unread unwritten : List Nat) (s : State) : Host.Outcome State Fault Refusal :=
  .next (if 12 ≤ p then s else s.loseT2 p unread unwritten)

/-- HOST_LINK_DOWN: notices wait in their FEP. -/
def execHostLinkDown (s : State) : Host.Outcome State Fault Refusal := .next { s with hostUp := false }
/-- HOST_LINK_UP. -/
def execHostLinkUp (s : State) : Host.Outcome State Fault Refusal := .next { s with hostUp := true }

end Sys2Proof.Machine
end

