-- ==== Sys2Proof/Machine/Page.lean ====
section
/-! DEFINITION. Pages and versions: moves, the page engine, invalidations, the dredger, low tide and the patrol scrub (R120, R310
to R316, R320, R321). -/

namespace Sys2Proof.Machine

/-- Removes the markers of a number, which have reached their heads. -/
def unmarkCtx (id : Nat) (c : Ctx) : Ctx :=
  streams.foldl (fun c st => c.updSeq st (fun q => { q with ib := q.ib.filter (fun e => decide (e.op ≠ .marker id)) })) c

/-- Removes the markers of a number from every FIFO and buffer. -/
def State.unmark (s : State) (id : Nat) : State :=
  { s with
    clusters := s.clusters.map (fun e => (e.1, { e.2 with cpe := { e.2.cpe with
      fifo := e.2.cpe.fifo.map (fun f => (f.1, f.2.filter (fun x => decide (x ≠ .marker id)))) } })),
    cores := s.cores.map (fun e => (e.1, { e.2 with a := unmarkCtx id e.2.a, b := unmarkCtx id e.2.b })) }

/-! Moves (R312). -/

/-- Some store-buffer entry still lies in a frame. -/
def frameBuffered (s : State) (lg : Bool) (f : Nat) : Bool :=
  s.cores.any (fun e => e.2.sb.any (fun b => b.pa / frameBytes lg == f / frameBytes lg))

/-- Writes cells at other addresses. -/
def putCells (from_ into : Nat) : List Host.Cell → State → State
  | [], s => s
  | c :: t, s => putCells from_ into t (s.writeByte (into + (c.1 - from_)) c.2)

/-- Copies a frame to another, with its lines' poison marks. -/
def State.copyFrame (s : State) (lg : Bool) (from_ into : Nat) : State :=
  let n := frameBytes lg
  let cells := s.mem.filter (fun c => c.1 / n == from_ / n)
  let marks := (s.poison.filter (fun l => markOf l / n == from_ / n)).map (fun l => into + (l - from_))
  putCells from_ into cells
    { (s.zeroRange into n) with poison := marks ++ s.poison.filter (fun l => markOf l / n != into / n) }

/-- What is kept by the line addresses of a frame takes those of another. -/
def rekeyMap {α : Type} (lg : Bool) (from_ into : Nat) (m : Map α) : Map α :=
  (m.filter (fun e => e.1 / frameBytes lg == from_ / frameBytes lg)).foldl (fun m e => Map.put m (into + (e.1 - from_)) e.2)
    (m.filter (fun e => e.1 / frameBytes lg != from_ / frameBytes lg))

/-- The version chains of a frame's lines, and what the read views of commands hold of them, go with the frame: they stay in the
version pool (R312). -/
def State.rekey (s : State) (lg : Bool) (from_ into : Nat) : State :=
  { s with vers := rekeyMap lg from_ into s.vers,
           cmds := s.cmds.map (fun e => (e.1, { e.2 with view := rekeyMap lg from_ into e.2.view })) }

/-- The key of a polder's frame list (R309, R312). -/
def frameList (polder : Nat) (tier2 : Bool) : Nat := polder * 2 + (if tier2 then 1 else 0)

/-- The leaf of a page that a move to a tier still finds where it started, of the size it had. -/
def movable (s : State) (m : Move) : Option (Nat × Nat) :=
  match s.leafAddr m.polder m.va with
  | none => none
  | some la =>
    let l := s.readLE la 8
    if leafOk s l && decide (leafPolder l = m.polder) && decide (leafBit l 6 = m.lg) && !leafBit l 1 && decide (inDram (leafPa l 0) = m.toT2) then
      some (la, l)
    else none

/-- The move ends; its command goes on, to the next page where this one has moved. -/
def State.moveEnd (s : State) (id : Nat) (m : Move) (moved : Bool) : State :=
  let s := ({ (s.unmark id) with moves := Map.del s.moves id } : State).settleHalts
  match m.cmd with
  | none => s
  | some cid =>
    match Map.find s.cmds cid with
    | none => s
    | some c =>
      let pages := if c.opc = 11 then (c.w 2 + c.w 3 - 1) / 65536 - c.w 2 / 65536 + 1 else c.w 3
      s.stepped cid (moved && decide (pages ≤ c.cur + 1)) (fun x => { x with wait := none, cur := if moved then x.cur + 1 else x.cur })

/-- The charges of a page's move for the command that asked for it: the step of the command, and each line of the page on its
side in DRAM, crossing the fabric where that is another terp's (R209, R339; tier-2 traffic is never charged, R324). -/
def moveCharges (s : State) (m : Move) (old : Nat) (c : Cmd) : List Charge :=
  let n := frameBytes m.lg
  let dram := if m.toT2 then old else (takeFrame m.lg (Map.get [] s.frames (frameList m.polder false))).getD 0
  { cls := clsCpe, bytes := 128 } ::
    { cls := clsDram, last := !m.toT2, bytes := n, srv := some (.dram (dramCtrl dram)) } ::
    (if dramTerp dram = terpOf c.core then [] else [{ cls := clsFab, bytes := n, srv := some .fabric }])

/-- The command of a move. -/
def State.moveCmd (s : State) (m : Move) : Option Cmd := m.cmd.bind (fun id => Map.find s.cmds id)

/-- The move can be paid for (R338); a move of the page engine is charged to nobody. -/
def State.movePays (s : State) (m : Move) (old : Nat) : Bool :=
  match s.moveCmd m with
  | some c => s.canPay c.owner (.cmd c.id) (moveCharges s m old c)
  | none => true

/-- The move's command waits at its sluices. -/
def State.moveWaits (s : State) (m : Move) (old : Nat) : State :=
  match s.moveCmd m with
  | some c => if s.movePays m old then s else s.waitAtSluice c.owner (.cmd c.id) (moveCharges s m old c)
  | none => s

/-- The move's command pays. -/
def State.movePaid (s : State) (m : Move) (old : Nat) : State :=
  match s.moveCmd m with
  | some c => s.pay c.owner (.cmd c.id) (moveCharges s m old c)
  | none => s

/-- An island between a move's engine and one of its two frames takes no cycles: the copy engine of its command, or the page engine of
the terp of the frame in DRAM (R313, R351). -/
def State.framesStopped (s : State) (m : Move) (old new : Nat) : Bool :=
  let src := match s.moveCmd m with
    | some c => clusterOf c.core
    | none => 32 + dramTerp (if m.toT2 then old else new)
  s.paStopped src old || s.paStopped src new

/-- The page moves to a new frame (R312): its bytes, marks and versions go there, the leaves that name it name the new frame, and the
old frame returns to its list. -/
def State.movedPage (s : State) (id : Nat) (m : Move) (la l new : Nat) : State :=
  let old := leafPa l 0
  let s := { s with frames := Map.upd [] s.frames (frameList m.polder m.toT2) (leaveFrame m.lg new) }
  let s := (s.copyFrame m.lg old new).rekey m.lg old new
  let s := (blockOf s la l).foldl (fun s a => s.writeLE a 8 (s.readLE a 8 - old + new)) s
  let s := { s with frames := Map.upd [] s.frames (frameList m.polder (!m.toT2)) (fun l => l ++ framesIn m.lg old) }
  (s.dropTlb m.polder m.va (frameBytes m.lg / 65536)).moveEnd id m true

/-- PAGE_MOVE: once the markers have reached their heads and the stores to the old frame have drained, the page is copied and its
leaf written; an empty frame list suspends the command, or skips a cold page (R312). -/
def execPageMove (id : Nat) (s : State) : Host.Outcome State Fault Refusal :=
  .next (
    match Map.find s.moves id with
    | none => s
    | some m =>
      if !s.markersDone id then s
      else
        match movable s m with
        | none => s.moveEnd id m false
        | some (la, l) =>
          let old := leafPa l 0
          if frameBuffered s m.lg old then s
          else
            match takeFrame m.lg (Map.get [] s.frames (frameList m.polder m.toT2)) with
            | none =>
              let s := s.moveEnd id m false
              match m.cmd with
              | some c => s.suspend c .quotaMem (if m.toT2 then 0 else 0x81) m.va
              | none => s
            | some new =>
              if s.framesStopped m old new then s
              else if !s.movePays m old then s.moveWaits m old
              else (s.movePaid m old).movedPage id m la l new)

/-! The page engine (R313). -/

/-- The valid entries of a table, with the index of each: a valid entry has a listed odd byte at its address. -/
def tableEntries (s : State) (table : Nat) : List (Nat × Nat) :=
  (s.mem.filter (fun c => decide (table ≤ c.1) && decide (c.1 < table + 8192) && decide (c.1 % 8 = 0) && decide (c.2.toNat % 2 = 1))).map
    (fun c => ((c.1 - table) / 8, s.readLE c.1 8))

/-- The well-formed entries of a table, each with the virtual address it covers from `va` on at a level of `2^sh` bytes, and the
table it names. -/
def subTables (s : State) (sh : Nat) (t : Nat × Nat) : List (Nat × Nat) :=
  ((tableEntries s t.2).filter (fun e => tableEntryOk s e.2)).map (fun e => (t.1 + e.1 * 2 ^ sh, bitsOf e.2 47 13 * 8192))

/-- The leaves of a polder: virtual address and address of the leaf (R304). -/
def State.leaves (s : State) (p : Nat) : List (Nat × Nat) :=
  let l1 := subTables s 46 (0, s.root p)
  let l2 := l1.flatMap (subTables s 36)
  let l3 := l2.flatMap (subTables s 26)
  l3.flatMap (fun t => (tableEntries s t.2).map (fun e => (t.1 + e.1 * 65536, t.2 + 8 * e.1)))

/-- A T2 leaf of the polder whose page is RESIDENT. -/
def scanned (s : State) (p la : Nat) : Bool :=
  let l := s.readLE la 8
  leafOk s l && decide (leafPolder l = p) && leafBit l 5 && !leafBit l 1 && inDram (leafPa l 0)

/-- Starts the moves of some cold pages, by the address of a leaf and its LG; one that moves already, or for which there is no frame, is skipped. -/
def moveCold (p : Nat) : List (Nat × Bool) → State → State
  | [], s => s
  | (va, lg) :: t, s =>
    let m : Move := { polder := p, va := va / frameBytes lg * frameBytes lg, toT2 := true, lg := lg }
    if s.moves.any (fun e => e.2.covers p va || m.covers e.2.polder e.2.va)
        || (takeFrame lg (Map.get [] s.frames (frameList p true))).isNone then moveCold p t s
    else
      let id := s.nextId
      moveCold p t (State.markerStep { s with nextId := id + 1, moves := Map.put s.moves id m } p id)

/-- Clears AC in some leaves. -/
def clearAc : List Nat → State → State
  | [], s => s
  | la :: t, s =>
    let l := s.readLE la 8
    clearAc t (if leafBit l 8 then s.writeLE la 8 (l - 256) else s)

/-- PAGE_ENGINE_SCAN: AC is cleared in every resident T2 leaf, and a page found with AC = 0 at two scans in succession is moved
to tier 2 (R313), a 2 MiB page whole (notes/assumptions/50.md). The page engine lies in no island, and the interval counts every tick
of the package (notes/assumptions/70.md). -/
def execPageEngineScan (p : Nat) (s : State) : Host.Outcome State Fault Refusal :=
  .next (
    let every := s.ptField p 12 4
    if 16 ≤ p || decide (s.polderSt p ≠ 1 ∧ s.polderSt p ≠ 2) || !(s.ptField p 1 1).testBit 1 || decide (every = 0)
        || decide (s.tick < Map.get 0 s.scanAt p) then s
    else
      let found := (s.leaves p).filter (fun e => scanned s p e.2)
      let idle := found.filter (fun e => !leafBit (s.readLE e.2 8) 8)
      let before := Map.get [] s.cold p
      let s := clearAc (found.map (·.2)) s
      let s := { s with cold := Map.put s.cold p (idle.map (·.1)), scanAt := Map.put s.scanAt p (s.tick + 65536 * every) }
      moveCold p ((idle.filter (fun e => before.contains e.1)).map (fun e => (e.1, leafBit (s.readLE e.2 8) 6))) s)

/-! Invalidations (R120, R311). -/

/-- A write of INVAL that no other one holds up: the marker step, and the TLB entries are dropped. -/
def State.invalNow (s : State) (t : Nat) (v : BitVec 64) : State :=
  let p := bitsOf v.toNat 59 56
  let id := s.nextId
  let va := bitsOf v.toNat 55 16 * 65536
  let n := bitsOf v.toNat 15 0 + 1
  let old := s.tlb.filter (fun e => tlbCovers p va n e.1)
  let s := { s with nextId := id + 1, invals := Map.put s.invals id { terp := some t, old := old } }
  ((s.markerStep p id).dropTlb p va n).updTerp t (fun x => { x with inval := some id })

/-- A write of INVAL; one made while BUSY is 1 is held. -/
def State.writeInval (s : State) (t : Nat) (v : BitVec 64) : State :=
  match (s.terp t).inval with
  | some _ => s.updTerp t (fun x => { x with invalHeld := x.invalHeld ++ [v] })
  | none => s.invalNow t v

/-- HOST_INVAL. -/
def execHostInval (t : Nat) (v : BitVec 64) (s : State) : Host.Outcome State Fault Refusal :=
  .next (if 4 ≤ t || s.inReset then s else s.writeInval t v)

/-- INVALIDATION_COMPLETE: every marker has reached its head; the inval command has stepped, or BUSY clears and the next write
takes effect (R120, R223, R311). -/
def execInvalidationComplete (id : Nat) (s : State) : Host.Outcome State Fault Refusal :=
  .next (
    match Map.find s.invals id with
    | none => s
    | some i =>
      if !s.markersDone id then s
      else
        let s := { (s.unmark id) with invals := Map.del s.invals id }
        let s := match i.cmd with
          | some c => s.stepped c true (fun x => { x with wait := none })
          | none => s
        match i.terp with
        | none => s
        | some t =>
          let s := s.updTerp t (fun x => { x with inval := none })
          match (s.terp t).invalHeld with
          | [] => s
          | v :: rest => (s.updTerp t (fun x => { x with invalHeld := rest })).invalNow t v)

/-! Low tide and the dredger (R315, R316). -/

/-- The snapshots of the live owners, the commands of peer devices among them (R121). -/
def State.liveSnaps (s : State) : List Nat :=
  let ctxs := (s.cores.flatMap (fun e => [e.2.a, e.2.b])).filter (fun c => decide (c.st ≠ .empty)) ++ s.saved.map (·.ctx)
  ctxs.map (·.snap) ++ ctxs.filterMap (fun c => c.txn.map (·.snap)) ++ s.cmds.map (·.2.rsnap)
    ++ s.ports.flatMap (fun p => p.2.rcmds.map (·.2))

/-- Low tide. -/
def State.lowTide (s : State) : Nat :=
  match s.liveSnaps with
  | [] => s.tide
  | n :: t => t.foldl min n

/-- LOWTIDE_UPDATE: a terp publishes its view, which never decreases. -/
def execLowtideUpdate (t : Nat) (s : State) : Host.Outcome State Fault Refusal :=
  .next (if t < 4 then s.updTerp t (fun x => { x with lowtide := max x.lowtide s.lowTide }) else s)

/-- The terp whose dredger serves a line: that of its DRAM, or of its tier-2 port (R316, R322). -/
def State.terpOfLine (s : State) (pa : Nat) : Nat :=
  if inDram pa then dramTerp pa else match s.t2PortOf pa with
    | some p => p / 3
    | none => 0

/-- DREDGER_STEP: the newest committed version at or below LT becomes the base, and it and every older one leave the chain. -/
def execDredgerStep (line : Nat) (s : State) : Host.Outcome State Fault Refusal :=
  .next (
    let vs := s.chain line
    match newestUpTo (s.terp (s.terpOfLine line)).lowtide vs with
    | none => s
    | some v =>
      let gone (u : Version) : Bool := u.owner.isNone && decide (u.tide ≤ v.tide)
      let s := s.writeBytes line v.data
      let s := if v.poison then s.markPoison v.margin line else s.delPoison line
      let s := dropIn gone vs s
      { s with vers := Map.set [] s.vers line (vs.filter (fun u => !gone u)) })

end Sys2Proof.Machine
end

