-- ==== Sys2Proof/Machine/Power.lean ====
section
/-! DEFINITION. Power and clocks: islands, the current arbiter, droop, undervolting, the shared servers and the thermal override
(R20, R335, R350 to R357, R366). -/

namespace Sys2Proof.Machine

/-! Islands (R351). -/

/-- The polder that a cluster belongs to, if it is not OFF. -/
def State.polderOfCluster (s : State) (cl : Nat) : Option Nat :=
  (List.range 16).find? (fun p => decide (s.polderSt p ≠ 0) && s.holdsCluster p cl)

/-- Some polder with a cluster or a channel in the terp is not OFF. -/
def State.terpLive (s : State) (t : Nat) : Bool :=
  (List.range 16).any (fun p => decide (s.polderSt p ≠ 0) && (s.holdsTerp p t || decide (bitsOf (s.ptField p 56 8) (16 * t + 15) (16 * t) ≠ 0)))

/-- Some polder that is not OFF holds a channel of a DRAM controller. -/
def State.ctrlLive (s : State) (t k : Nat) : Bool :=
  (List.range 16).any (fun p =>
    decide (s.polderSt p ≠ 0) && decide (bitsOf (s.ptField p 56 8) (16 * t + 2 * k + 1) (16 * t + 2 * k) ≠ 0))

/-- What a power cycle of a core leaves (R349, R351): CLKDIV, the heat bits and the count of cycles are not the island's
memory. -/
def Core.cycled (c : Core) : Core :=
  { deny := c.deny, isl := c.isl, cyc := c.cyc, migReq := c.migReq, excluded := c.excluded }

/-- What a power cycle of a cluster leaves: its PACE registers (R353). -/
def Cluster.cycled (c : Cluster) : Cluster := { paceM := c.paceM, paceC := c.paceC }

/-- Divisor d is permitted. -/
def divPermitted (divok : BitVec 15) (d : Nat) : Bool := decide (2 ≤ d) && divok.getLsbD (d - 2)

/-- The divisor to which an excluded one hops: the smallest permitted above it, else the largest below it. -/
def hopTarget (divok : BitVec 15) (d : Nat) : Option Nat :=
  match (List.range 17).find? (fun e => decide (d < e) && divPermitted divok e) with
  | some e => some e
  | none => (List.range d).reverse.find? (divPermitted divok)

/-- A write of DIVOK: the island, and whether the write is refused. A hop in progress counts by the divisor it goes to. -/
def setDivok (i : Island) (divok : BitVec 15) (tick : Nat) : Island × Bool :=
  if divok = 0 then (i, true)
  else
    let d := match i.hop with
      | some (e, _) => e.toNat
      | none => i.div.toNat
    let i := { i with divok := divok }
    if divPermitted divok d then (i, false)
    else match hopTarget divok d with
      | some e => ({ i with hop := some (.ofNat 5 e, tick + 40) }, false)
      | none => (i, false)

/-- ISLAND_DIVISOR_PERMIT. -/
def execIslandDivisorPermit (n : Nat) (divok : BitVec 15) (s : State) : Host.Outcome State Fault Refusal :=
  .next (
    if 256 ≤ n || s.inReset then s
    else
      let t := s.tick
      s.updIsland n (fun i => let r := setDivok i divok t; { r.1 with perr := r.2 }))

/-! Undervolting (R356). -/

/-- The terp of an island. -/
def islandTerp (i : Nat) : Nat := if i < 192 then i / 48 else (i - 192) / 16

/-- The island in which an error lies (R20, R320); an entry of the version pool lies in some DRAM controller's. -/
def siteIn (s : State) (n : Nat) : ErrSite → Bool
  | .w k .. | .mask k .. | .queue k .. | .scratch k _ => decide (k < 128) && decide (n = coreIsland k)
  | .acs cl _ => decide (cl < 32) && decide (n = mxaIsland cl)
  | .latch k .. => decide (k < 128) && decide (n = mxaIsland (clusterOf k))
  | .bstore cl _ | .basin cl .. => decide (cl < 32) && decide (n = cpeIsland cl)
  | .tier2 pa => !inDram pa && decide (s.memoryIsland pa = some n)
  | .version .. => decide (192 ≤ n) && decide ((n - 192) % 16 < 8)

/-- A version of a chain is poisoned. -/
def poisonAt (margin : Bool) (idx : Nat) (vs : List Version) : List Version :=
  (vs.zip (List.range vs.length)).map (fun e =>
    if e.2 = idx then { e.1 with poison := true, margin := e.1.margin || margin } else e.1)

/-- The mark of an entry that holds an uncorrectable error. -/
def marked (margin : Bool) (old : Option Bool) : Option Bool := some (margin || old.getD false)

/-- An entry of an operand queue is poisoned. -/
def poisonEntry (margin : Bool) (n : Nat) (l : List QEntry) : List QEntry :=
  (l.zip (List.range l.length)).map (fun e => if e.2 = n then { e.1 with poison := marked margin e.1.poison } else e.1)

/-- An entry of a result queue that has landed is poisoned: one only reserved holds nothing yet. -/
def poisonY (margin : Bool) (n : Nat) (l : List YSlot) : List YSlot :=
  (l.zip (List.range l.length)).map (fun e =>
    if e.2 = n && e.1.ready then { e.1 with poison := marked margin e.1.poison } else e.1)

/-- Marks an entry of q0 to q7 (QN 0 to 7) or of y0 to y3 (QN 8 to 11) (R124, R320). -/
def Ctx.markEntry (c : Ctx) (margin : Bool) (qn n : Nat) : Ctx :=
  if qn < 8 then { c with q := Map.upd [] c.q qn (poisonEntry margin n) }
  else if qn < 12 then { c with y := Map.upd [] c.y (qn - 8) (poisonY margin n) }
  else c

/-- What an uncorrectable error marks, by a MARGIN event or not (R320, R356). A clean basin line is fetched again; the poison
indication of a tier-2 device sets T2STAT.POISON (R324). -/
def State.markSite (s : State) (margin : Bool) : ErrSite → State
  | .w k b sl => s.updCtx k b (fun c => { c with wPoison := addMark margin sl c.wPoison })
  | .mask k b i => s.updCtx k b (fun c => { c with mPoison := addMark margin i c.mPoison })
  | .queue k b qn n => s.updCtx k b (fun c => c.markEntry margin qn n)
  | .scratch k l => s.updCore k (fun c => { c with spPoison := addMark margin l c.spPoison })
  | .acs cl i => s.updCluster cl (fun c => { c with acsPoison := addMark margin i c.acsPoison })
  | .latch k b buf i =>
    s.updCtx k b (fun c =>
      if buf then { c with lb1 := { c.lb1 with poison := addMark margin i c.lb1.poison } }
      else { c with lb0 := { c.lb0 with poison := addMark margin i c.lb0.poison } })
  | .bstore cl l => s.updCluster cl (fun c => { c with bstPoison := addMark margin l c.bstPoison })
  | .basin _ pa dirty => if dirty then s.markPoison margin pa else s
  | .tier2 pa =>
    match s.t2PortOf pa with
    | some p => { s.addPoison pa with t2 := Map.upd {} s.t2 p (fun x => { x with poison := true }) }
    | none => s
  | .version l i => { s with vers := Map.upd [] s.vers l (poisonAt margin i) }

/-- A MARGIN event (R356): the island stops, and the FEP sends a notice. -/
def State.marginEvent (s : State) (n : Nat) : State :=
  let s := s.updIsland n (fun i =>
    { i with margin := true, uvs := 0, uven := false, mev := true, mcnt := .ofNat 8 (min 255 (i.mcnt.toNat + 1)) })
  { s with notices := s.notices ++ [{ cause := 0x80, island := n, fep := 8 * islandTerp n }] }

/-- An uncorrectable error in an island: its mark, and a MARGIN event where the island is undervolted (R320, R356). -/
def State.uncorrectable (s : State) (n : Nat) (mark : Bool → State → State) : State :=
  if (s.island n).uvs ≠ 0 then mark true (s.marginEvent n) else mark false s

/-- The end of a 1 ms window: UVS rises or falls by the correctable errors found in it (R356). -/
def judgeWindow (tick : Nat) (i : Island) : Island :=
  let errors := if i.ceWindow = tick / errWindow - 1 then i.ceCount else 0
  let i := { i with windowAt := tick }
  if errors < i.ceth.toNat then (if i.uvs.toNat < i.uvmax.toNat then { i with uvs := i.uvs + 1 } else i)
  else if i.uvs ≠ 0 then { i with uvs := i.uvs - 1 } else i

/-- UNDERVOLT_WINDOW: the end of a window of an undervolted island, an uncorrectable error found in an island, or both. What a tier-2
device reports is its own error, no island's. -/
def execUndervoltWindow (n : Nat) (ends : Bool) (found : Option ErrSite) (s : State) : Host.Outcome State Fault Refusal :=
  .next (
    if 256 ≤ n then s
    else
      let s := if ends && s.windowEnds n then s.updIsland n (judgeWindow s.tick) else s
      match found with
      | none => s
      | some e =>
        if !siteIn s n e then s
        else match e with
          | .tier2 _ => s.markSite false e
          | e => s.uncorrectable n (fun m s => s.markSite m e))

/-- PATROL_SCRUB: a DRAM line is read and corrected, which counts; an uncorrectable error marks it, and no mark is cleared (R320,
R321). -/
def execPatrolScrub (line : Nat) (found : ScrubFinding) (s : State) : Host.Outcome State Fault Refusal :=
  .next (
    if !inDram line then s
    else match found, s.memoryIsland line with
      | .uncorrectable, some n => s.uncorrectable n (fun m s => s.markPoison m line)
      | .corrected, some n => s.countError n
      | _, _ => s)

/-- NOMINAL_VOLTAGE_RESTORED: the stopped cycles resume. -/
def execNominalVoltageRestored (n : Nat) (s : State) : Host.Outcome State Fault Refusal :=
  .next (if (s.island n).margin then s.updIsland n (fun i => { i with margin := false }) else s)

/-! Droop (R355). -/

/-- An edge of an island with a droop detector at work (R355): divisor d's worth of edges are skipped together, the free value
saying when, and at least as many pass before the next skip; none are during a hop. -/
def droopEdge (tick n : Nat) (i : Island) : Island :=
  if 1 < i.skipLeft then { i with skipLeft := i.skipLeft - 1, skipped := i.skipped + 1 }
  else if i.skipLeft = 1 then { i with skipLeft := 0, runLeft := i.div.toNat - 1 }
  else if 0 < i.runLeft then { i with runLeft := i.runLeft - 1 }
  else if i.droop && i.hop.isNone && Config.skips n tick then { i with skipLeft := i.div.toNat, skipped := i.skipped + 1 }
  else i

/-- DROOP_START: edges are skipped from now on, or after the hop in progress. -/
def execDroopStart (n : Nat) (s : State) : Host.Outcome State Fault Refusal :=
  .next (
    if 256 ≤ n then s
    else s.updIsland n (fun i => if i.hop.isSome then { i with droopHeld := true } else { i with droop := true }))

/-- DROOP_END. -/
def execDroopEnd (n : Nat) (s : State) : Host.Outcome State Fault Refusal :=
  .next (if (s.island n).droop || (s.island n).droopHeld then s.updIsland n (fun i => { i with droop := false, droopHeld := false }) else s)

/-! The current arbiter (R352 to R354). -/

/-- The envelope in watts (R21). -/
def envelope : Nat := 1400

/-- A tier's floor. -/
def State.floorOf (s : State) (tier : Nat) : Nat := bitsOf s.arbfloor.toNat (16 * tier + 15) (16 * tier)

/-- The surplus handed out in strict order of tiers: demand and grant so far of each. -/
def handOut : Nat → List (Nat × Nat) → List Nat
  | _, [] => []
  | left, (dem, g) :: t => let more := min left (dem - g); (g + more) :: handOut (left - more) t

/-- The grants of the tiers (R352). -/
def State.grants (s : State) : List Nat :=
  let base := (List.range 4).map (fun t => (Config.tierDemand s.arbNo t, min (Config.tierDemand s.arbNo t) (s.floorOf t)))
  handOut (envelope - Config.fixedPower s.arbNo - (base.map (·.2)).foldl (· + ·) 0) base

/-- The tier of a cluster's queues: the lowest tier number of its contexts. -/
def State.clusterTier (s : State) (cl : Nat) : Nat :=
  ((List.range 4).flatMap (fun j => [(s.core (4 * cl + j)).a, (s.core (4 * cl + j)).b])).foldl (fun a c =>
    if c.st = .empty then a else min a c.tier) 4

/-- A queue's PACE register at an evaluation: within the grants; or, with the projection above the envelope, raised by the
override where its tier's factor carries it above CEIL. -/
def repace (s : State) (raise : Bool) (cl q : Nat) (p : Pace) : Pace :=
  let f := Config.overrideFactor s.arbNo (s.clusterTier cl) + 1
  let up := min 65535 (ceilDiv (p.ceil.toNat * (65536 + f)) 65536)
  if raise then { p with overridden := decide (p.ceil.toNat < up), arb := .ofNat 16 up }
  else { p with overridden := false, arb := .ofNat 16 (min 65535 (Config.arbGap s.arbNo cl q s.grants)) }

/-- The override paces the queues of a cluster in this interval: their tier is one that it has to take (R354). -/
def State.raises (s : State) (cl : Nat) : Bool :=
  decide (envelope < Config.projected s.arbNo) && decide (Config.overrideTier s.arbNo % 4 ≤ s.clusterTier cl)
    && decide (s.clusterTier cl < 4)

/-- ARBITER_INTERVAL: every 10 µs the grants are made and ARB is set; where the projection exceeds the envelope, the interval is
taken under the override, counted and reported with the lowest polder that has a queue paced above CEIL (R352, R354, R363). -/
def execArbiterInterval (s : State) : Host.Outcome State Fault Refusal :=
  .next (
    if s.tick < s.arbAt then s
    else
      let s' := { s with arbNo := s.arbNo + 1, arbAt := s.arbAt + 66000, clusters := (List.range 32).map (fun cl =>
        let c := s.cluster cl
        (cl, { c with paceM := repace s (s.raises cl) cl 0 c.paceM, paceC := repace s (s.raises cl) cl 1 c.paceC })) }
      let who := (List.range 32).filter (fun cl => (s'.cluster cl).paceM.overridden || (s'.cluster cl).paceC.overridden)
      let lowest := (who.filterMap s.polderOfCluster).foldl min 16
      if envelope < Config.projected s.arbNo then
        { s' with envcnt := s.envcnt + 1, notices := s.notices ++ [{ cause := 0x90, polder := if lowest = 16 then 0 else lowest }] }
      else s')

/-! The shared servers (R335, R350). -/

/-- The larger of two fractions. -/
def fracMax (a b : Nat × Nat) : Nat × Nat := if a.1 * b.2 < b.1 * a.2 then b else a
/-- A fraction is less than another. -/
def fracLt (a b : Nat × Nat) : Bool := decide (a.1 * b.2 < b.1 * a.2)
/-- A fraction in lowest terms. -/
def reduce (a : Nat × Nat) : Nat × Nat := (a.1 / Nat.gcd a.1 a.2, a.2 / Nat.gcd a.1 a.2)

/-- A unit arrives at a server with a polder's weight: its start tag and the polder's new finish tag (R350). -/
def Srv.arrive (v : Srv) (polder owner weight no : Nat) : Srv :=
  if weight = 0 then { v with waiting := v.waiting ++ [{ polder := polder, owner := owner, tag := none, no := no }] }
  else
    let t := fracMax v.v (Map.get (0, 1) v.f polder)
    { v with f := Map.put v.f polder (reduce (t.1 * weight + 128 * t.2, t.2 * weight)),
             waiting := v.waiting ++ [{ polder := polder, owner := owner, tag := some t, no := no }] }

/-- The tag by which a waiting unit is served: none while its polder's weight is 0; where the weight has become another since it
came without a tag, virtual time as it stands (R335, R350). The model's choices: notes/assumptions/80.md. -/
def Srv.tagNow (v : Srv) (weight : Nat → Nat) (u : UnitW) : Option (Nat × Nat) :=
  if weight u.polder = 0 then none else some (u.tag.getD v.v)

/-- `a` is served before `b`: the smaller start tag, the lower polder number of equals; a unit without a tag last. -/
def before (tag : UnitW → Option (Nat × Nat)) (a b : UnitW) : Bool :=
  match tag a, tag b with
  | some x, some y => fracLt x y || (!fracLt y x && decide (a.polder < b.polder))
  | some _, none => true
  | none, some _ => false
  | none, none => decide (a.polder < b.polder)

/-- The first of some units in an order. -/
def firstBy (lt : UnitW → UnitW → Bool) : List UnitW → Option UnitW
  | [] => none
  | u :: t =>
    match firstBy lt t with
    | some w => if lt w u then some w else some u
    | none => some u

/-- The unit that enters service next: of the polder whose waiting unit has the smallest tag, of its owners with a curve the unit
that passed its sluice first, or, with none waiting, the first to arrive (R335, R350). -/
def Srv.nextUnit (v : Srv) (weight : Nat → Nat) (curved : Nat → Bool) : Option UnitW :=
  match firstBy (before (v.tagNow weight)) v.waiting with
  | none => none
  | some u =>
    let mine := v.waiting.filter (fun w => w.polder == u.polder)
    match firstBy (fun a b => decide (a.no < b.no)) (mine.filter (fun w => curved w.owner)) with
    | some w => some w
    | none => mine.head?

/-- The unit enters service: V takes its start tag. -/
def Srv.serve (v : Srv) (weight : Nat → Nat) (curved : Nat → Bool) : Srv :=
  match v.nextUnit weight curved with
  | none => v
  | some u => { v with v := (v.tagNow weight u).getD v.v, waiting := v.waiting.erase u }

/-- A server of the package. -/
def State.server (s : State) : Server → Srv
  | .dram k => Map.get {} s.dram k
  | .fabric => s.fab
/-- Replaces a server. -/
def State.setServer (s : State) (sv : Server) (v : Srv) : State :=
  match sv with
  | .dram k => { s with dram := Map.put s.dram k v }
  | .fabric => { s with fab := v }

/-- The server exists: 32 DRAM controllers (R19), one fabric. -/
def serverOk : Server → Bool
  | .dram k => decide (k < 32)
  | .fabric => true

/-- The class of a server's units. -/
def serverCls : Server → Nat
  | .dram _ => clsDram
  | .fabric => clsFab

/-- A unit that has passed its sluice on the way to a server, the first of its owner, and the others with it. -/
def takePassed (sv : Server) (polder owner : Nat) : List Passed → Option (Nat × List Passed)
  | [] => none
  | p :: t =>
    if p.srv = sv ∧ p.polder = polder ∧ p.owner = owner then
      some (p.no, if p.left ≤ 1 then t else { p with left := p.left - 1 } :: t)
    else (takePassed sv polder owner t).map (fun r => (r.1, p :: r.2))

/-- The weight of a polder at a server: DRAMW or FABW of the polder table (R335, R347). -/
def State.weightAt (s : State) (sv : Server) (polder : Nat) : Nat := s.ptField polder (if serverCls sv = clsDram then 8 else 10) 2

/-- A unit of a polder arrives at a server, with its place in the order of the sluices. -/
def State.arriveAt (s : State) (sv : Server) (polder owner no : Nat) : State :=
  s.setServer sv ((s.server sv).arrive polder owner (s.weightAt sv polder) no)

/-- UNIT_ARRIVAL: a unit that has passed its sluice with its command step or word arrives; a unit of no such step passes its own
sluice as it arrives, where its owner has a curve of the class, or takes its place in the line there (R335, R338, R339). The
model's choice in it: notes/assumptions/80.md. -/
def execUnitArrival (sv : Server) (polder : Nat) (line : LineUnit) (s : State) : Host.Outcome State Fault Refusal :=
  .next (
    let owner := line.owner
    if !serverOk sv || decide (16 ≤ polder) then s
    else match takePassed sv polder owner s.passed with
      | some (no, rest) => { s.arriveAt sv polder owner no with passed := rest }
      | none =>
        let no := s.nextId
        if s.curved owner (serverCls sv) then
          let cs := [{ cls := serverCls sv, last := line.write, bytes := 128 }]
          let u : Payer := .line sv line.write
          if (s.owner owner).polder ≠ polder then s
          else if s.canPay owner u cs then (s.pay owner u cs).arriveAt sv polder owner no
          else s.waitAtSluice owner u cs
        else { s.arriveAt sv polder owner no with nextId := no + 1 })

/-- UNIT_SERVICE. -/
def execUnitService (sv : Server) (s : State) : Host.Outcome State Fault Refusal :=
  .next (if serverOk sv then s.setServer sv ((s.server sv).serve (s.weightAt sv) (fun o => s.curved o (serverCls sv))) else s)

/-! The thermal override (R366). -/

/-- A write of SENSOVR: a core outside the terp changes nothing and sets ERR; else the override stands, and the thermal logic
judges the core that it leaves and the core that it names by the readings that they then have (R366). -/
def State.writeSensovr (s : State) (t v : Nat) : State :=
  let k := bitsOf v 6 0
  if terpOf k ≠ t then s.updTerp t (fun x => { x with ovErr := true })
  else
    let k0 := (s.terp t).ovCore.toNat
    let s := s.updTerp t (fun x =>
      { x with ovErr := false, ovEn := v.testBit 31, ovTemp := .ofNat 8 (bitsOf v 15 8), ovCore := .ofNat 7 k })
    let s := (if k0 ≠ k && decide (terpOf k0 = t) then s.heat k0 else s).bump
    s.heat k

/-- SENSOVR_WRITE. -/
def execSensovrWrite (t : Nat) (v : BitVec 32) (s : State) : Host.Outcome State Fault Refusal :=
  .next (if 4 ≤ t || s.inReset then s else s.writeSensovr t v.toNat)

end Sys2Proof.Machine
end

