-- ==== Sys2Proof/Machine/Polder.lean ====
section
/-! DEFINITION. The polder: its states, PCTL, the reset with its scrub, the watchdog, and the verdicts that START waits for (R263,
R264, R342, R348, R349). -/

namespace Sys2Proof.Machine

/-- Writes STATE of a polder (R347, R348). -/
def State.setPolder (s : State) (p st : Nat) : State := s.writeLE (s.ptAddr p) 1 st

/-- The clusters of a polder. -/
def State.clustersOf (s : State) (p : Nat) : List Nat := (List.range 32).filter (s.holdsCluster p)

/-- The on-die state of a polder's clusters is emptied (R348, R349). -/
def State.cyclePower (s : State) (p : Nat) : State :=
  { s with
    cores := s.cores.map (fun e => (e.1, if s.holdsCluster p (clusterOf e.1) then e.2.cycled else e.2)),
    clusters := s.clusters.map (fun e => (e.1, if s.holdsCluster p e.1 then e.2.cycled else e.2)) }

/-! The reset (R264, R349). -/

/-- Queues whose privileged parts may name a polder: for polder 0 every queue, since a part of zeros names it, and for another the
queues whose parts hold some byte. -/
def State.privListed (s : State) (p : Nat) : List Nat :=
  let lo := s.qpbase.toNat
  if p = 0 then List.range (2 ^ 20)
  else ((s.mem.filter (fun c => decide (lo ≤ c.1) && decide (c.1 < lo + 0x10000000))).map (fun c => (c.1 - lo) / 256)).eraseDups

/-- Every queue of a polder (R251): cached ones by their entries, others by their privileged parts; none of these before the host
has set QPBASE. -/
def State.queuesOf (s : State) (p : Nat) : List Nat :=
  let held := (List.range 4).flatMap (fun t => ((s.terp t).cache.filter (fun e => e.2.polder == p)).map (·.1))
  if s.qpbase = 0 then held
  else held ++ (s.privListed p).filter (fun q => (s.cached q).isNone && decide (s.readLE (s.qPriv q + 4) 1 % 16 = p))

/-- POLDERRESET of some queues (R251). -/
def drainQueues : List Nat → State → State
  | [], s => s
  | q :: t, s =>
    drainQueues t (((s.qFill q).updQcb q (fun e => { e with st := .draining })).updLive q (fun l =>
      { l with exps := [], faulted := false, unret := 0 }))

/-- A pending operator of a polder is discarded. -/
def dropPending (p : Nat) (f : Fep) : Fep := { f with shadow := f.shadow.filter (fun o => o.polder != p) }

/-- The active operators of a polder are retired without a signal; another polder's pending operator then becomes active
(R255). -/
def retireOperators (p : Nat) : List Nat → State → State
  | [], s => s
  | n :: t, s =>
    retireOperators p t (match (s.fep n).active with
      | some o => if o.polder = p then s.opRetired n else s
      | none => s)

/-- Step 1 of R264, in the step of the expiry or the request: the polder is RESETTING, its queues drain, and the begun notice waits
to be written. -/
def State.resetPolder (s : State) (p : Nat) (expired : Option Nat) : State :=
  let s := drainQueues (s.queuesOf p) s
  let s := match expired with
    | some q => (s.qFill q).updQcb q (fun e => { e with wdogBit := true })
    | none => s
  let n : Notice := match expired with
    | some q =>
      let e := s.qcb q
      { cause := 0x60, polder := p, fep := 8 * e.home + e.fepn, qidx := q, head := e.head.toNat, tail := e.tail.toNat,
        retired := e.retired.toNat }
    | none => { cause := 0x61, polder := p }
  let s := s.setPolder p 3
  { s with notices := s.notices ++ [n], presets := Map.put s.presets p { notice := n } }

/-- Step 3 of R264, once step 2 has written the begun notice: every group of the polder is killed, its operators go, and its owners
lose their curves (R336). -/
def State.resetKill (s : State) (p : Nat) : State :=
  let s := { s with feps := s.feps.map (fun (e : Nat × Fep) => (e.1, dropPending p e.2)) }
  let s := killRegions ((s.regions.filter (fun e => e.2.live && decide (e.2.polder = p))).map (·.1)) s
  let s := (retireOperators p (List.range 32) s).revokePolder p
  { s with presets := s.presets.map (fun e => (e.1, if e.1 = p then { e.2 with killed := true } else e.2)) }

/-- What a step does for the notice whose bytes the last step wrote (R264, R362): PROD increases by 1, and a begun notice lets
step 3 of its reset follow. -/
def State.prodUp (s : State) : State :=
  match s.nrWritten with
  | none => s
  | some n =>
    let s := { s with nrProd := s.nrProd + 1, nrWritten := none }
    if (n.cause = 0x60 ∨ n.cause = 0x61) ∧ n.stat = 0 then s.resetKill n.polder else s

/-- A command of the polder is still in the machine. -/
def dropCmds (p : Nat) : List (Nat × Cmd) → State → State
  | [], s => s
  | (id, c) :: t, s => dropCmds p t (if c.polder = p then s.removeCmd id else s)

/-- Zeroes ranges of memory, and clears their poison marks. -/
def zeroRanges : List (Nat × Nat) → State → State
  | [], s => s
  | (a, n) :: t, s =>
    zeroRanges t { (s.zeroRange a n) with poison := s.poison.filter (fun l => decide (markOf l < a) || decide (a + n ≤ markOf l)) }

/-- The polder's memory: its DRAM channels, and its tier-2 frames in leaves and on its list (R347, R349). -/
def State.memoryOf (s : State) (p : Nat) : List (Nat × Nat) :=
  let chan := s.ptField p 56 8
  let dram := ((List.range 64).filter (fun k => chan.testBit k)).map (fun k => (k * 0xC0000000, 0xC0000000))
  let far := (s.leaves p).filterMap (fun e =>
    let l := s.readLE e.2 8
    if leafOk s l && !leafBit l 1 && !inDram (leafPa l e.1) then some (leafPa l e.1 / 65536 * 65536, 65536) else none)
  dram ++ far ++ (Map.get [] s.frames (frameList p true)).map (fun f => (f, 65536))

/-- The address lies in one of some ranges. -/
def inRanges (l : List (Nat × Nat)) (a : Nat) : Bool := l.any (fun r => decide (r.1 ≤ a) && decide (a < r.1 + r.2))

/-- The scrub (R321, R349): the pool is emptied, and its version charges leave the chains; every byte is zero. -/
def State.scrub (s : State) (p : Nat) : State :=
  let ranges := s.memoryOf p
  let s := dropVersions (fun v => decide (v.polder = p)) s.vers s
  let s := zeroRanges ranges s
  { s with
    objs := s.objs.filter (fun o => !inRanges ranges o.1),
    regions := s.regions.filter (fun r => r.2.polder != p),
    moves := s.moves.filter (fun m => m.2.polder != p),
    tlb := s.tlb.filter (fun e => e.1 / 2 ^ 41 % 16 != p),
    cold := Map.del s.cold p, scanAt := Map.del s.scanAt p }

/-- A DRAM controller after a polder's reset: the finish tag is the virtual time, and no unit of the polder waits (R349). -/
def Srv.forget (v : Srv) (p : Nat) : Srv :=
  { v with f := Map.put v.f p v.v, waiting := v.waiting.filter (fun u => u.polder != p) }

/-- RESETDONE of some queues (R251). -/
def resetDone : List Nat → State → State
  | [], s => s
  | q :: t, s =>
    let s := s.qFill q
    let s := match s.cached q with
      | some (h, e) =>
        (s.qWriteBack q { e with st := .disabled, reset := true }).updTerp h (fun x => { x with cache := Map.del x.cache q })
      | none => s
    resetDone t s

/-! PCTL (R348). -/

/-- Regions take SLICEEND (R273). -/
def sliceEnds : List (Nat × Region) → Nat → State → State
  | [], _, s => s
  | (rk, r) :: t, p, s => sliceEnds t p (if decide (r.polder = p) && decide (r.st = .running) then s.setRState rk .preempted else s)

/-- The first evaluation of a region's stages that has not been missed: the evaluations of the time that it was PREEMPTED are not
made up (R277, notes/assumptions/102.md). -/
def nextEval (tick at_ : Nat) : Nat := at_ + 65536 * ((tick + 65535 - at_) / 65536)

/-- Regions take SLICESTART: one whose line is asserted goes on as ABORTING (R273), and one that has nothing left completes. -/
def sliceStarts : List (Nat × Region) → Nat → State → State
  | [], _, s => s
  | (rk, r) :: t, p, s =>
    sliceStarts t p (
      if decide (r.polder = p) && decide (r.st = .preempted) then
        ((s.setRState rk (if r.line then .aborting else .running)).updRegion rk (fun r =>
          { r with evalAt := nextEval (s.islandTime (frontIsland r.terp)) r.evalAt })).haltTree rk
      else s)

/-- PCTL.BUSY: a transition is in progress. -/
def State.pctlIsBusy (s : State) : Bool := s.pctlBusy || !s.presets.isEmpty

/-- One request of PCTL on a polder that no transition holds up. -/
def State.pctlNow (s : State) (op p : Nat) : State :=
  let st := s.polderSt p
  let live := s.regions.any (fun r => r.2.live && decide (r.2.polder = p))
  let ok (s : State) : State := { s with pctlErr := false }
  match op with
  | 0 => if st = 0 then { (s.present (.start p)) with pctlBusy := true } else { s with pctlErr := true }
  | 1 =>
    if decide (st = 1) && !live then ok ((((s.setPolder p 0).cyclePower p).nextSeq.recompute).settled) else { s with pctlErr := true }
  | 2 => if st = 1 then ok ((sliceEnds s.regions p s).setPolder p 2) else { s with pctlErr := true }
  | 3 =>
    if st = 2 then
      let s := s.setPolder p 1
      ok (sliceStarts s.regions p s)
    else { s with pctlErr := true }
  | 4 => if decide (st = 1) || decide (st = 2) then ok (s.resetPolder p none) else { s with pctlErr := true }
  | _ => { s with pctlErr := true }

/-- Held writes take effect in order while BUSY is clear. -/
def pctlOn : List (Nat × Nat) → State → State
  | [], s => { s with pctlHeld := [] }
  | r :: t, s => if s.pctlIsBusy then { s with pctlHeld := r :: t } else pctlOn t (s.pctlNow r.1 r.2)

/-- A request of PCTL: OP and POL. -/
def State.pctlWrite (s : State) (op p : Nat) : State :=
  if 16 ≤ p || s.inReset then s else pctlOn (s.pctlHeld ++ [(op, p)]) s

/-- POLDER_START. -/
def execPolderStart (p : Nat) (s : State) : Host.Outcome State Fault Refusal := .next (s.pctlWrite 0 p)
/-- POLDER_STOP. -/
def execPolderStop (p : Nat) (s : State) : Host.Outcome State Fault Refusal := .next (s.pctlWrite 1 p)
/-- SLICEEND. -/
def execSliceend (p : Nat) (s : State) : Host.Outcome State Fault Refusal := .next (s.pctlWrite 2 p)
/-- SLICESTART. -/
def execSlicestart (p : Nat) (s : State) : Host.Outcome State Fault Refusal := .next (s.pctlWrite 3 p)
/-- POLDER_RESET. -/
def execPolderReset (p : Nat) (s : State) : Host.Outcome State Fault Refusal := .next (s.pctlWrite 4 p)

/-- The polder that a START request names. -/
def startOf : LevReq → Option Nat
  | .start p => some p
  | _ => none

/-- LEVEE_EVALUATE: the engine takes the next declaration into evaluation, or settles the next request (R336, R342); a polder that
it lets start is powered on with empty on-die state, and held writes of LEVREQ and PCTL go on (R345, R348). -/
def execLeveeEvaluate (s : State) : Host.Outcome State Fault Refusal :=
  .next (match s.levQ with
    | [] => s
    | r :: rest =>
      match s.takeReq r with
      | some s => s
      | none =>
      let s := ({ s.bump with levQ := rest }).settleReq r
      let s := match startOf r with
        | some p => if s.polderSt p = 1 then s.cyclePower p else s
        | none => s
      pctlOn s.pctlHeld s.nextHostRequest)

/-- SCRUB_COMPLETE: once step 3 has killed the polder's groups, the power cycle and the scrub are done, the queues take RESETDONE,
the polder is ACTIVE, and the done notice goes to the host (R264, R348, R349). -/
def execScrubComplete (p : Nat) (s : State) : Host.Outcome State Fault Refusal :=
  .next (
    match Map.find s.presets p with
    | none => s
    | some r =>
      if !r.killed then s else
      let s := (dropCmds p s.cmds s).cyclePower p
      let s := s.scrub p
      let s := { s with dram := s.dram.map (fun d => (d.1, d.2.forget p)) }
      let s := resetDone (s.queuesOf p) s
      let s := s.setPolder p 1
      let s := { s with presets := Map.del s.presets p, notices := s.notices ++ [{ r.notice with stat := 1 }] }
      pctlOn s.pctlHeld s)

/-! The watchdog (R263). -/

/-- The watchdog of a queue has reached its limit. -/
def State.wdogDue (s : State) (q : Nat) : Bool :=
  let e := match s.cached q with
    | some (_, e) => e
    | none => qRead s q
  (decide (e.st = .active) || decide (e.st = .waiting)) && decide (e.wdog ≠ 0) && decide (1024 * e.wdog ≤ (s.live q).wd)
    && (decide (s.polderSt e.polder = 1) || decide (s.polderSt e.polder = 2))

/-- A retirement of a group launched from the queue is due: it comes before an expiry of the same tick (R263). -/
def State.retireDue (s : State) (q : Nat) : Bool :=
  s.banks.any (fun kb =>
    let rk := (s.ctx kb.1 kb.2).group.region
    decide ((s.region rk).queue = some q) && s.retires kb.1 kb.2 && s.islandOn (frontIsland (terpOf kb.1))
      && (s.recordRoom rk || streams.all (fun st => !((s.ctx kb.1 kb.2).seq st).blockedAtAbort)))

/-- WATCHDOG_EXPIRY: the reset of the queue's polder begins, after every retirement of the tick that stops the counter. -/
def execWatchdogExpiry (q : Nat) (s : State) : Host.Outcome State Fault Refusal :=
  .next (
    if !s.wdogDue q || s.retireDue q then s
    else
      let s := s.qFill q
      s.resetPolder (s.qcb q).polder (some q))

end Sys2Proof.Machine
end

