-- ==== Sys2Proof/Machine/HostRegs.lean ====
section
/-! DEFINITION. The host's side: the power states of islands, the registers of the front-end blocks, and host writes of memory (R7,
R8, R243, R249, R269, R311, R323, R324, R330, R331, R345, R347, R348, R351 to R357, R362, R365, R366). -/

namespace Sys2Proof.Machine

/-! Islands (R20, R351). -/

/-- The dike-link ports of a terp. -/
def portsOf (t : Nat) : List Nat := (List.range 4).map (fun k => 4 * t + k)

/-- The island holds a context, an unretired engine command, or a polder's live data (R351). -/
def State.islandHolds (s : State) (i : Nat) : Bool :=
  if i < 192 then
    let cl := i / 6
    let cores := (List.range 4).map (fun j => 4 * cl + j)
    (s.polderOfCluster cl).isSome
    || (if i % 6 < 4 then !(s.core (4 * cl + i % 6)).vacant
        else if i % 6 = 4 then (s.cluster cl).mxa.run.isSome || cores.any (fun k => decide ((s.core k).a.mxOut + (s.core k).b.mxOut ≠ 0))
        else s.cmds.any (fun c => decide (clusterOf c.2.core = cl)))
  else
    let t := (i - 192) / 16
    let j := (i - 192) % 16
    if j < 8 then s.ctrlLive t j
    else s.terpLive t || (decide (j = 15) && (portsOf t).any (fun d => !(s.port d).out.isEmpty || !(s.port d).buf.isEmpty))

/-- A front end loses its processors, its QCB cache and what it keeps of its queues; its registers are its terp's (R8). -/
def State.loseFront (s : State) (t : Nat) : State :=
  let live := s.qlive.filter (fun e => s.homeOf e.1 != t)
  { s.updTerp t (fun x => { x with cache := [] }) with feps := s.feps.filter (fun e => e.1 / 8 != t), qlive := live }

/-- The link ports of a terp lose their state: the tier-2 ports leave their trained state, the dike-link ports are OFF, and with
terp 0 the host link goes down (R322). -/
def State.loseLink (s : State) (t : Nat) : State :=
  let s := (portsOf t).foldl (fun s d => (s.forgetPeer d).updPort d (fun _ => {})) s
  let s := ((List.range 3).map (fun k => 3 * t + k)).foldl (fun s p => s.loseT2 p [] []) s
  if t = 0 then { s with hostUp := false } else s

/-- Every fabric island but one is OFF: the fabric keeps its state as long as one of them does. -/
def State.fabricGone (s : State) (but : Nat) : Bool :=
  (List.range 16).all (fun j =>
    let i := 192 + 16 * (j / 4) + 8 + j % 4
    decide (i = but) || decide ((s.island i).pst = 0))

/-- The island loses its state (R351). -/
def State.loseIsland (s : State) (i : Nat) : State :=
  if i < 192 then
    let cl := i / 6
    if i % 6 < 4 then s.updCore (4 * cl + i % 6) Core.cycled
    else if i % 6 = 4 then s.updCluster cl (fun c => { c with acs := [], acsPoison := [], mxa := {} })
    else s.updCluster cl (fun c => { c with bst := [], bstPoison := [], cpe := {} })
  else
    let t := (i - 192) / 16
    let j := (i - 192) % 16
    if j < 8 then { s with dram := Map.del s.dram (8 * t + j), passed := s.passed.filter (fun p => p.srv != .dram (8 * t + j)) }
    else if j < 12 then
      if s.fabricGone i then { s with fab := {}, passed := s.passed.filter (fun p => p.srv != .fabric) } else s
    else if j = 14 then s.loseFront t
    else if j = 15 then s.loseLink t
    else s

/-- A write of PST: the island's state, and whether the write is refused. -/
def State.setPst (s : State) (i : Nat) (pst : BitVec 2) : State × Bool :=
  if pst = 3 || (decide (pst = 0) && s.islandHolds i) then (s, true)
  else ((if pst = 0 then s.loseIsland i else s).updIsland i (fun x => { x with pst := pst }), false)

/-- ISLAND_POWER_STATE. -/
def execIslandPowerState (i : Nat) (pst : BitVec 2) (s : State) : Host.Outcome State Fault Refusal :=
  .next (
    if 256 ≤ i || s.inReset then s
    else
      let r := s.setPst i pst
      r.1.updIsland i (fun x => { x with perr := r.2 }))

/-! Registers. -/

/-- A 48-bit base register: bits [47:16] of the value (R243). -/
def baseOf (v : Nat) : BitVec 48 := .ofNat 48 (bitsOf v 47 16 * 65536)

/-- The island of ISLCTL k of a terp (R351). -/
def islandAt (t k : Nat) : Nat := if k < 48 then 48 * t + k else 192 + 16 * t + (k - 48)

/-- A write of ISLCTL: PST and DIVOK may be refused, the other fields take effect. -/
def State.writeIslctl (s : State) (i v : Nat) : State :=
  let t := s.tick
  let r := s.setPst i (.ofNat 2 (bitsOf v 1 0))
  r.1.updIsland i (fun x =>
    let d := setDivok x (.ofNat 15 (bitsOf v 62 48)) t
    { d.1 with perr := r.2 || d.2, uvmax := .ofNat 8 (bitsOf v 39 32), ceth := .ofNat 8 (bitsOf v 31 24),
               mev := x.mev && !v.testBit 15, uven := v.testBit 14 })

/-- A write of one of the four 8-byte words of a forwarding entry: OLD, LEN, NEW, PORT and POL in FREE only, and STATE as 1 or 2
(R331). -/
def Fwd.write (e : Fwd) (j v : Nat) : Fwd :=
  let free := decide (e.st = 0)
  match j with
  | 0 => if free then { e with old := .ofNat 64 v } else e
  | 1 => if free then { e with len := .ofNat 64 v } else e
  | 2 => if free then { e with new := .ofNat 64 v } else e
  | _ =>
    let st := bitsOf v 9 8
    let e := if free then { e with port := .ofNat 4 (bitsOf v 3 0), pol := .ofNat 4 (bitsOf v 7 4) } else e
    if st = 1 ∨ st = 2 then { e with st := .ofNat 2 st } else e

/-- A write of THERM, ignored where TREL is not below TMIG: the readings of the terp's cores are judged by the new levels (R357). -/
def State.writeTherm (s : State) (t v : Nat) : State :=
  if bitsOf v 7 0 ≤ bitsOf v 15 8 then s
  else
    let s := s.updTerp t (fun x => { x with tmig := .ofNat 8 (bitsOf v 7 0), trel := .ofNat 8 (bitsOf v 15 8) })
    (List.range 32).foldl (fun s j => s.heat (32 * t + j)) s.bump

/-- A write of NRING: ignored while the host has notices to take (R362). -/
def State.writeNring (s : State) (v : Nat) : State :=
  if s.nrProd ≠ s.nrCons then s
  else
    let l := bitsOf v 3 0
    { s with nringBase := .ofNat 52 (bitsOf v 63 12), nringLog2 := if 4 ≤ l ∧ l ≤ 12 then .ofNat 4 l else 4 }

/-- A write of T2STAT clears what its ones name (R324). -/
def State.writeT2stat (s : State) (p v : Nat) : State :=
  { s with t2 := Map.upd {} s.t2 p (fun x => { x with poison := x.poison && !v.testBit 2, lost := x.lost && !v.testBit 1 }) }

/-- A register at an offset of terp 0's block that other blocks do not have takes a value. -/
def State.writeReg0 (s : State) (off v : Nat) : State :=
  if off = 0x0060 then { s with lrtbase := baseOf v }
  else if off = 0x0068 then s.writeLrsw v
  else if off = 0x0070 then s.hostRequest (levReqOf v)
  else if off = 0x0080 then { s with ptbase := baseOf v }
  else if off = 0x0088 then s.pctlWrite (bitsOf v 6 4) (bitsOf v 3 0)
  else if off = 0x0090 then
    if bitsOf v 15 0 + bitsOf v 31 16 + bitsOf v 47 32 + bitsOf v 63 48 ≤ 1400 then { s with arbfloor := .ofNat 64 v } else s
  else if off = 0x00A0 then s.writeNring v
  else if off = 0x00A8 then { s with nrCons := .ofNat 32 (bitsOf v 63 32) }
  else if 0x1000 ≤ off ∧ off < 0x1800 ∧ off % 8 = 0 then
    { s with fwd := Map.upd {} s.fwd ((off - 0x1000) / 32) (fun e => e.write (off % 32 / 8) v) }
  else s

/-- A register at an offset of a terp's block takes a value (R7, R8). -/
def State.writeReg (s : State) (t off v : Nat) : State :=
  if off = 0x0000 then { s with qgbase := baseOf v }
  else if off = 0x0008 then { s with qpbase := baseOf v }
  else if off = 0x0010 then { s with qdbase := baseOf v }
  else if off = 0x0040 then s.qsyncWrite t (.ofNat 20 v) (v.testBit 29)
  else if off = 0x0048 then s.writeResume t v
  else if off = 0x0050 then s.writeInval t (.ofNat 64 v)
  else if off = 0x0098 then s.writeTherm t v
  else if off = 0x00B0 then s.writeSensovr t v
  else if 0x0100 ≤ off ∧ off < 0x0120 ∧ off % 8 = 0 then s.writeDlk (4 * t + (off - 0x0100) / 8) v
  else if 0x0140 ≤ off ∧ off < 0x0158 ∧ off % 8 = 0 then s.writeT2stat (3 * t + (off - 0x0140) / 8) v
  else if 0x0400 ≤ off ∧ off < 0x0600 ∧ off % 8 = 0 then s.writeIslctl (islandAt t ((off - 0x0400) / 8)) v
  else if 0x0600 ≤ off ∧ off < 0x0680 ∧ off % 16 = 0 then
    s.updCluster (8 * t + (off - 0x0600) / 16) (fun c => { c with paceM := { c.paceM with host := .ofNat 16 (bitsOf v 15 0) } })
  else if 0x0600 ≤ off ∧ off < 0x0680 ∧ off % 16 = 8 then
    s.updCluster (8 * t + (off - 0x0608) / 16) (fun c => { c with paceC := { c.paceC with host := .ofNat 16 (bitsOf v 15 0) } })
  else if t = 0 then s.writeReg0 off v
  else s

/-- REGISTER_WRITE. -/
def execRegisterWrite (t off : Nat) (v : BitVec 64) (s : State) : Host.Outcome State Fault Refusal :=
  .next (if t < 4 && !s.inReset then s.writeReg t off v.toNat else s)

/-! Host writes of memory (R309, R312, R347, R365). -/

/-- A byte that no host write changes: ZCNT of the polder table, and the weights of a polder that is not OFF (R347). -/
def State.hostFixed (s : State) (a : Nat) : Bool :=
  let i := a - s.ptbase.toNat
  decide (s.ptbase.toNat ≤ a) && decide (i < 4096)
    && ((decide (48 ≤ i % 256) && decide (i % 256 < 56))
        || (decide (8 ≤ i % 256) && decide (i % 256 < 12) && decide (s.polderSt (i / 256) ≠ 0)))

/-- A range within one line takes bytes from the host; what the device keeps of an object that stood there is gone, and the arrivals
held for it are refused (R292, notes/assumptions/118.md). -/
def State.hostLine (s : State) (a : Nat) (b : List Byte) : State :=
  let b := (b.zip (List.range b.length)).map (fun e => if s.hostFixed (a + e.2) then (s.readBytes (a + e.2) 1).headD 0 else e.1)
  let s := if (s.obj (lineOf a)).arrivals.isEmpty then s else s.refuseHeld (lineOf a)
  { s.plainWrite a b with objs := Map.del s.objs (lineOf a) }

/-- Bytes of the host within one line each. -/
def hostBytes : List (Nat × Nat) → List Byte → State → State
  | [], _, s => s
  | (a, n) :: t, b, s => hostBytes t (b.drop n) (s.hostLine a (b.take n))

/-- The first byte of a range at an address that does not exist. -/
def holeIn (s : State) (pa n : Nat) : Option Nat := ((List.range n).map (pa + ·)).find? (fun a => !s.paOk a)

/-- HOST_MEMORY_WRITE: bytes at physical addresses, whose islands take cycles, or frames put on a polder's list (R309, R312,
R365). -/
def execHostMemoryWrite (w : HostWrite) (s : State) : Host.Outcome State Fault Refusal :=
  match w with
  | .bytes pa data =>
    match holeIn s pa data.length with
    | some a => .fault (.physicalHole a)
    | none =>
      let l := cutLines (data.length / 128 + 2) pa data.length
      .next (if s.inReset || l.any (fun r => s.paStopped 32 r.1) then s else hostBytes l data s)
  | .frames p tier2 l =>
    .next (if p < 16 && !s.inReset && l.all (fun f => decide (f % 65536 = 0) && s.paOk f && decide (inDram f = !tier2)) then
        { s with frames := Map.upd [] s.frames (frameList p tier2) (fun old => old ++ l.filter (fun f => !old.contains f)) }
      else s)

end Sys2Proof.Machine
end

