-- ==== Sys2Proof/Machine/Loader.lean ====
section
/-! DEFINITION. Package reset with its signed images, and the loader of linked images (R19, R24, R42 to R53, R292, R324). -/

namespace Sys2Proof.Machine

/-! Package reset (R24). -/

/-- The range of a tier-2 port as a configuration image assigns it; one that does not lie in the window assigns nothing (R19, R324,
notes/assumptions/116.md). -/
def t2Range (e : Nat × Nat × Nat) : Option (Nat × T2Port) :=
  let (p, base, size) := e
  if p < 12 ∧ 0x10000000000 ≤ base ∧ base + size * 1048576 ≤ 0x30000000000 then
    some (p, { base := base, sizeMiB := size, up := decide (size ≠ 0) })
  else none

/-- An image of the package may be loaded: the signature verifies over the digest of its bytes, and the rollback counter that they
state is not below the one in the enclave. -/
def imageGood (i : SignedImage) : Bool :=
  Config.verify Config.rootKey i.signature (Config.digest 64 i.file) && decide (Config.rollback ≤ Config.imageCounter i.file)

/-- The configuration image and every firmware image with it may be loaded. -/
def imagesGood (i : ConfigImage) : Bool := imageGood i.config && i.firmware.all imageGood

/-- An attestation report of the device: its body, signed in the enclave with the identity key over the digest (R24). No step of the
spec asks for one (notes/assumptions/116.md). -/
def State.attest (s : State) (body : List Byte) : SignedImage :=
  { file := body, signature := Config.sign s.identity.2 (Config.digest 64 body) }

/-- Bytes of a local memory. -/
def localBytes : Nat → List Byte → Map Byte → Map Byte
  | _, [], m => m
  | a, b :: t, m => localBytes (a + 1) t (Map.set 0 m a b)

/-- Firmware is put into the local memories of the front-end processors. -/
def loadCode : List (Nat × Nat × List Byte) → State → State
  | [], s => s
  | (n, a, b) :: t, s => loadCode t (if n < 32 then s.updFep n (fun f => { f with mem := localBytes a b f.mem }) else s)

/-- PACKAGE_RESET: the images are verified, the tier-2 ranges that the configuration's bytes assign are set and the firmware that the
images' bytes hold is loaded; or the package stays in reset, which the host link reports (R24). With no image to verify it stays in
reset too (notes/assumptions/116.md). What the model keeps for itself, the cells of the enclave, the flash and the host's own memory
are not reset. -/
def execPackageReset (img : Option ConfigImage) (s : State) : Host.Outcome State Fault Refusal :=
  let base : State := { State.reset with agenda := s.agenda, fresh := s.fresh, nextId := s.nextId, hostMem := s.hostMem,
                                         hostUp := s.hostUp, identity := s.identity, certificate := s.certificate }
  .next (match img with
    | none => { base with inReset := true }
    | some i =>
      if imagesGood i then
        loadCode (i.firmware.flatMap (fun f => Config.imageCode f.file))
          { base with t2 := ((Config.imageRanges i.config.file).filterMap t2Range).foldl (fun m e => Map.put m e.1 e.2) [] }
      else { base with inReset := true })

/-! The NOF file (R42 to R46, R51). -/

/-- A field of a file: n bytes at an offset. -/
def fileField (b : List Byte) (off n : Nat) : Nat := leOf ((b.drop off).take n)

/-- A section-table entry (R43). -/
structure Section where
  ty : Nat
  off : Nat
  size : Nat
  link : Nat
deriving DecidableEq, Repr

/-- The section table (R42, R43). -/
def sectionsOf (b : List Byte) : List Section :=
  let at_ := fileField b 16 8
  (List.range (fileField b 12 4)).map (fun i =>
    let e := b.drop (at_ + 48 * i)
    { ty := fileField e 4 2, off := fileField e 8 8, size := fileField e 16 8, link := fileField e 32 4 })

/-- The contents of a section; zeros of a ZERO section (R44). -/
def contentsOf (b : List Byte) (x : Section) : List Byte := if x.ty = 3 then List.replicate x.size 0 else (b.drop x.off).take x.size

/-- The sections of a type. -/
def ofType (ty : Nat) (l : List Section) : List Section := l.filter (fun x => x.ty == ty)

/-- FLAGS bit 0 of the header (R42). -/
def signedFlag (b : List Byte) : Bool := (fileField b 8 4).testBit 0

/-- The file is a linked image of the form that the spec gives: header, a null section 0, section types, the number of each, and a
SIG section just where FLAGS bit 0 says so, of 3,373 bytes with its reserved field of zeros (R42 to R44, R53). Which breaches of the
layout the loader refuses, and which it passes over, is the model's choice (notes/assumptions/122.md). -/
def wellFormed (b : List Byte) : Bool :=
  let l := (sectionsOf b).drop 1
  let n := fileField b 12 4
  decide (fileField b 0 4 = 0x00464F4E) && decide (fileField b 4 2 = 1) && decide (fileField b 6 2 = 2)
  && decide (fileField b 8 4 < 2) && decide (1 ≤ n) && decide (n ≤ 65535) && decide (fileField b 16 8 % 8 = 0)
  && decide (fileField b (fileField b 16 8) 48 = 0) && decide (fileField b 16 8 + 48 * n ≤ b.length)
  && l.all (fun x => decide (1 ≤ x.ty) && decide (x.ty ≤ 12))
  && [5, 6, 11].all (fun t => decide ((ofType t l).length = 1))
  && [8, 9, 10].all (fun t => decide ((ofType t l).length ≤ 1))
  && decide ((ofType 12 l).length = if signedFlag b then 1 else 0)
  && (ofType 12 l).all (fun x => decide (x.size = 3373) && decide (x.off + x.size ≤ b.length) && decide (fileField b (x.off + 32) 32 = 0))

/-- The key identifier and the signature of a file (R53). -/
def sigOf (b : List Byte) : Option (List Byte × List Byte) :=
  ((ofType 12 (sectionsOf b)).head?).map (fun x => ((b.drop x.off).take 32, (b.drop (x.off + 64)).take 3309))

/-- The signed message: the digest of every byte of the file but the contents of its SIG section (R53). -/
def messageOf (b : List Byte) : List Byte :=
  Config.digest 64 (match (ofType 12 (sectionsOf b)).head? with
    | some x => b.take x.off ++ b.drop (x.off + x.size)
    | none => b)

/-- The bytes of a symbol's entry (R45). -/
def symbolEntry (img : ImageFile) (sym : Nat) : Option (List Byte) :=
  ((ofType 5 (sectionsOf img.file)).head?).map (fun t => img.file.drop (t.off + 32 * sym))

/-- The final address of a symbol: where its section is mapped, and its value there; for the kinds 4 to 9, which are never undefined,
the value alone (R45, R47). A symbol of a section that is not mapped has none (notes/assumptions/123.md). -/
def symbolAt (img : ImageFile) (sym : Nat) : Option Nat :=
  (symbolEntry img sym).bind (fun e =>
    if 4 ≤ fileField e 24 1 ∧ fileField e 24 1 ≤ 9 then some (fileField e 8 8)
    else (img.maps.find? (fun m => m.1 == fileField e 4 4)).map (fun m => m.2 + fileField e 8 8))

/-- The address that a ring's storage symbol names: of a bank, the bank's own in the scratchpad window (R36, R45, R133, R300); and 0
where the symbol has none (notes/assumptions/123.md). -/
def storageAt (img : ImageFile) (sym : Nat) : Nat :=
  match symbolEntry img sym with
  | none => 0
  | some e => if fileField e 24 1 = 5 then 0xFFFFFFFFF00000 + 32768 * fileField e 8 8 else (symbolAt img sym).getD 0

/-! Relocations (R46, R47). -/

/-- A field of bits of some bytes at an offset takes a value. -/
def setField (b : List Byte) (off lsb width v : Nat) : List Byte :=
  let n := leOf ((b.drop off).take 32)
  let old := n / 2 ^ lsb % 2 ^ width
  b.take off ++ leBytes (min 32 (b.length - off)) (n - old * 2 ^ lsb + v % 2 ^ width * 2 ^ lsb) ++ b.drop (off + 32)

/-- A relocation of a section at its address: none where R47 refuses the image. A field 64 bits wide takes every pattern as it is
(R27, notes/assumptions/123.md). -/
def relocate (img : ImageFile) (va : Nat) (e : List Byte) (b : List Byte) : Option (List Byte) :=
  let off := fileField e 0 8
  let width := fileField e 13 1
  let shift := fileField e 14 1
  let flags := fileField e 15 1
  match symbolAt img (fileField e 8 4) with
  | none => none
  | some a =>
    let v : Int := (a : Int) + signed (fileField e 16 8) 64 - (if flags.testBit 0 then ((va + off : Nat) : Int) else 0)
    let w := v / ((2 ^ shift : Nat) : Int)
    let (lo, hi) : Int × Int := if flags.testBit 1 then (-((2 ^ (width - 1) : Nat) : Int), ((2 ^ (width - 1) : Nat) : Int))
      else (0, ((2 ^ width : Nat) : Int))
    if v % ((2 ^ shift : Nat) : Int) ≠ 0 ∨ (width < 64 ∧ (w < lo ∨ hi ≤ w)) then none
    else some (setField b off (fileField e 12 1) width (w % ((2 ^ width : Nat) : Int)).toNat)

/-- The relocations of a section, in order. -/
def relocateAll (img : ImageFile) (va : Nat) : List (List Byte) → List Byte → Option (List Byte)
  | [], b => some b
  | e :: t, b => (relocate img va e b).bind (relocateAll img va t)

/-- Bytes in entries of n. -/
def entriesOf (n : Nat) (b : List Byte) : List (List Byte) := (List.range (b.length / n)).map (fun i => (b.drop (n * i)).take n)

/-- The contents of the mapped sections with their addresses, relocated: none where a relocation refuses the image. -/
def loaded (img : ImageFile) : List (Nat × Nat) → Option (List (Nat × List Byte))
  | [] => some []
  | (i, va) :: t =>
    let l := sectionsOf img.file
    match l[i]? with
    | none => loaded img t
    | some x =>
      let rel := (ofType 7 l).filter (fun r => r.link == i)
      match relocateAll img va (rel.flatMap (fun r => entriesOf 32 (contentsOf img.file r))) (contentsOf img.file x), loaded img t with
      | some b, some rest => some ((va, b) :: rest)
      | _, _ => none

/-! Objects (R51, R292). -/

/-- The regions that the bindings of an object give it: number, start, length. -/
def bindingsOf (img : ImageFile) (l : List (List Byte)) (sym : Nat) : List (Nat × Nat × Nat) :=
  (l.filter (fun e => decide (fileField e 0 1 = 4) && decide (fileField e 4 4 = sym))).filterMap (fun e =>
    (symbolAt img (fileField e 8 8)).map (fun a => (fileField e 24 8, a, fileField e 16 8)))

/-- The slot image of an object at its first state (R292). -/
def slotImage (img : ImageFile) (l : List (List Byte)) (e : List Byte) : List Byte :=
  let kind := fileField e 0 1
  let b := bindingsOf img l (fileField e 4 4)
  let store := if kind = 1 then storageAt img (fileField e 24 8) else 0
  field 1 kind ++ field 1 1 ++ field 2 0 ++ field 4 (fileField e 8 8) ++ field 4 (if kind = 1 then fileField e 16 8 else 0)
  ++ field 28 0 ++ field 8 store ++ field 16 0
  ++ (List.range 4).flatMap (fun i => match b.find? (fun r => r.1 == i) with
      | some (_, a, n) => field 8 a ++ field 8 n
      | none => field 16 0)

/-- The slot images of a file, with their addresses; an object whose symbol has none is left out (notes/assumptions/123.md). -/
def objectsOf (img : ImageFile) : List (Nat × List Byte) :=
  let l := (ofType 10 (sectionsOf img.file)).flatMap (fun x => entriesOf 32 (contentsOf img.file x))
  (l.filter (fun e => decide (1 ≤ fileField e 0 1) && decide (fileField e 0 1 ≤ 3))).filterMap (fun e =>
    (symbolAt img (fileField e 4 4)).map (fun a => (a, slotImage img l e)))

/-! The load (R53). -/

/-- The key identifier is enrolled for the polder (R53, R347). -/
def enrolled (s : State) (p : Nat) (key : List Byte) : Bool :=
  let at_ := s.ptField p 64 8
  (List.range (s.ptField p 72 1)).any (fun i => decide (s.readBytes (at_ + 32 * i) 32 = key))

/-- How the check of an image before its relocations ends (R53): 1 success, 2 SIGFAIL, 3 malformed. -/
def loadVerdict (s : State) (p : Nat) (img : ImageFile) : Nat :=
  let req := (s.ptField p 1 1).testBit 0
  if !wellFormed img.file then 3
  else match sigOf img.file with
    | none => if req then 2 else 1
    | some (key, sig) => if Config.verify key sig (messageOf img.file) && (!req || enrolled s p key) then 1 else 2

/-- Bytes at a virtual address of the polder, page by page, where the host runtime has mapped them. -/
def placeBytes (p : Nat) : List (Nat × Nat) → List Byte → State → State
  | [], _, s => s
  | (va, n) :: t, b, s =>
    placeBytes p t (b.drop n) (match s.feAddr p va with
      | some pa => s.hostLine pa (b.take n)
      | none => s)

/-- The contents of an image are placed. -/
def placeImage (p : Nat) : List (Nat × List Byte) → State → State
  | [], s => s
  | (va, b) :: t, s => placeImage p t (placeBytes p (cutLines (b.length / 128 + 2) va b.length) b s)

/-- IMAGE_LOAD: the contents are placed, and the slot images of its objects; or no section of the image goes to memory (R53,
R292). -/
def execImageLoad (p : Nat) (img : ImageFile) (s : State) : Host.Outcome State Fault Refusal :=
  .next (
    if 16 ≤ p || s.inReset then s
    else
      match loadVerdict s p img, loaded img img.maps with
      | 1, some l => { placeImage p (l ++ objectsOf img) s with loadEnd := 1 }
      | 1, none => { s with loadEnd := 3 }
      | v, _ => { s with loadEnd := v })

end Sys2Proof.Machine
end

