-- ==== Sys2Proof/Machine/Dispatch.lean ====
section
/-! DEFINITION. The dispatch: one arm for each constructor of `Instr`, each one call of its meaning. -/

namespace Sys2Proof.Machine

/-- The meaning of an instruction. -/
def exec (i : Instr) (s : State) : Host.Outcome State Fault Refusal :=
  match i with
  | .add g xd xa xb => Sys2Proof.Machine.execAdd g xd xa xb s
  | .sub g xd xa xb => Sys2Proof.Machine.execSub g xd xa xb s
  | .and g xd xa xb => Sys2Proof.Machine.execAnd g xd xa xb s
  | .or g xd xa xb => Sys2Proof.Machine.execOr g xd xa xb s
  | .xor g xd xa xb => Sys2Proof.Machine.execXor g xd xa xb s
  | .shl g xd xa xb => Sys2Proof.Machine.execShl g xd xa xb s
  | .shr g xd xa xb => Sys2Proof.Machine.execShr g xd xa xb s
  | .sra g xd xa xb => Sys2Proof.Machine.execSra g xd xa xb s
  | .slt g xd xa xb => Sys2Proof.Machine.execSlt g xd xa xb s
  | .sltu g xd xa xb => Sys2Proof.Machine.execSltu g xd xa xb s
  | .min g xd xa xb => Sys2Proof.Machine.execMin g xd xa xb s
  | .max g xd xa xb => Sys2Proof.Machine.execMax g xd xa xb s
  | .minu g xd xa xb => Sys2Proof.Machine.execMinu g xd xa xb s
  | .maxu g xd xa xb => Sys2Proof.Machine.execMaxu g xd xa xb s
  | .mul g xd xa xb => Sys2Proof.Machine.execMul g xd xa xb s
  | .mulh g xd xa xb => Sys2Proof.Machine.execMulh g xd xa xb s
  | .mulhu g xd xa xb => Sys2Proof.Machine.execMulhu g xd xa xb s
  | .div g xd xa xb => Sys2Proof.Machine.execDiv g xd xa xb s
  | .divu g xd xa xb => Sys2Proof.Machine.execDivu g xd xa xb s
  | .rem g xd xa xb => Sys2Proof.Machine.execRem g xd xa xb s
  | .remu g xd xa xb => Sys2Proof.Machine.execRemu g xd xa xb s
  | .addi xd xa imm => Sys2Proof.Machine.execAddi xd xa imm s
  | .andi xd xa imm => Sys2Proof.Machine.execAndi xd xa imm s
  | .ori xd xa imm => Sys2Proof.Machine.execOri xd xa imm s
  | .xori xd xa imm => Sys2Proof.Machine.execXori xd xa imm s
  | .shli xd xa sh => Sys2Proof.Machine.execShli xd xa sh s
  | .shri xd xa sh => Sys2Proof.Machine.execShri xd xa sh s
  | .srai xd xa sh => Sys2Proof.Machine.execSrai xd xa sh s
  | .lui xd imm => Sys2Proof.Machine.execLui xd imm s
  | .ext g xd xa xb => Sys2Proof.Machine.execExt g xd xa xb s
  | .extu g xd xa xb => Sys2Proof.Machine.execExtu g xd xa xb s
  | .ins g xd xa xb => Sys2Proof.Machine.execIns g xd xa xb s
  | .clz g xd xa => Sys2Proof.Machine.execClz g xd xa s
  | .ctz g xd xa => Sys2Proof.Machine.execCtz g xd xa s
  | .popc g xd xa => Sys2Proof.Machine.execPopc g xd xa s
  | .rev8 g xd xa => Sys2Proof.Machine.execRev8 g xd xa s
  | .ld ty xd xa xi imm => Sys2Proof.Machine.execLd ty xd xa xi imm s
  | .st ty xd xa xi imm => Sys2Proof.Machine.execSt ty xd xa xi imm s
  | .beq xa xb off => Sys2Proof.Machine.execBeq xa xb off s
  | .bne xa xb off => Sys2Proof.Machine.execBne xa xb off s
  | .blt xa xb off => Sys2Proof.Machine.execBlt xa xb off s
  | .bge xa xb off => Sys2Proof.Machine.execBge xa xb off s
  | .bltu xa xb off => Sys2Proof.Machine.execBltu xa xb off s
  | .bgeu xa xb off => Sys2Proof.Machine.execBgeu xa xb off s
  | .bwany off => Sys2Proof.Machine.execBwany off s
  | .bwall off => Sys2Proof.Machine.execBwall off s
  | .bwnone off => Sys2Proof.Machine.execBwnone off s
  | .bwcge xa off => Sys2Proof.Machine.execBwcge xa off s
  | .btk off => Sys2Proof.Machine.execBtk off s
  | .bnt off => Sys2Proof.Machine.execBnt off s
  | .bal off => Sys2Proof.Machine.execBal off s
  | .jal xd off => Sys2Proof.Machine.execJal xd off s
  | .jalr xd xa imm => Sys2Proof.Machine.execJalr xd xa imm s
  | .loopReg lvl len xa xd => Sys2Proof.Machine.execLoopReg lvl len xa xd s
  | .loopImm lvl len cnt xd => Sys2Proof.Machine.execLoopImm lvl len cnt xd s
  | .lend lvl rot brk qm xa xv => Sys2Proof.Machine.execLend lvl rot brk qm xa xv s
  | .give g qn cnt => Sys2Proof.Machine.execGive g qn cnt s
  | .take g qn cnt => Sys2Proof.Machine.execTake g qn cnt s
  | .tcnt g qn xa => Sys2Proof.Machine.execTcnt g qn xa s
  | .tryt g qn xa cnt => Sys2Proof.Machine.execTryt g qn xa cnt s
  | .bqput g qn xa => Sys2Proof.Machine.execBqput g qn xa s
  | .qld g qn xa cnt => Sys2Proof.Machine.execQld g qn xa cnt s
  | .qldi g qn xa cnt => Sys2Proof.Machine.execQldi g qn xa cnt s
  | .qrow g qn xa cnt => Sys2Proof.Machine.execQrow g qn xa cnt s
  | .qrowi g qn xa cnt => Sys2Proof.Machine.execQrowi g qn xa cnt s
  | .qst g qn xa cnt => Sys2Proof.Machine.execQst g qn xa cnt s
  | .qsti g qn xa cnt => Sys2Proof.Machine.execQsti g qn xa cnt s
  | .qdrop g qn cnt => Sys2Proof.Machine.execQdrop g qn cnt s
  | .push g xd => Sys2Proof.Machine.execPush g xd s
  | .pushb g xd => Sys2Proof.Machine.execPushb g xd s
  | .csrr xd csr => Sys2Proof.Machine.execCsrr xd csr s
  | .csrw csr xa => Sys2Proof.Machine.execCsrw csr xa s
  | .csrs csr xa => Sys2Proof.Machine.execCsrs csr xa s
  | .csrc csr xa => Sys2Proof.Machine.execCsrc csr xa s
  | .csrx xd csr xa => Sys2Proof.Machine.execCsrx xd csr xa s
  | .nop => Sys2Proof.Machine.execNop s
  | .halt => Sys2Proof.Machine.execHalt s
  | .stop => Sys2Proof.Machine.execStop s
  | .yield => Sys2Proof.Machine.execYield s
  | .abort => Sys2Proof.Machine.execAbort s
  | .fence => Sys2Proof.Machine.execFence s
  | .tide xd => Sys2Proof.Machine.execTide xd s
  | .brk => Sys2Proof.Machine.execBrk s
  | .rbset xa imm => Sys2Proof.Machine.execRbset xa imm s
  | .vrnd mode => Sys2Proof.Machine.execVrnd mode s
  | .reservedMajor w => Sys2Proof.Machine.execReservedMajor w s
  | .rinit g xd xa => Sys2Proof.Machine.execRinit g xd xa s
  | .rwaitf g xd xa xb => Sys2Proof.Machine.execRwaitf g xd xa xb s
  | .rwaite g xd xa xb => Sys2Proof.Machine.execRwaite g xd xa xb s
  | .rclaim g xd xa xb => Sys2Proof.Machine.execRclaim g xd xa xb s
  | .rpost g xa xb => Sys2Proof.Machine.execRpost g xa xb s
  | .rfree g xa xb => Sys2Proof.Machine.execRfree g xa xb s
  | .crecv g xd xa c => Sys2Proof.Machine.execCrecv g xd xa c s
  | .ccnt g xd c => Sys2Proof.Machine.execCcnt g xd c s
  | .binit g xd xa xb => Sys2Proof.Machine.execBinit g xd xa xb s
  | .binitf g xd xa xb => Sys2Proof.Machine.execBinitf g xd xa xb s
  | .bkill g xa => Sys2Proof.Machine.execBkill g xa s
  | .barr g xd xa => Sys2Proof.Machine.execBarr g xd xa s
  | .bwait g xd xa xb => Sys2Proof.Machine.execBwait g xd xa xb s
  | .sync g xd xa => Sys2Proof.Machine.execSync g xd xa s
  | .acq g xd xa => Sys2Proof.Machine.execAcq g xd xa s
  | .rel g xa => Sys2Proof.Machine.execRel g xa s
  | .sbind g xa xb n => Sys2Proof.Machine.execSbind g xa xb n s
  | .xbeg g xd xa => Sys2Proof.Machine.execXbeg g xd xa s
  | .xend g xd => Sys2Proof.Machine.execXend g xd s
  | .xabt g => Sys2Proof.Machine.execXabt g s
  | .xst g xd => Sys2Proof.Machine.execXst g xd s
  | .vadd c d a b => Sys2Proof.Machine.execVadd c d a b s
  | .vsub c d a b => Sys2Proof.Machine.execVsub c d a b s
  | .vmul c d a b => Sys2Proof.Machine.execVmul c d a b s
  | .vfma c d a b => Sys2Proof.Machine.execVfma c d a b s
  | .vfms c d a b => Sys2Proof.Machine.execVfms c d a b s
  | .vfnma c d a b => Sys2Proof.Machine.execVfnma c d a b s
  | .vmin c d a b => Sys2Proof.Machine.execVmin c d a b s
  | .vmax c d a b => Sys2Proof.Machine.execVmax c d a b s
  | .vabs c d a => Sys2Proof.Machine.execVabs c d a s
  | .vneg c d a => Sys2Proof.Machine.execVneg c d a s
  | .vmulh c d a b => Sys2Proof.Machine.execVmulh c d a b s
  | .vavg c d a b => Sys2Proof.Machine.execVavg c d a b s
  | .vand c d a b => Sys2Proof.Machine.execVand c d a b s
  | .vor c d a b => Sys2Proof.Machine.execVor c d a b s
  | .vxor c d a b => Sys2Proof.Machine.execVxor c d a b s
  | .vnot c d a => Sys2Proof.Machine.execVnot c d a s
  | .vshl c d a b => Sys2Proof.Machine.execVshl c d a b s
  | .vshr c d a b => Sys2Proof.Machine.execVshr c d a b s
  | .vsra c d a b => Sys2Proof.Machine.execVsra c d a b s
  | .vrol c d a b => Sys2Proof.Machine.execVrol c d a b s
  | .vrcp c d a => Sys2Proof.Machine.execVrcp c d a s
  | .vrsq c d a => Sys2Proof.Machine.execVrsq c d a s
  | .vsqrt c d a => Sys2Proof.Machine.execVsqrt c d a s
  | .vexp2 c d a => Sys2Proof.Machine.execVexp2 c d a s
  | .vlog2 c d a => Sys2Proof.Machine.execVlog2 c d a s
  | .vtanh c d a => Sys2Proof.Machine.execVtanh c d a s
  | .vsigm c d a => Sys2Proof.Machine.execVsigm c d a s
  | .vcvt c d a sty => Sys2Proof.Machine.execVcvt c d a sty s
  | .vquant c d a b => Sys2Proof.Machine.execVquant c d a b s
  | .vdequant c d a b => Sys2Proof.Machine.execVdequant c d a b s
  | .vclamp c d a b => Sys2Proof.Machine.execVclamp c d a b s
  | .vpack c d a b => Sys2Proof.Machine.execVpack c d a b s
  | .vceq c md a b => Sys2Proof.Machine.execVceq c md a b s
  | .vcne c md a b => Sys2Proof.Machine.execVcne c md a b s
  | .vclt c md a b => Sys2Proof.Machine.execVclt c md a b s
  | .vcle c md a b => Sys2Proof.Machine.execVcle c md a b s
  | .vcun c md a b => Sys2Proof.Machine.execVcun c md a b s
  | .vmand g md ma mb => Sys2Proof.Machine.execVmand g md ma mb s
  | .vmor g md ma mb => Sys2Proof.Machine.execVmor g md ma mb s
  | .vmxor g md ma mb => Sys2Proof.Machine.execVmxor g md ma mb s
  | .vmandn g md ma mb => Sys2Proof.Machine.execVmandn g md ma mb s
  | .vflags g ty ma => Sys2Proof.Machine.execVflags g ty ma s
  | .vsel c d a b => Sys2Proof.Machine.execVsel c d a b s
  | .vperm c d a b => Sys2Proof.Machine.execVperm c d a b s
  | .vbcast c d a xs idx => Sys2Proof.Machine.execVbcast c d a xs idx s
  | .vslup c d a xf amt => Sys2Proof.Machine.execVslup c d a xf amt s
  | .vsldn c d a xf amt => Sys2Proof.Machine.execVsldn c d a xf amt s
  | .vzip g ty d a b => Sys2Proof.Machine.execVzip g ty d a b s
  | .vunzip g ty d a => Sys2Proof.Machine.execVunzip g ty d a s
  | .vrsum c d a => Sys2Proof.Machine.execVrsum c d a s
  | .vrmax c d a => Sys2Proof.Machine.execVrmax c d a s
  | .vrmin c d a => Sys2Proof.Machine.execVrmin c d a s
  | .vaccrd c d acs => Sys2Proof.Machine.execVaccrd c d acs s
  | .vaccwr c acs a => Sys2Proof.Machine.execVaccwr c acs a s
  | .wspill g sp w cnt => Sys2Proof.Machine.execWspill g sp w cnt s
  | .wfill g w sp cnt => Sys2Proof.Machine.execWfill g w sp cnt s
  | .defer c a tag xi k => Sys2Proof.Machine.execDefer c a tag xi k s
  | .drain g ty d idx md tag k => Sys2Proof.Machine.execDrain g ty d idx md tag k s
  | .vectorLand core => Sys2Proof.Machine.execVectorLand core s
  | .mma m => Sys2Proof.Machine.execMma m s
  | .mlatch g ty bbuf brow btr => Sys2Proof.Machine.execMlatch g ty bbuf brow btr s
  | .mzero g act => Sys2Proof.Machine.execMzero g act s
  | .mtcopy g act src => Sys2Proof.Machine.execMtcopy g act src s
  | .mtadd g ty act src => Sys2Proof.Machine.execMtadd g ty act src s
  | .mtscale g ty act tfill => Sys2Proof.Machine.execMtscale g ty act tfill s
  | .mtout g ty act mm1 rows => Sys2Proof.Machine.execMtout g ty act mm1 rows s
  | .mrnd g mode => Sys2Proof.Machine.execMrnd g mode s
  | .mlease g => Sys2Proof.Machine.execMlease g s
  | .mfree g => Sys2Proof.Machine.execMfree g s
  | .mwait g => Sys2Proof.Machine.execMwait g s
  | .matrixOrderHead core => Sys2Proof.Machine.execMatrixOrderHead core s
  | .vaccwrApply core => Sys2Proof.Machine.execVaccwrApply core s
  | .grant cl => Sys2Proof.Machine.execGrant cl s
  | .mxaStart cl => Sys2Proof.Machine.execMxaStart cl s
  | .matrixComplete cl => Sys2Proof.Machine.execMatrixComplete cl s
  | .termIdle cl => Sys2Proof.Machine.execTermIdle cl s
  | .accessPerform core st => Sys2Proof.Machine.execAccessPerform core st s
  | .storeDrain core => Sys2Proof.Machine.execStoreDrain core s
  | .cpeDequeue cl => Sys2Proof.Machine.execCpeDequeue cl s
  | .cpeStep cl id => Sys2Proof.Machine.execCpeStep cl id s
  | .commandComplete cl id => Sys2Proof.Machine.execCommandComplete cl id s
  | .copy1 cl id => Sys2Proof.Machine.execCopy1 cl id s
  | .copy2 cl id => Sys2Proof.Machine.execCopy2 cl id s
  | .copy3 cl id => Sys2Proof.Machine.execCopy3 cl id s
  | .gather cl id => Sys2Proof.Machine.execGather cl id s
  | .scatter cl id => Sys2Proof.Machine.execScatter cl id s
  | .accum cl id => Sys2Proof.Machine.execAccum cl id s
  | .fill cl id => Sys2Proof.Machine.execFill cl id s
  | .coll cl id => Sys2Proof.Machine.execColl cl id s
  | .culvert cl id => Sys2Proof.Machine.execCulvert cl id s
  | .signal cl id => Sys2Proof.Machine.execSignal cl id s
  | .t2pf cl id => Sys2Proof.Machine.execT2pf cl id s
  | .migrate cl id => Sys2Proof.Machine.execMigrate cl id s
  | .inval cl id => Sys2Proof.Machine.execInval cl id s
  | .launch cl id => Sys2Proof.Machine.execLaunch cl id s
  | .owner cl id => Sys2Proof.Machine.execOwner cl id s
  | .invalidationComplete id => Sys2Proof.Machine.execInvalidationComplete id s
  | .trap core => Sys2Proof.Machine.execTrap core s
  | .clear core => Sys2Proof.Machine.execClear core s
  | .faultRecordWrite core => Sys2Proof.Machine.execFaultRecordWrite core s
  | .faultPolicy core bank => Sys2Proof.Machine.execFaultPolicy core bank s
  | .swap core => Sys2Proof.Machine.execSwap core s
  | .swapDone core => Sys2Proof.Machine.execSwapDone core s
  | .resume terp value => Sys2Proof.Machine.execResume terp value s
  | .ceFreeze u => Sys2Proof.Machine.execCeFreeze u s
  | .freezeEnd u => Sys2Proof.Machine.execFreezeEnd u s
  | .clockHopDone island => Sys2Proof.Machine.execClockHopDone island s
  | .doorbell q off data => Sys2Proof.Machine.execDoorbell q off data s
  | .qsync terp index => Sys2Proof.Machine.execQsync terp index s
  | .qsyncRelease terp index => Sys2Proof.Machine.execQsyncRelease terp index s
  | .qsyncWriteback terp => Sys2Proof.Machine.execQsyncWriteback terp s
  | .rfetch rd rs1 rs2 => Sys2Proof.Machine.execRfetch rd rs1 rs2 s
  | .bfx rd rs1 rs2 => Sys2Proof.Machine.execBfx rd rs1 rs2 s
  | .swait rd rs1 rs2 => Sys2Proof.Machine.execSwait rd rs1 rs2 s
  | .dispatch rd rs1 rs2 => Sys2Proof.Machine.execDispatch rd rs1 rs2 s
  | .nopEntry q => Sys2Proof.Machine.execNopEntry q s
  | .chainEntry q => Sys2Proof.Machine.execChainEntry q s
  | .swaitEntry q => Sys2Proof.Machine.execSwaitEntry q s
  | .queueSignal q => Sys2Proof.Machine.execQueueSignal q s
  | .swriteEntry q => Sys2Proof.Machine.execSwriteEntry q s
  | .fenceEntry q => Sys2Proof.Machine.execFenceEntry q s
  | .operatorActivate fep => Sys2Proof.Machine.execOperatorActivate fep s
  | .watchdogExpiry q => Sys2Proof.Machine.execWatchdogExpiry q s
  | .scrubComplete polder => Sys2Proof.Machine.execScrubComplete polder s
  | .noticeWrite fep => Sys2Proof.Machine.execNoticeWrite fep s
  | .stageEvaluation rcb => Sys2Proof.Machine.execStageEvaluation rcb s
  | .groupPlace rcb stage => Sys2Proof.Machine.execGroupPlace rcb stage s
  | .groupRetire core bank => Sys2Proof.Machine.execGroupRetire core bank s
  | .preempt core => Sys2Proof.Machine.execPreempt core s
  | .groupRestore rcb stage gidx => Sys2Proof.Machine.execGroupRestore rcb stage gidx s
  | .thermalMigration core => Sys2Proof.Machine.execThermalMigration core s
  | .migrationRequest core reading => Sys2Proof.Machine.execMigrationRequest core reading s
  | .thermalRelease core reading => Sys2Proof.Machine.execThermalRelease core reading s
  | .pageMove id => Sys2Proof.Machine.execPageMove id s
  | .pageEngineScan polder => Sys2Proof.Machine.execPageEngineScan polder s
  | .hostInval terp value => Sys2Proof.Machine.execHostInval terp value s
  | .dredgerStep line => Sys2Proof.Machine.execDredgerStep line s
  | .lowtideUpdate terp => Sys2Proof.Machine.execLowtideUpdate terp s
  | .patrolScrub line found => Sys2Proof.Machine.execPatrolScrub line found s
  | .undervoltWindow island ends found => Sys2Proof.Machine.execUndervoltWindow island ends found s
  | .arbiterInterval => Sys2Proof.Machine.execArbiterInterval s
  | .droopStart island => Sys2Proof.Machine.execDroopStart island s
  | .droopEnd island => Sys2Proof.Machine.execDroopEnd island s
  | .unitArrival sv polder line => Sys2Proof.Machine.execUnitArrival sv polder line s
  | .unitService sv => Sys2Proof.Machine.execUnitService sv s
  | .dlkTrain port => Sys2Proof.Machine.execDlkTrain port s
  | .dlkDisable port => Sys2Proof.Machine.execDlkDisable port s
  | .trainDone port delay pdev pport => Sys2Proof.Machine.execTrainDone port delay pdev pport s
  | .trainTimeout port => Sys2Proof.Machine.execTrainTimeout port s
  | .loss port => Sys2Proof.Machine.execLoss port s
  | .dlkDrained port => Sys2Proof.Machine.execDlkDrained port s
  | .idleFlit port => Sys2Proof.Machine.execIdleFlit port s
  | .flitWrite port f => Sys2Proof.Machine.execFlitWrite port f s
  | .flitReduce port f rt => Sys2Proof.Machine.execFlitReduce port f rt s
  | .signalFlit port f add => Sys2Proof.Machine.execSignalFlit port f add s
  | .ack port seq refused => Sys2Proof.Machine.execAck port seq refused s
  | .nak port seq => Sys2Proof.Machine.execNak port seq s
  | .credit port n => Sys2Proof.Machine.execCredit port n s
  | .remapack port f len => Sys2Proof.Machine.execRemapack port f len s
  | .fwddone port f len => Sys2Proof.Machine.execFwddone port f len s
  | .lrswWrite value => Sys2Proof.Machine.execLrswWrite value s
  | .fwdStateWrite idx state => Sys2Proof.Machine.execFwdStateWrite idx state s
  | .t2PortLost port unread unwritten => Sys2Proof.Machine.execT2PortLost port unread unwritten s
  | .hostLinkDown => Sys2Proof.Machine.execHostLinkDown s
  | .hostLinkUp => Sys2Proof.Machine.execHostLinkUp s
  | .polderStart polder => Sys2Proof.Machine.execPolderStart polder s
  | .polderStop polder => Sys2Proof.Machine.execPolderStop polder s
  | .sliceend polder => Sys2Proof.Machine.execSliceend polder s
  | .slicestart polder => Sys2Proof.Machine.execSlicestart polder s
  | .polderReset polder => Sys2Proof.Machine.execPolderReset polder s
  | .islandPowerState island pst => Sys2Proof.Machine.execIslandPowerState island pst s
  | .islandDivisorPermit island divok => Sys2Proof.Machine.execIslandDivisorPermit island divok s
  | .sensovrWrite terp value => Sys2Proof.Machine.execSensovrWrite terp value s
  | .revoke own => Sys2Proof.Machine.execRevoke own s
  | .assign own polder => Sys2Proof.Machine.execAssign own polder s
  | .weight polder cls wgt => Sys2Proof.Machine.execWeight polder cls wgt s
  | .leveeEvaluate => Sys2Proof.Machine.execLeveeEvaluate s
  | .registerWrite terp off value => Sys2Proof.Machine.execRegisterWrite terp off value s
  | .packageReset img => Sys2Proof.Machine.execPackageReset img s
  | .hostMemoryWrite w => Sys2Proof.Machine.execHostMemoryWrite w s
  | .nominalVoltageRestored island => Sys2Proof.Machine.execNominalVoltageRestored island s
  | .tileRowWrite cl => Sys2Proof.Machine.execTileRowWrite cl s
  | .imageLoad polder img => Sys2Proof.Machine.execImageLoad polder img s

end Sys2Proof.Machine
end

