-- ==== Sys2Proof/Machine/Turn.lean ====
section
/-! DEFINITION. One turn of a part of the machine: a sequencer's word, a front-end processor's word, an event, or the passing
of time (R5, R56, R57, R101, R125). -/

namespace Sys2Proof.Machine

/-- A sequencer attempts the word at its pc: fetch, decode, and the meaning (R56 to R58, R125, R138). A group that finds the
abort line asserted at its start issues no word (R279); a fetch that a lost port answers with a poisoned line faults (R324). -/
def seqTurn (k : Nat) (st : Stream) (s : State) : Host.Outcome State Fault Refusal :=
  let s := { s with cur := (k, st) }
  if 128 ≤ k || !s.canIssue k st then .next s
  else if !s.myCtx.started && s.lineUp s.myCtx then
    .next (s.updMyCtx (fun c =>
      { streams.foldl (fun c st => c.updSeq st (fun q => { q with stopped := true })) c with aborted := true }))
  else if s.me.lost then .next ((s.updMe (fun q => { q with lost := false })).raiseAt .poison s.me.pc.toNat 0 0)
  else if s.fetchHeld k st 4 then .next s
  else
    match s.fetch k st with
    | .error c =>
      .next (s.raiseAt c s.me.pc.toNat (s.poisonDetail c (fun s => match s.fetch k st with
        | .error c => some c
        | .ok _ => none)) 0)
    | .ok b =>
      if b.isEmpty || s.fetchHeld k st b.length then .next s
      else
        let s := (s.fetchWalk k st b.length).bodyEnds k st
        match decode b with
        | .error _ => .next (s.trap .illegalEnc)
        | .ok (i, rest) =>
          if !i.wf || misplaced s.me i then .next (s.trap .illegalEnc)
          else exec i (s.remember k st (b.take (b.length - rest.length)))

/-- The word at the pc of a front-end processor, from its local memory. -/
def fepWord (f : Fep) : Nat := leOf ((List.range 4).map (fun i => Map.get 0 f.mem (f.pc.toNat + i)))

/-- A front-end processor executes the word at its pc (R256): an Xnim word has its meaning, another word of custom-0 raises
the illegal-instruction exception, a CSR word that names xnimq reads and writes it (R258), mret returns from an exception, and any
other RISC-V word is outside the spec. -/
def fepTurn (n : Nat) (s : State) : Host.Outcome State Fault Refusal :=
  let s := { s with curFep := n }
  let w := fepWord (s.fep n)
  if 32 ≤ n || s.inReset || !s.islandOn (frontIsland (n / 8)) then .next s
  else
    match decodeFep w with
    | some i => exec i s
    | none =>
      if w % 128 = 0x0B then .next (s.fepTrap n 2 w)
      else if isXnimq w then .next (s.fepCsr w)
      else if w = 0x30200073 then .next (s.fepReturn n)
      else .refused (.fepBaseWord w)

/-- The event that the active context of a core drains for must be taken before the next cycle of the core: its shadow-clear
point stands (R232). -/
def State.clearDue (s : State) (k : Nat) : Bool := s.clearReady k && decide ((s.act k).eventAt < (s.core k).cyc)

/-- A trap waits for the running context, and is taken at this word boundary, before the next cycle (R233). -/
def State.trapDue (s : State) (k : Nat) : Bool := decide ((s.act k).st = .running) && (s.act k).trapReady

/-- One E-cycle of a core passes (R5, R6, R127, R128, R239): a result that is due lands first, and a waiting trap or a
shadow-clear point is taken first. -/
def cycleTurn (k : Nat) (s : State) : State :=
  let co := s.core k
  if 128 ≤ k || !s.islandOn (coreIsland k) || s.inReset then s
  else if co.frozen then s.updCore k (fun co => { co with freezeLeft := co.freezeLeft - 1 })
  else if (s.act k).landingDue co.cyc || s.clearDue k || s.trapDue k then s
  else
    let cyc := co.cyc + 1
    let s := s.updCore k (fun co =>
      { co with cyc := cyc, a := co.a.seeFlags cyc, b := co.b.seeFlags cyc })
    if co.swapEnd.isSome then s
    else s.updAct k (fun c =>
      if c.st = .running ∨ c.st = .draining ∨ c.st = .stopped then { c with ecyc := c.ecyc + 1 } else c)

/-- One CPE cycle of a cluster passes (R5, R239). -/
def cpeTurn (cl : Nat) (s : State) : State :=
  if 32 ≤ cl || !s.islandOn (cpeIsland cl) || s.inReset then s
  else if (s.cluster cl).cpe.frozen then
    s.updCluster cl (fun c => { c with cpe := { c.cpe with freezeLeft := c.cpe.freezeLeft - 1 } })
  else s

/-! A tick (R5). -/

/-- A queue as its entry in a cache has it, or its QCB. -/
def State.queueNow (s : State) (q : Nat) : Qcb :=
  match s.cached q with
  | some (_, e) => e
  | none => qRead s q

/-- The queues that a front end knows. -/
def State.knownQueues (s : State) : List Nat :=
  ((List.range 4).flatMap (fun t => (s.terp t).cache.map (·.1)) ++ s.qlive.map (·.1)).eraseDups

/-- A nimdbg stop holds a context of a region of the queue (R152, R263). -/
def State.debugHolds (s : State) (q : Nat) : Bool :=
  s.cores.any (fun e => [e.2.a, e.2.b].any (fun c =>
    (decide (c.st = .stopped) || decide (c.st = .swapping) && decide (c.was = .stopped)) && c.taken.isNone && c.notified
      && decide ((s.region c.group.region).queue = some q)))

/-- The watchdog counter of a queue advances with a tick, which its front end counts (R6, R263). -/
def State.wdogCounts (s : State) (q : Nat) : Bool :=
  let e := s.queueNow q
  s.islandOn (frontIsland e.home) && (decide (e.st = .active) || decide (e.st = .waiting)) && decide (e.wdog ≠ 0) && decide (s.polderSt e.polder ≠ 2)
    && !s.debugHolds q

/-- The watchdog counters after a tick. -/
def countQueues : List Nat → State → State
  | [], s => s
  | q :: t, s => countQueues t (if s.wdogCounts q then s.updLive q (fun l => { l with wd := l.wd + 1 }) else s)

/-- Something that the spec sets at a tick has come and not happened, where its island takes cycles: no further tick passes before
it (R237, R241, R263, R277, R325, R352, R356). -/
def State.tickDue (s : State) : Bool :=
  s.cores.any (fun e => match e.2.swapEnd with
    | some t => decide (t ≤ s.islandTime (coreIsland e.1))
    | none => false)
  || s.islands.any (fun e => match e.2.hop with
    | some (_, t) => decide (t ≤ s.tick)
    | none => false)
  || s.regions.any (fun e => decide (e.2.st = .running) && s.islandOn (frontIsland e.2.terp)
      && decide (e.2.evalAt ≤ s.islandTime (frontIsland e.2.terp)))
  || decide (s.arbAt ≤ s.tick)
  || s.ports.any (fun e => decide (e.2.st = .training) && s.linkOn e.1 && decide (e.2.timeout ≤ s.tick))
  || s.islands.any (fun e => s.windowEnds e.1)
  || s.knownQueues.any (fun q => s.islandOn (frontIsland (s.queueNow q).home) && s.wdogDue q)

/-- One REFCLK tick passes: islands with a droop take or skip its edge (R355), the sluices fill (R338) and the watchdogs count
(R263); a completion that was held goes on once nothing holds it (R312, R351). -/
def tickTurn (s : State) : State :=
  if s.tickDue || s.inReset then s
  else
    let t := s.tick
    (countQueues s.knownQueues
      { s with tick := t + 1, islands := s.islands.map (fun (e : Nat × Island) => (e.1, droopEdge t e.1 e.2)),
               owners := s.owners.map (fun (e : Nat × OEntry) => (e.1, fillSluices e.2)) }).settleHalts

/-! Events (R20, R24, R323, R351). -/

/-- The event is an access of the host: it takes place over the host link (R323). -/
def fromHost : Instr → Bool
  | .doorbell .. | .qsync .. | .qsyncRelease .. | .resume .. | .hostInval .. | .polderStart _ | .polderStop _ | .sliceend _
  | .slicestart _ | .polderReset _ | .islandPowerState .. | .islandDivisorPermit .. | .sensovrWrite .. | .revoke _ | .assign ..
  | .weight .. | .registerWrite .. | .hostMemoryWrite _ | .imageLoad .. | .dlkTrain _ | .dlkDisable _ | .lrswWrite _
  | .fwdStateWrite .. => true
  | _ => false

/-- The terps whose front ends an event takes cycles of (R20): the levee engine has a share in each. -/
def frontsOf (s : State) : Instr → List Nat
  | .qsyncWriteback t | .lowtideUpdate t => [t]
  | .doorbell q _ _ => [s.homeOf q]
  | .nopEntry q | .chainEntry q | .swaitEntry q | .queueSignal q | .swriteEntry q | .fenceEntry q | .watchdogExpiry q => [s.homeOf q]
  | .operatorActivate n | .noticeWrite n => [n / 8]
  | .stageEvaluation r | .groupPlace r _ | .groupRestore r _ _ => [(s.region r).terp]
  | .faultRecordWrite k | .faultPolicy k _ | .preempt k | .thermalMigration k => [terpOf k]
  | .groupRetire k b =>
    terpOf k :: match (s.region (s.ctx k (decide (b = 1))).group.region).queue with
      | some q => [s.homeOf q]
      | none => []
  | .scrubComplete p => match Map.find s.presets p with
    | some r => [r.notice.fep / 8]
    | none => []
  | .dredgerStep l => [s.terpOfLine l]
  | .leveeEvaluate => [0, 1, 2, 3]
  | _ => []

/-- Some of the front end's accesses for a region are held: to its tables, its stages' descriptors and its rings (R277, R312). -/
def State.stageHeld (s : State) (rk : Nat) : Bool :=
  let r := s.region rk
  s.feHolds r.terp r.polder (r.tables ++ r.stages.flatMap (fun (g : Stage) =>
    (g.gdesc, 160) :: ([g.inRing, g.outRing].filter (· ≠ 0)).map (fun a => (a, 128))))

/-- Some accesses to a mirror of the owner table are held (R312, R344). -/
def State.mirrorHeld (s : State) : Bool :=
  (!s.moves.isEmpty || s.islands.any (fun e => !s.islandOn e.1)) && (List.range 16).any (fun p =>
    decide (s.ptField p 40 8 ≠ 0) && s.feHolds 0 p [(s.ptField p 40 8, 32768)])

/-- The accesses of the front end to a polder's pages that an event makes are held (R312, R351). -/
def State.tablesHeld (s : State) : Instr → Bool
  | .stageEvaluation r | .groupPlace r _ | .groupRestore r _ _ => s.stageHeld r
  | .faultPolicy k b =>
    let p := (s.ctx k (decide (b = 1))).polder
    s.regions.any (fun e => e.2.live && decide (e.2.polder = p) && s.guestHeld e.1)
  | .sliceend p | .slicestart p => s.regions.any (fun e => e.2.live && decide (e.2.polder = p) && s.guestHeld e.1)
  | .preempt k | .thermalMigration k => s.guestHeld (s.act k).group.region
  | .imageLoad p _ => s.moves.any (fun m => decide (m.2.polder = p))
  | .leveeEvaluate | .revoke _ | .assign .. | .weight .. | .polderStart _ | .polderStop _ => s.mirrorHeld
  | _ => false

/-- The dike-link port whose cycles an event takes. -/
def portOf : Instr → Option Nat
  | .trainDone d _ _ _ | .trainTimeout d | .loss d | .dlkDrained d | .idleFlit d | .flitWrite d _ | .flitReduce d _ _ | .signalFlit d _ _
  | .ack d _ _ | .nak d _ | .credit d _ | .remapack d _ _ | .fwddone d _ _ => some d
  | _ => none

/-- The server whose cycles an event takes. -/
def serverOf : Instr → Option Server
  | .unitArrival sv _ _ | .unitService sv => some sv
  | _ => none

/-- The islands of a server: its controller's, or every quadrant of the fabric (R20). -/
def serverIslands : Server → List Nat
  | .dram k => [192 + 16 * (k / 8) + k % 8]
  | .fabric => (List.range 16).map (fun j => 200 + 16 * (j / 4) + j % 4)

/-- The event does not take place as the machine stands: the package is in reset, where only package reset and the host link's own
events do; the host link is down; a page that it reaches moves; or an island that it needs takes no cycles. -/
def State.eventHeld (s : State) (i : Instr) : Bool :=
  match i with
  | .packageReset _ | .hostLinkDown | .hostLinkUp => false
  | i =>
    s.inReset || (fromHost i && !s.hostIn) || s.tablesHeld i || (frontsOf s i).any (fun t => !s.islandOn (frontIsland t))
    || (match portOf i with
        | some d => !s.linkOn d
        | none => false)
    || (match serverOf i with
        | some v => (serverIslands v).any (fun n => !s.islandOn n)
        | none => false)

/-- A turn of a part of the machine. An event is a step that no word encodes. -/
def runTurn (t : Turn) (s : State) : Host.Outcome State Fault Refusal :=
  match t with
  | .seq k st => seqTurn k st s
  | .fep n => fepTurn n s
  | .event i => if (encode i).isSome || s.eventHeld i then .next s else exec i s
  | .cycle k => .next (cycleTurn k s)
  | .mxaCycle cl => .next (mxaTurn cl s)
  | .cpeCycle cl => .next (cpeTurn cl s)
  | .link d => .next (linkTurn d s)
  | .tick => .next (tickTurn s)

/-! Where a word is placed to be the next to run (notes/assumptions/5.md). -/

/-- A stream that admits the word, C where C does (R57). -/
def streamFor : Instr → Stream
  | .btk _ | .bnt _ | .stop | .qld .. | .qldi .. | .qrow .. | .qrowi .. => .l
  | .qst .. | .qsti .. | .qdrop .. => .s
  | .vrnd _ => .e
  | .give _ qn _ => (giverOf qn.toNat).getD .c
  | .take _ qn _ | .tcnt _ qn _ | .tryt _ qn _ _ => (takerOf qn.toNat).getD .c
  | i => if 4 < encodedLen i then .e else .c

/-- The stream in which a word of `nbits` bits is placed. -/
def streamOfWord (nbits w : Nat) : Stream :=
  match decodeTableWord nbits w with
  | some i => streamFor i
  | none => if wordLen w = 4 then .c else .e

/-- Where the four tables of the page that holds the word stand, level by level. -/
def fetchTable (level : Nat) : Nat := 0x10000000 + 8192 * level
/-- The frame of the page that holds the word. -/
def fetchFrame : Nat := 0x10010000

/-- Polder 0's tables map virtual page 0 to the frame, which holds the word's bytes and zeros after them (R304, R305, R347). -/
def State.mapWord (s : State) (bytes : List Byte) : State :=
  let s := { (s.dropTlb 0 0 1) with ptbase := 0, moves := s.moves.filter (fun m => m.2.polder != 0) }
  let s := s.writeLE (s.ptAddr 0 + 16) 8 (fetchTable 0)
  let s := s.writeLE (fetchTable 0) 8 (fetchTable 1 + 1)
  let s := s.writeLE (fetchTable 1) 8 (fetchTable 2 + 1)
  let s := s.writeLE (fetchTable 2) 8 (fetchTable 3 + 1)
  let s := s.writeLE (fetchTable 3) 8 (fetchFrame + 1)
  (s.delPoison fetchFrame).writeBytes fetchFrame bytes

/-- The context is RUNNING with the sequencer at virtual address 0, where nothing holds its issue. -/
def placeCtx (st : Stream) (c : Ctx) : Ctx :=
  { c with st := .running, drain := none, pend := [], traps := [], redirects := [], polder := 0 }.updSeq st (fun q =>
    { q with pc := 0, stopped := false, held := .none, next := 0, ib := [], lv := [], prog := 0 })

/-- Core 0 issues in bank A. -/
def placeCore (st : Stream) (c : Core) : Core :=
  { c with activeB := false, swapEnd := none, frozen := false, sb := [], a := placeCtx st c.a }

/-- A word of a core stands at the pc of a sequencer of core 0, whose turn comes next. -/
def State.placeWord (s : State) (st : Stream) (bytes : List Byte) : State :=
  let s := s.mapWord bytes
  let s := { s with qdbase := 0, inReset := false, nrWritten := none, agenda := [.seq 0 st] }
  (s.updCore 0 (placeCore st)).updIsland 0 (fun i => { i with pst := 1, margin := false, skipLeft := 0 })

/-- A word of a front-end processor stands at the pc of processor 0, whose turn comes next. -/
def State.placeFep (s : State) (bytes : List Byte) : State :=
  let s := { s with inReset := false, agenda := [.fep 0] }
  let s := s.updIsland (frontIsland 0) (fun i => { i with pst := 1, margin := false, skipLeft := 0 })
  s.updFep 0 (fun f => { f with mem := (List.range 4).foldl (fun m i => Map.set 0 m (f.pc.toNat + i) (bytes.getD i 0)) f.mem })

end Sys2Proof.Machine
end

