-- ==== Sys2Proof/Machine/Step.lean ====
section
/-! DEFINITION. One step of the machine (R101): the part whose turn it is moves. -/

namespace Sys2Proof.Machine

/-- The step: what follows a notice that the last step wrote, and the turn at the head of the agenda, or, with an empty agenda, a
turn that the spec leaves open (notes/assumptions/1.md). -/
def step (s : State) : Host.Outcome State Fault Refusal :=
  match s.agenda with
  | t :: rest => runTurn t { s with agenda := rest }.prodUp
  | [] => runTurn (Config.schedule s.fresh) s.bump.prodUp

/-- The state with a word of `nbits` bits stored where the next step fetches (notes/assumptions/5.md). -/
def State.withFetchWord (s : State) (nbits w : Nat) : State :=
  let bytes := leBytes 24 (w % 2 ^ nbits)
  if isFepWord nbits w then s.placeFep (bytes.take 4) else s.placeWord (streamOfWord nbits w) bytes

end Sys2Proof.Machine
end

