-- ==== Sys2Proof/Safety.lean ====
section
/-! DEFINITION. The terms in which claims speak: when a word has its own effect, what it leaves alone, the form of a state that
every step keeps, and runs that do not stop. -/

namespace Sys2Proof.Machine

/-! When a word has its own effect. -/

/-- The sequencer that runs is one of those admitted (R57), the guard makes a true slot (R141), and no register that the word
names is still to be written by an earlier word (R125). -/
def State.Issues (s : State) (allowed : List Stream) (g : Guard) (regs : List XReg) : Prop :=
  s.cur.2 ∈ allowed ∧ slot s.me g = .yes ∧ hazard s.me regs = false

/-- The word is a false slot (R141). -/
def State.FalseSlot (s : State) (allowed : List Stream) (g : Guard) : Prop := s.cur.2 ∈ allowed ∧ slot s.me g = .no

/-! What a word leaves alone. -/

/-- A context without its sequencers, and without the snapshot that the group's first word takes (R108). -/
def Ctx.rest (c : Ctx) : Ctx := { c with seqC := {}, seqL := {}, seqE := {}, seqS := {}, snap := 0, started := false }

/-- A sequencer without its x registers and without what the issue of every word writes: the pc and where the next word
stands in time. -/
def Seq.kept (q : Seq) : Seq := { q with x := [], pc := 0, held := .none, next := 0, prog := 0 }

/-- Nothing changes outside the active context of the core that runs: no byte of memory, no register of another core or of
the other bank, no register of the package. -/
structure State.Elsewhere (s t : State) : Prop where
  memory : ∀ a, t.readByte a = s.readByte a
  package : { t with cores := s.cores } = s
  cores : ∀ k, k ≠ s.cur.1 → t.core k = s.core k
  core : (t.core s.cur.1).setCtx (s.bank s.cur.1) {} = (s.core s.cur.1).setCtx (s.bank s.cur.1) {}

/-- Nothing changes but x registers of the sequencer that runs and its progress: every other sequencer, every flag, mask,
queue, accumulator and trap register of its context keeps its value. -/
structure State.OwnX (s t : State) : Prop where
  elsewhere : s.Elsewhere t
  context : t.myCtx.rest = s.myCtx.rest
  others : ∀ st, st ≠ s.cur.2 → t.myCtx.seq st = s.myCtx.seq st
  own : t.me.kept = s.me.kept

/-- A register of the sequencer that runs takes a value, which x0 discards (R123), and the pc moves to an address. -/
structure State.Wrote (s t : State) (xd : XReg) (v : Word) (pc : BitVec 56) : Prop where
  frame : s.OwnX t
  pc : t.me.pc = pc
  regs : ∀ r, t.x r = if r = xd ∧ r ≠ 0 then v else s.x r

/-- The pc moves to an address and no register changes. -/
structure State.Moved (s t : State) (pc : BitVec 56) : Prop where
  frame : s.OwnX t
  pc : t.me.pc = pc
  regs : ∀ r, t.x r = s.x r

/-- An access entered the tail of the issue buffer of the sequencer that runs, one register took a value at issue (x0: none),
and the pc moved on by 4; all else stands (R12, R103, R126). -/
structure State.Queued (s t : State) (op : IbOp) (xw : XReg) (v : Word) : Prop where
  elsewhere : s.Elsewhere t
  context : t.myCtx.rest = s.myCtx.rest
  others : ∀ st, st ≠ s.cur.2 → t.myCtx.seq st = s.myCtx.seq st
  own : { t.me.kept with ib := s.me.ib } = s.me.kept
  buffer : t.me.ib = s.me.ib ++ [{ op := op, wpc := s.me.pc, no := s.myCtx.pendNo, tag := s.me.tag }]
  pc : t.me.pc = s.me.pc + 4
  regs : ∀ r, t.x r = if r = xw ∧ r ≠ 0 then v else s.x r

/-- The word waits: its sequencer stands at the same word, held for a reason, and nothing else changes. -/
structure State.Waits (s t : State) (h : Hold) : Prop where
  frame : s.OwnX t
  held : t.me.held = h
  pc : t.me.pc = s.me.pc
  regs : ∀ r, t.x r = s.x r

/-- The context that runs is changed by a function, its sequencer stands at an address with its registers as they were, and
nothing else changes. -/
structure State.CtxChanged (s t : State) (f : Ctx → Ctx) (pc : BitVec 56) : Prop where
  elsewhere : s.Elsewhere t
  context : t.myCtx.rest = (f s.myCtx).rest
  others : ∀ st, st ≠ s.cur.2 → t.myCtx.seq st = s.myCtx.seq st
  own : t.me.kept = s.me.kept
  pc : t.me.pc = pc
  regs : ∀ r, t.x r = s.x r

/-! Runs. -/

/-- The form of a state that every step keeps: memory lists rising addresses and no byte equal to what an unlisted one
reads as. -/
def State.Inv (s : State) : Prop := Memory.wf s.mem

/-- The next step stops neither by a fault nor by a refusal. -/
def State.goesOn (s : State) : Prop := ∃ t, step s = .next t

/-- A run of `n` steps from a state stops nowhere. -/
def safeFor : Nat → State → Prop
  | 0, _ => True
  | n + 1, s => ∃ t, step s = .next t ∧ safeFor n t

end Sys2Proof.Machine
end

