-- ==== Sys2Proof/Certificates/Slice0/Obligations.lean ====
section
/-! DEFINITION. The statements for the provers. -/

open Sys2Proof Sys2Proof.Machine

namespace Sys2Proof.Claims

/-- A result of 1 or 0. -/
def bit (p : Prop) [Decidable p] : Word := if p then 1 else 0

/-- The alu words with the table of R129: the result as a function of x[XA] and x[XB]. -/
def aluWords : List ((Guard → XReg → XReg → XReg → Instr) × (Word → Word → Word)) :=
  [(.add, fun a b => .ofNat 64 (a.toNat + b.toNat)),
   (.sub, fun a b => .ofInt 64 (a.toNat - b.toNat)),
   (.and, fun a b => a &&& b),
   (.or, fun a b => a ||| b),
   (.xor, fun a b => a ^^^ b),
   (.shl, fun a b => .ofNat 64 (a.toNat * 2 ^ (b.toNat % 64))),
   (.shr, fun a b => .ofNat 64 (a.toNat / 2 ^ (b.toNat % 64))),
   (.sra, fun a b => .ofInt 64 (a.toInt / 2 ^ (b.toNat % 64))),
   (.slt, fun a b => bit (a.toInt < b.toInt)),
   (.sltu, fun a b => bit (a.toNat < b.toNat)),
   (.min, fun a b => .ofInt 64 (min a.toInt b.toInt)),
   (.max, fun a b => .ofInt 64 (max a.toInt b.toInt)),
   (.minu, fun a b => .ofNat 64 (min a.toNat b.toNat)),
   (.maxu, fun a b => .ofNat 64 (max a.toNat b.toNat)),
   (.mul, fun a b => .ofNat 64 (a.toNat * b.toNat)),
   (.mulh, fun a b => .ofInt 64 (a.toInt * b.toInt / 2 ^ 64)),
   (.mulhu, fun a b => .ofNat 64 (a.toNat * b.toNat / 2 ^ 64)),
   (.div, fun a b => if b = 0 then .ofNat 64 (2 ^ 64 - 1) else .ofInt 64 (a.toInt.tdiv b.toInt)),
   (.divu, fun a b => if b = 0 then .ofNat 64 (2 ^ 64 - 1) else .ofNat 64 (a.toNat / b.toNat)),
   (.rem, fun a b => if b = 0 then a else .ofInt 64 (a.toInt.tmod b.toInt)),
   (.remu, fun a b => if b = 0 then a else .ofNat 64 (a.toNat % b.toNat))]

/-- The field of R132 that x[XB] names in x[XA]: position bits [5:0], length bits [14:8], at most 64. -/
def bitLen (b : Word) : Nat := min (b.toNat / 256 % 128) 64
/-- f of R132. -/
def bitField (a b : Word) : Nat := a.toNat / 2 ^ (b.toNat % 64) % 2 ^ bitLen b

end Sys2Proof.Claims

/-- R129: an alu word that issues writes its result to x[XD], and only to it; x0 discards it; the pc moves on by 4. -/
def Sys2Proof.Claims.AluWordsWriteTheirResult : Prop :=
  ∀ e ∈ Claims.aluWords, ∀ (s : State) (g : Guard) (xd xa xb : XReg), s.Issues streams g [xd, xa, xb] →
    ∃ t, exec (e.1 g xd xa xb) s = .next t ∧ s.Wrote t xd (e.2 (s.x xa) (s.x xb)) (s.me.pc + 4)

/-- R130, R131: the immediate words, with IMM sign-extended by addi and lui and zero-extended by andi, ori and xori. -/
def Sys2Proof.Claims.ImmediateWordsWriteTheirResult : Prop :=
  ∀ (s : State) (xd xa : XReg) (imm : BitVec 16) (sh : BitVec 6) (up : BitVec 20),
    s.Issues streams noGuard [xd, xa] →
    let a := s.x xa
    let gives (i : Instr) (v : Word) : Prop := ∃ t, exec i s = .next t ∧ s.Wrote t xd v (s.me.pc + 4)
    gives (.addi xd xa imm) (.ofInt 64 (a.toInt + imm.toInt)) ∧
    gives (.andi xd xa imm) (a &&& .ofNat 64 imm.toNat) ∧
    gives (.ori xd xa imm) (a ||| .ofNat 64 imm.toNat) ∧
    gives (.xori xd xa imm) (a ^^^ .ofNat 64 imm.toNat) ∧
    gives (.shli xd xa sh) (.ofNat 64 (a.toNat * 2 ^ sh.toNat)) ∧
    gives (.shri xd xa sh) (.ofNat 64 (a.toNat / 2 ^ sh.toNat)) ∧
    gives (.srai xd xa sh) (.ofInt 64 (a.toInt / 2 ^ sh.toNat)) ∧
    gives (.lui xd up) ((BitVec.ofNat 32 (up.toNat * 4096)).signExtend 64)

/-- R132: the bit-field words. -/
def Sys2Proof.Claims.BitFieldWordsWriteTheirResult : Prop :=
  ∀ (s : State) (g : Guard) (xd xa xb : XReg), s.Issues streams g [xd, xa, xb] →
    let a := s.x xa
    let b := s.x xb
    let pos := b.toNat % 64
    let len := Claims.bitLen b
    let f := Claims.bitField a b
    let gives (i : Instr) (v : Word → Prop) : Prop :=
      ∃ t w, exec i s = .next t ∧ s.Wrote t xd w (s.me.pc + 4) ∧ v w
    gives (.ext g xd xa xb) (fun w => w = .ofInt 64 (if 2 * f < 2 ^ len then (f : Int) else (f : Int) - 2 ^ len)) ∧
    gives (.extu g xd xa xb) (fun w => w = .ofNat 64 f) ∧
    gives (.ins g xd xa xb) (fun w => ∀ i, i < 64 → w.getLsbD i =
      if pos ≤ i ∧ i < pos + len then a.getLsbD (i - pos) else (s.x xd).getLsbD i) ∧
    gives (.clz g xd xa) (fun w => w.toNat ≤ 64 ∧ a.toNat < 2 ^ (64 - w.toNat) ∧ (a ≠ 0 → 2 ^ (63 - w.toNat) ≤ a.toNat) ∧
      (a = 0 → w = 64)) ∧
    gives (.ctz g xd xa) (fun w => w.toNat ≤ 64 ∧ a.toNat % 2 ^ w.toNat = 0 ∧ (a ≠ 0 → a.getLsbD w.toNat = true) ∧ (a = 0 → w = 64)) ∧
    gives (.popc g xd xa) (fun w => w.toNat = ((List.range 64).filter (fun i => a.getLsbD i)).length) ∧
    gives (.rev8 g xd xa) (fun w => ∀ i, i < 8 → w.toNat / 256 ^ i % 256 = a.toNat / 256 ^ (7 - i) % 256)

namespace Sys2Proof.Claims

/-- The word's own address + 4·OFF, OFF signed (R135, R136). -/
def target (s : State) (off : Int) : BitVec 56 := .ofInt 56 (s.me.pc.toNat + 4 * off)

/-- The word moves the pc to an address and changes nothing else. -/
def movesTo (s : State) (i : Instr) (pc : BitVec 56) : Prop := ∃ t, exec i s = .next t ∧ s.Moved t pc

/-- The flags that the running context shows: ANY, ALL, NONE, and the full count of R128. -/
def wfCnt (w : BitVec 32) : Nat := if w.toNat % 128 = 0 ∧ w.getLsbD 8 = true then 128 else w.toNat % 128

/-- The context takes a FAULT of the word that runs: it drains toward the record of the cause, which names the word, and
nothing else changes (R126, R231 to R234). -/
def faults (s : State) (i : Instr) (c : Cause) : Prop :=
  ∃ t, exec i s = .next t ∧ s.Elsewhere t ∧
    t.myCtx = { s.myCtx with
      st := .draining, eventAt := (s.core s.cur.1).cyc,
      drain := some (.trap { cause := c, async := false, st := s.cur.2, wpc := s.me.pc }) }

/-- The same, with DETAIL of the record (R234). -/
def faultsWith (s : State) (i : Instr) (c : Cause) (d : Nat) : Prop :=
  ∃ t, exec i s = .next t ∧ s.Elsewhere t ∧
    t.myCtx = { s.myCtx with
      st := .draining, eventAt := (s.core s.cur.1).cyc,
      drain := some (.trap { cause := c, async := false, st := s.cur.2, wpc := s.me.pc, detail := d }) }

/-- The running context takes its word's fault at once: it is RUNNING, and no earlier access of the word's own issue buffer
still has to perform (R122, R231). -/
def faultReady (s : State) : Prop := s.myCtx.st = .running ∧ s.me.ib = []

/-- The branch queue that a stream pops (R59): bql, bqe and bqs of L, E and S. -/
def ownQueue : Stream → Nat
  | .l => 13 | .e => 14 | .s => 15 | .c => 16

end Sys2Proof.Claims

/-- R135: a register branch of C goes to pc + 4·OFF when its condition holds and to the next word otherwise; with a loop
active, its target lies in the body of the innermost one. The model's choices in it: notes/assumptions/13.md. -/
def Sys2Proof.Claims.RegisterBranchesMoveThePc : Prop :=
  ∀ (s : State) (xa xb : XReg) (off : BitVec 12), s.Issues [.c] noGuard [xa, xb] →
    leavesBody s.me (Claims.target s off.toInt) = false →
    let a := s.x xa
    let b := s.x xb
    let goes (i : Instr) (p : Prop) : Prop :=
      (p → Claims.movesTo s i (Claims.target s off.toInt)) ∧ (¬ p → Claims.movesTo s i (s.me.pc + 4))
    goes (.beq xa xb off) (a = b) ∧ goes (.bne xa xb off) (a ≠ b) ∧
    goes (.blt xa xb off) (a.toInt < b.toInt) ∧ goes (.bge xa xb off) (b.toInt ≤ a.toInt) ∧
    goes (.bltu xa xb off) (a.toNat < b.toNat) ∧ goes (.bgeu xa xb off) (b.toNat ≤ a.toNat)

/-- R128, R135: a flag branch of C tests the flags that C sees, wcge against the full count; bal is always taken. The model's
choices in it: notes/assumptions/13.md. -/
def Sys2Proof.Claims.FlagBranchesMoveThePc : Prop :=
  (∀ (s : State) (xa : XReg) (off : BitVec 12), s.Issues [.c] noGuard [xa] →
    leavesBody s.me (Claims.target s off.toInt) = false →
    let w := s.myCtx.wf
    let goes (i : Instr) (p : Prop) : Prop :=
      (p → Claims.movesTo s i (Claims.target s off.toInt)) ∧ (¬ p → Claims.movesTo s i (s.me.pc + 4))
    goes (.bwany off) (w.getLsbD 7 = true) ∧ goes (.bwall off) (w.getLsbD 8 = true) ∧
    goes (.bwnone off) (w.getLsbD 9 = true) ∧ goes (.bwcge xa off) ((s.x xa).toNat ≤ Claims.wfCnt w)) ∧
  (∀ (s : State) (off : BitVec 12), s.Issues streams noGuard [] →
    leavesBody s.me (Claims.target s off.toInt) = false → Claims.movesTo s (.bal off) (Claims.target s off.toInt))

/-- R135: btk and bnt pop one outcome of their stream's branch queue and branch on it; while the queue is empty the word
waits. The model's choices in it: notes/assumptions/13.md. -/
def Sys2Proof.Claims.QueueBranchesPopAnOutcome : Prop :=
  ∀ (s : State) (off : BitVec 12), s.Issues [.l, .e, .s] noGuard [] →
    let q := Claims.ownQueue s.cur.2
    let pops (i : Instr) (rest : List Bool) (pc : BitVec 56) : Prop :=
      ∃ t, exec i s = .next t ∧ s.CtxChanged t (fun c => { c with bq := Map.put c.bq q rest }) pc
    (∀ b rest, Map.get [] s.myCtx.bq q = b :: rest → leavesBody s.me (Claims.target s off.toInt) = false →
      pops (.btk off) rest (if b then Claims.target s off.toInt else s.me.pc + 4) ∧
      pops (.bnt off) rest (if b then s.me.pc + 4 else Claims.target s off.toInt)) ∧
    (Map.get [] s.myCtx.bq q = [] → s.lineUp s.myCtx = false →
      (∃ t, exec (.btk off) s = .next t ∧ s.Waits t .pop) ∧ (∃ t, exec (.bnt off) s = .next t ∧ s.Waits t .pop))

/-- R136: jal and jalr write the address of the next word to x[XD] and go to their target, which jalr takes from x[XA] before
the write, with its low two bits ignored. The model's choices in it: notes/assumptions/13.md. -/
def Sys2Proof.Claims.JumpsLinkAndGo : Prop :=
  ∀ (s : State) (xd xa : XReg) (off : BitVec 20) (imm : BitVec 16), s.Issues streams noGuard [xd, xa] →
    let link : Word := .ofNat 64 ((s.me.pc.toNat + 4) % 2 ^ 56)
    let far : BitVec 56 := .ofNat 56 (((s.x xa).toNat + (imm.toInt % 2 ^ 64).toNat) % 2 ^ 64 / 4 * 4)
    (leavesBody s.me (Claims.target s off.toInt) = false →
      ∃ t, exec (.jal xd off) s = .next t ∧ s.Wrote t xd link (Claims.target s off.toInt)) ∧
    (leavesBody s.me far = false → ∃ t, exec (.jalr xd xa imm) s = .next t ∧ s.Wrote t xd link far)

/-- R137: with a loop active, a taken branch or a jump whose target lies outside the body of the innermost loop raises
ILLEGAL_ENC at the branch, and changes no register; no outcome leaves a branch queue (R126). -/
def Sys2Proof.Claims.JumpOutOfTheBodyTraps : Prop :=
  ∀ (s : State) (n : Nat), Claims.faultReady s → s.me.innermost = some n →
    let out (a : BitVec 56) : Prop := a < (s.me.level n).top ∨ (s.me.level n).lendAt < a
    (∀ (xd : XReg) (off : BitVec 20), s.Issues streams noGuard [xd] → out (Claims.target s off.toInt) →
      Claims.faults s (.jal xd off) .illegalEnc) ∧
    (∀ (xd xa : XReg) (imm : BitVec 16), s.Issues streams noGuard [xd, xa] →
      out (.ofNat 56 (((s.x xa).toNat + (imm.toInt % 2 ^ 64).toNat) % 2 ^ 64 / 4 * 4)) →
      Claims.faults s (.jalr xd xa imm) .illegalEnc) ∧
    ∀ (xa xb : XReg) (off : BitVec 12), out (Claims.target s off.toInt) →
      let a := s.x xa
      let b := s.x xb
      let w := s.myCtx.wf
      let trapsIf (p : Prop) (i : Instr) : Prop := p → Claims.faults s i .illegalEnc
      (s.Issues [.c] noGuard [xa, xb] →
        trapsIf (a = b) (.beq xa xb off) ∧ trapsIf (a ≠ b) (.bne xa xb off) ∧
        trapsIf (a.toInt < b.toInt) (.blt xa xb off) ∧ trapsIf (b.toInt ≤ a.toInt) (.bge xa xb off) ∧
        trapsIf (a.toNat < b.toNat) (.bltu xa xb off) ∧ trapsIf (b.toNat ≤ a.toNat) (.bgeu xa xb off) ∧
        trapsIf (w.getLsbD 7 = true) (.bwany off) ∧ trapsIf (w.getLsbD 8 = true) (.bwall off) ∧
        trapsIf (w.getLsbD 9 = true) (.bwnone off) ∧ trapsIf (a.toNat ≤ Claims.wfCnt w) (.bwcge xa off)) ∧
      (s.Issues streams noGuard [] → Claims.faults s (.bal off) .illegalEnc) ∧
      ∀ rest, s.Issues [.l, .e, .s] noGuard [] →
        trapsIf (Map.get [] s.myCtx.bq (Claims.ownQueue s.cur.2) = true :: rest) (.btk off) ∧
        trapsIf (Map.get [] s.myCtx.bq (Claims.ownQueue s.cur.2) = false :: rest) (.bnt off)

/-- R138: a loop word opens its level with its count and its stride, in its first iteration, or passes over the body when the
count is 0, for which the lengths of the words of the body must be readable: where one is not, it raises the fault of its read; it
raises ILLEGAL_ENC when the level or one inside it is active. The model's choices in it: notes/assumptions/124.md. -/
def Sys2Proof.Claims.LoopWordsOpenTheirLevel : Prop :=
  ∀ (s : State) (lvl : BitVec 3) (len cnt : BitVec 6) (xa xd : XReg), s.Issues streams noGuard [xa, xd] →
    lvl.toNat < 6 → len ≠ 0 → cnt ≠ 0 →
    let n := lvl.toNat
    let (last, after) := nthWord s s.cur.1 s.cur.2 (s.me.pc + 4) len.toNat
    let body := unreadable s s.cur.1 s.cur.2 (s.me.pc + 4) len.toNat
    let opens (i : Instr) (c : Nat) : Prop :=
      ∃ t, exec i s = .next t ∧ s.Elsewhere t ∧ t.myCtx.rest = s.myCtx.rest ∧
        (∀ st, st ≠ s.cur.2 → t.myCtx.seq st = s.myCtx.seq st) ∧ (∀ r, t.x r = s.x r) ∧
        (∀ k, k ≠ n → t.me.level k = s.me.level k) ∧ t.me.rb = s.me.rb ∧ t.me.ib = s.me.ib ∧ t.me.pc = s.me.pc + 4 ∧
        t.me.level n = { act := true, lc := .ofNat 32 c, ls := s.x xd, it := 0, top := s.me.pc + 4,
                         len := len, lendAt := last, inst := (s.me.level n).inst + 1 }
    ((∀ k, n ≤ k → k < 6 → (s.me.level k).act = false) →
      opens (.loopImm lvl len cnt xd) cnt.toNat ∧
      ((s.x xa).toNat % 2 ^ 32 ≠ 0 → opens (.loopReg lvl len xa xd) ((s.x xa).toNat % 2 ^ 32)) ∧
      ((s.x xa).toNat % 2 ^ 32 = 0 → body = none → Claims.movesTo s (.loopReg lvl len xa xd) after) ∧
      (∀ a c, (s.x xa).toNat % 2 ^ 32 = 0 → body = some (a, .fault c) → ∃ d, (c ≠ .poison → d = 0) ∧
        exec (.loopReg lvl len xa xd) s = .next (s.raiseAt c a.toNat d 0))) ∧
    (Claims.faultReady s → ∀ k, n ≤ k → k < 6 → (s.me.level k).act = true →
      Claims.faults s (.loopImm lvl len cnt xd) .illegalEnc ∧ Claims.faults s (.loopReg lvl len xa xd) .illegalEnc)

/-- R139: a plain LEND adds the stride, rotates rb, counts the level down and either starts the next iteration or leaves the
loop. The case without a cut and with the abort line down. -/
def Sys2Proof.Claims.LendClosesAnIteration : Prop :=
  ∀ (s : State) (lvl : BitVec 3) (rot : BitVec 8) (xv : XReg), s.Issues streams noGuard [0, xv] →
    let n := lvl.toNat
    let l := s.me.level n
    s.me.innermost = some n → l.lendAt = s.me.pc → s.lineUp s.myCtx = false →
    (s.cur.2 = .c ∨ cutReached s.myCtx n l = none) →
    ∃ t, exec (.lend lvl rot false 0 0 xv) s = .next t ∧ s.Elsewhere t ∧ t.myCtx.rest = s.myCtx.rest ∧
      (∀ st, st ≠ s.cur.2 → t.myCtx.seq st = s.myCtx.seq st) ∧ t.me.ib = s.me.ib ∧
      (∀ r, t.x r = if r = xv ∧ r ≠ 0 then s.x xv + l.ls else s.x r) ∧
      t.me.rb.toNat = (s.me.rb.toNat + rot.toNat) % 768 ∧ (∀ k, k ≠ n → t.me.level k = s.me.level k) ∧
      (if l.lc - 1 = 0 then t.me.level n = { l with lc := 0, act := false } ∧ t.me.pc = s.me.pc + 4
       else t.me.level n = { l with lc := l.lc - 1, act := true, it := l.it + 1 } ∧ t.me.pc = l.top)

/-- R139, R140, R144: C's LEND with BRK adds the stride to x[XV], rotates rb, puts the outcome of x[XA] ≠ 0, read after x[XV] has
advanced, into the branch queues that QM names, and an outcome of 1 records the cut and leaves the loop; it waits while a queue that
QM names is full. The abort line is down here. -/
def Sys2Proof.Claims.BreakingLendPutsItsOutcome : Prop :=
  ∀ (s : State) (lvl : BitVec 3) (rot : BitVec 8) (qm : BitVec 3) (xa xv : XReg), s.cur.2 = .c →
    s.Issues streams noGuard [xa, xv] →
    let n := lvl.toNat
    let l := s.me.level n
    let i : Instr := .lend lvl rot true qm xa xv
    let b := decide ((if xa = xv ∧ xa ≠ 0 then s.x xv + l.ls else s.x xa) ≠ 0)
    let outcomes (k : Nat) := Map.get [] s.myCtx.bq (13 + k)
    s.me.innermost = some n → l.lendAt = s.me.pc → s.lineUp s.myCtx = false →
    ((∀ k, k < 3 → qm.getLsbD k = true → (outcomes k).length < 16) →
      ∃ t, exec i s = .next t ∧ s.Elsewhere t ∧ (∀ r, t.x r = if r = xv ∧ r ≠ 0 then s.x xv + l.ls else s.x r) ∧
        (∀ q, q ≠ .c → t.myCtx.seq q = s.myCtx.seq q) ∧ t.me.ib = s.me.ib ∧
        t.myCtx.q = s.myCtx.q ∧ t.myCtx.y = s.myCtx.y ∧ t.myCtx.w = s.myCtx.w ∧
        t.me.rb.toNat = (s.me.rb.toNat + rot.toNat) % 768 ∧ (∀ k, k ≠ n → t.me.level k = s.me.level k) ∧
        (∀ k, k < 3 → Map.get [] t.myCtx.bq (13 + k) = outcomes k ++ (if qm.getLsbD k then [b] else [])) ∧
        t.myCtx.cuts = s.myCtx.cuts ++ (if b then [{ lvl := n, inst := l.inst, iter := l.it.toNat }] else []) ∧
        (if b ∨ l.lc - 1 = 0 then t.me.level n = { l with lc := l.lc - 1, act := false } ∧ t.me.pc = s.me.pc + 4
         else t.me.level n = { l with lc := l.lc - 1, act := true, it := l.it + 1 } ∧ t.me.pc = l.top)) ∧
    ((∃ k, k < 3 ∧ qm.getLsbD k = true ∧ 16 ≤ (outcomes k).length) →
      ∃ t k, exec i s = .next t ∧ k < 3 ∧ qm.getLsbD k = true ∧ 16 ≤ (outcomes k).length ∧ s.Waits t (.wait (.bqRoom (13 + k))))

/-- R139, R140, R144, R146: in L, E and S a LEND with BRK pops one outcome of its stream's branch queue and leaves the loop
where it is 1, and waits while the queue is empty; with BRK or without, it leaves the loop where a recorded cut is reached, and
then L's later words leave the operand queues and E's later words the result queues. The abort line is down here. -/
def Sys2Proof.Claims.FollowingLendsLeaveByOutcomeOrCut : Prop :=
  ∀ (s : State) (lvl : BitVec 3) (rot : BitVec 8) (brk : Bool) (xv : XReg), s.cur.2 ≠ .c → s.Issues streams noGuard [xv] →
    let st := s.cur.2
    let n := lvl.toNat
    let l := s.me.level n
    let own := Claims.ownQueue st
    s.me.innermost = some n → l.lendAt = s.me.pc → s.lineUp s.myCtx = false →
    let reached (k : Cut) : Prop := k.lvl = n ∧ k.inst = l.inst ∧ k.iter ≤ l.it.toNat
    let later (k : Cut) (t : Tag) : Bool := t.any (fun e => decide (e.1 = n ∧ e.2.1 = l.inst ∧ k.iter < e.2.2))
    (brk = true → Map.get [] s.myCtx.bq own = [] → ∃ t, exec (.lend lvl rot brk 0 0 xv) s = .next t ∧ s.Waits t .pop) ∧
    ∀ (b : Bool) (rest : List Bool), (if brk then Map.get [] s.myCtx.bq own = b :: rest
        else b = false ∧ Map.get [] s.myCtx.bq own = rest) →
      ∃ t, exec (.lend lvl rot brk 0 0 xv) s = .next t ∧ s.Elsewhere t ∧
        (∀ q, q ≠ st → t.myCtx.seq q = s.myCtx.seq q) ∧ t.me.ib = s.me.ib ∧ t.myCtx.w = s.myCtx.w ∧
        (∀ r, t.x r = if r = xv ∧ r ≠ 0 then s.x xv + l.ls else s.x r) ∧
        t.me.rb.toNat = (s.me.rb.toNat + rot.toNat) % 768 ∧ (∀ k, k ≠ n → t.me.level k = s.me.level k) ∧
        Map.get [] t.myCtx.bq own = rest ∧ t.myCtx.cuts = s.myCtx.cuts ∧
        ((b = true ∨ l.lc - 1 = 0 ∨ ∃ k ∈ s.myCtx.cuts, reached k) → (t.me.level n).act = false ∧ t.me.pc = s.me.pc + 4) ∧
        (b = false → l.lc - 1 ≠ 0 → (∀ k ∈ s.myCtx.cuts, ¬ reached k) →
          t.me.level n = { l with lc := l.lc - 1, act := true, it := l.it + 1 } ∧ t.me.pc = l.top ∧
          t.myCtx.q = s.myCtx.q ∧ t.myCtx.y = s.myCtx.y) ∧
        (∀ k, s.myCtx.cuts = [k] → reached k →
          (∀ i, Map.get [] t.myCtx.q i = if st = .l
            then (Map.get [] s.myCtx.q i).filter (fun e => !(decide (e.st = .l) && later k e.tag))
            else Map.get [] s.myCtx.q i) ∧
          ∀ i, Map.get [] t.myCtx.y i = if st = .e
            then ((Map.get [] s.myCtx.y i).filter (fun v => !(v.ready && later k v.tag))).map
              (fun v => if later k v.tag then { v with dead := true } else v)
            else Map.get [] s.myCtx.y i)

/-- R146, R279: a LEND under the abort line leaves its loop after its last instruction and its sequencer stops: L's own words
leave the operand queues, E's the result queues. -/
def Sys2Proof.Claims.LendsUnderTheAbortLineStop : Prop :=
  ∀ (s : State) (lvl : BitVec 3) (rot : BitVec 8) (xv : XReg), s.Issues streams noGuard [0, xv] →
    let st := s.cur.2
    let n := lvl.toNat
    let l := s.me.level n
    s.me.innermost = some n → l.lendAt = s.me.pc → s.lineUp s.myCtx = true → s.myCtx.cuts = [] →
    ∃ t, exec (.lend lvl rot false 0 0 xv) s = .next t ∧ s.Elsewhere t ∧ t.me.stopped = true ∧ t.myCtx.aborted = true ∧
      (∀ q, q ≠ st → t.myCtx.seq q = s.myCtx.seq q) ∧ t.me.ib = s.me.ib ∧ (t.me.level n).act = false ∧
      t.me.pc = s.me.pc + 4 ∧ (∀ r, t.x r = if r = xv ∧ r ≠ 0 then s.x xv + l.ls else s.x r) ∧
      (∀ i, Map.get [] t.myCtx.q i = if st = .l then (Map.get [] s.myCtx.q i).filter (fun e => decide (e.st ≠ .l))
        else Map.get [] s.myCtx.q i) ∧
      ∀ i, Map.get [] t.myCtx.y i = if st = .e
        then ((Map.get [] s.myCtx.y i).filter (fun v => !v.ready)).map (fun v => { v with dead := true })
        else Map.get [] s.myCtx.y i

/-- R142: rbset sets rb to (x[XA] + IMM) mod 768. -/
def Sys2Proof.Claims.RbsetSetsTheRotatingBase : Prop :=
  ∀ (s : State) (xa : XReg) (imm : BitVec 10), s.Issues streams noGuard [xa] → imm.toNat < 768 →
    ∃ t, exec (.rbset xa imm) s = .next t ∧ s.Elsewhere t ∧ t.myCtx.rest = s.myCtx.rest ∧
      (∀ st, st ≠ s.cur.2 → t.myCtx.seq st = s.myCtx.seq st) ∧
      { t.me.kept with rb := s.me.rb } = s.me.kept ∧ (∀ r, t.x r = s.x r) ∧ t.me.pc = s.me.pc + 4 ∧
      t.me.rb.toNat = ((s.x xa).toNat + imm.toNat) % 768

/-- R61, R107, R147: give enters the issue buffer in the giver's stream; take waits for its tokens and removes them; tcnt
reads the count; tryt takes them if they are there and says so in x[XA]. No token on kme is marked here. The model's choices
in it: notes/assumptions/34.md, notes/assumptions/36.md. -/
def Sys2Proof.Claims.TokenWordsMoveTokens : Prop :=
  ∀ (s : State) (g : Guard) (qn cnt : BitVec 4) (xa : XReg), qn.toNat < 13 → cnt ≠ 0 → s.Issues streams g [xa] →
    let c := s.myCtx
    let taken (x : Ctx) : Ctx := x.takeTokens qn.toNat cnt.toNat
    (giverOf qn.toNat = some s.cur.2 →
      ∃ t, exec (.give g qn cnt) s = .next t ∧ s.Queued t (.give qn.toNat cnt.toNat) 0 0) ∧
    (takerOf qn.toNat = some s.cur.2 →
      (cnt.toNat ≤ c.tokens qn.toNat → (∀ m ∈ c.kme, m = none) →
        (∃ t, exec (.take g qn cnt) s = .next t ∧ s.CtxChanged t taken (s.me.pc + 4) ∧
          t.myCtx.tokens qn.toNat = c.tokens qn.toNat - cnt.toNat) ∧
        (∃ t, exec (.tryt g qn xa cnt) s = .next t ∧ t.myCtx.tokens qn.toNat = c.tokens qn.toNat - cnt.toNat ∧
          t.me.pc = s.me.pc + 4 ∧ s.Elsewhere t ∧ ∀ r, t.x r = if r = xa ∧ r ≠ 0 then 1 else s.x r)) ∧
      (c.tokens qn.toNat < cnt.toNat →
        (s.lineUp c = false → ∃ t, exec (.take g qn cnt) s = .next t ∧ s.Waits t (.take qn.toNat cnt.toNat)) ∧
        ∃ t, exec (.tryt g qn xa cnt) s = .next t ∧ s.Wrote t xa 0 (s.me.pc + 4)) ∧
      ∃ t, exec (.tcnt g qn xa) s = .next t ∧ s.Wrote t xa (.ofNat 64 (c.tokens qn.toNat)) (s.me.pc + 4))

/-- R61, R147: a tok word raises QUEUE_MISUSE in a stream that may not use its queue so, whatever its guard; so does bqput
for a QN that names no branch queue. The model's choices in it: notes/assumptions/23.md. -/
def Sys2Proof.Claims.QueueMisuseTraps : Prop :=
  ∀ (s : State) (g : Guard) (qn cnt : BitVec 4) (xa : XReg), Claims.faultReady s → cnt ≠ 0 →
    (giverOf qn.toNat ≠ some s.cur.2 → Claims.faults s (.give g qn cnt) .queueMisuse) ∧
    (takerOf qn.toNat ≠ some s.cur.2 → Claims.faults s (.take g qn cnt) .queueMisuse ∧
      Claims.faults s (.tcnt g qn xa) .queueMisuse ∧ Claims.faults s (.tryt g qn xa cnt) .queueMisuse) ∧
    (s.cur.2 = .c → qn.toNat < 13 → Claims.faults s (.bqput g qn xa) .queueMisuse)

/-- R148: bqput puts the outcome x[XA] ≠ 0 into its branch queue, and waits while the queue holds 16. -/
def Sys2Proof.Claims.BqputPutsAnOutcome : Prop :=
  ∀ (s : State) (g : Guard) (qn : BitVec 4) (xa : XReg), s.Issues [.c] g [xa] → 13 ≤ qn.toNat →
    let q := Map.get [] s.myCtx.bq qn.toNat
    (q.length < 16 → ∃ t, exec (.bqput g qn xa) s = .next t ∧
      s.CtxChanged t (fun c => { c with bq := Map.put c.bq qn.toNat (q ++ [decide (s.x xa ≠ 0)]) }) (s.me.pc + 4)) ∧
    (16 ≤ q.length → s.lineUp s.myCtx = false → ∃ t, exec (.bqput g qn xa) s = .next t ∧ s.Waits t (.wait (.bqRoom qn.toNat)))

/-- R149: the loads of a queue move enter the issue buffer one by one, each for the 64 bytes of its entry; after the last one
the word has issued, and qldi has advanced x[XA]. -/
def Sys2Proof.Claims.QueueLoadsEnterTheIssueBuffer : Prop :=
  ∀ (s : State) (g : Guard) (qn cnt : BitVec 4) (xa : XReg), s.Issues [.l] g [xa] → qn.toNat < 8 →
    gatherTo s s.myCtx.oid qn.toNat = false → roomQ s qn.toNat = true →
    let op : IbOp := .qld qn.toNat ((s.x xa).toNat / 64 * 64 + 64 * s.me.prog)
    let entry : IbEntry := { op := op, wpc := s.me.pc, no := s.myCtx.pendNo, tag := s.me.tag }
    let one (i : Instr) (v : Word) : Prop :=
      ∃ t, exec i s = .next t ∧ s.Elsewhere t ∧ t.myCtx.rest = s.myCtx.rest ∧ t.me.ib = s.me.ib ++ [entry] ∧
        (if s.me.prog < cnt.toNat then t.me.pc = s.me.pc ∧ t.me.prog = s.me.prog + 1 ∧ ∀ r, t.x r = s.x r
         else t.me.pc = s.me.pc + 4 ∧ t.me.prog = 0 ∧ ∀ r, t.x r = if r = xa ∧ r ≠ 0 then v else s.x r)
    one (.qld g qn xa cnt) (s.x xa) ∧ one (.qldi g qn xa cnt) (s.x xa + .ofNat 64 (64 * (cnt.toNat + 1)))

/-- R71, R149: qrow and qrowi push the rows of the W bank one by one, as L reads them at issue. -/
def Sys2Proof.Claims.QueueRowsPushWRows : Prop :=
  ∀ (s : State) (g : Guard) (qn cnt : BitVec 4) (xa : XReg), s.Issues [.l] g [xa] → qn.toNat < 8 →
    gatherTo s s.myCtx.oid qn.toNat = false → roomQ s qn.toNat = true → pendingQ s.me qn.toNat = 0 →
    (s.x xa).toNat + cnt.toNat ≤ 767 → s.me.prog ≤ cnt.toNat → s.myCtx.wPoison = [] →
    let row := s.myCtx.wRow ((s.x xa).toNat + s.me.prog)
    let one (i : Instr) (v : Word) : Prop :=
      ∃ t, exec i s = .next t ∧ s.Elsewhere t ∧ t.myCtx.w = s.myCtx.w ∧ t.me.ib = s.me.ib ∧
        (∀ k, k ≠ qn.toNat → Map.get [] t.myCtx.q k = Map.get [] s.myCtx.q k) ∧
        Map.get [] t.myCtx.q qn.toNat = Map.get [] s.myCtx.q qn.toNat ++ [{ data := row, tag := s.me.tag }] ∧
        (if s.me.prog < cnt.toNat then t.me.pc = s.me.pc ∧ t.me.prog = s.me.prog + 1 ∧ ∀ r, t.x r = s.x r
         else t.me.pc = s.me.pc + 4 ∧ t.me.prog = 0 ∧ ∀ r, t.x r = if r = xa ∧ r ≠ 0 then v else s.x r)
    one (.qrow g qn xa cnt) (s.x xa) ∧ one (.qrowi g qn xa cnt) (s.x xa + .ofNat 64 (cnt.toNat + 1))

/-- R149, R155: qst and qsti pop the landed entries of a result queue one by one and store each; qdrop, and all three as a
false slot, pop them and discard them. An empty queue, and an entry that has not landed, are waited for. A store of an entry that
holds an uncorrectable error raises POISON and pops nothing (R320). The model's choices in it: notes/assumptions/127.md. -/
def Sys2Proof.Claims.QueueStoresPopLandedEntries : Prop :=
  ∀ (s : State) (g : Guard) (qn cnt : BitVec 4) (xa : XReg), 8 ≤ qn.toNat → qn.toNat < 12 →
    let y := Map.get [] s.myCtx.y (qn.toNat - 8)
    let addr := (s.x xa).toNat / 64 * 64 + 64 * s.me.prog
    let entry (v : YSlot) : IbEntry :=
      { op := .qst addr (leBytes 64 v.data.toNat), wpc := s.me.pc, no := s.myCtx.pendNo, tag := s.me.tag }
    let one (i : Instr) (rest : List YSlot) (buffer : List IbEntry) (w : Word) : Prop :=
      ∃ t, exec i s = .next t ∧ s.Elsewhere t ∧ t.myCtx.w = s.myCtx.w ∧ t.myCtx.q = s.myCtx.q ∧ t.me.ib = buffer ∧
        (∀ k, k ≠ qn.toNat - 8 → Map.get [] t.myCtx.y k = Map.get [] s.myCtx.y k) ∧
        Map.get [] t.myCtx.y (qn.toNat - 8) = rest ∧
        (if s.me.prog < cnt.toNat then t.me.pc = s.me.pc ∧ t.me.prog = s.me.prog + 1 ∧ ∀ r, t.x r = s.x r
         else t.me.pc = s.me.pc + 4 ∧ t.me.prog = 0 ∧ ∀ r, t.x r = if r = xa ∧ r ≠ 0 then w else s.x r)
    let stands (i : Instr) : Prop := ∃ t, exec i s = .next t ∧ s.Waits t (.emptyQueue qn.toNat)
    (∀ v rest, y = v :: rest → v.ready = true →
      (s.Issues [.s] g [xa] →
        (v.poison = none →
          one (.qst g qn xa cnt) rest (s.me.ib ++ [entry v]) (s.x xa) ∧
          one (.qsti g qn xa cnt) rest (s.me.ib ++ [entry v]) (s.x xa + .ofNat 64 (64 * (cnt.toNat + 1)))) ∧
        (v.poison ≠ none → Claims.faultReady s → ∃ d, (d = 0 ∨ d = 0x80) ∧
          Claims.faultsWith s (.qst g qn xa cnt) .poison d ∧ Claims.faultsWith s (.qsti g qn xa cnt) .poison d) ∧
        one (.qdrop g qn cnt) rest s.me.ib (s.x xa)) ∧
      (s.FalseSlot [.s] g →
        one (.qst g qn xa cnt) rest s.me.ib (s.x xa) ∧
        one (.qsti g qn xa cnt) rest s.me.ib (s.x xa + .ofNat 64 (64 * (cnt.toNat + 1))) ∧
        one (.qdrop g qn cnt) rest s.me.ib (s.x xa))) ∧
    ((y = [] ∨ ∃ v rest, y = v :: rest ∧ v.ready = false) → s.lineUp s.myCtx = false →
      (s.Issues [.s] g [xa] ∨ s.FalseSlot [.s] g) →
      stands (.qst g qn xa cnt) ∧ stands (.qsti g qn xa cnt) ∧ stands (.qdrop g qn cnt))

/-- R111 to R113, R117, R150: what the push of a command changes: the command stands at the tail of its core's FIFO, with what it
takes of its pusher; the push of a launch first commits every provisional version of its group and pins the group. -/
def Sys2Proof.Claims.pushes (s t : State) (k : Nat) (b : Bool) (st : Stream) (words : List Word) : Prop :=
  let c := s.ctx k b
  let launch := decide ((words.headD 0).toNat % 256 = 14)
  (t.core k).inflight = (s.core k).inflight + 1 ∧ t.nextId = s.nextId + 1 ∧
  Map.get [] (t.cluster (k / 4)).cpe.fifo (k % 4) = Map.get [] (s.cluster (k / 4)).cpe.fifo (k % 4) ++ [.cmd s.nextId] ∧
  (Map.find t.cmds s.nextId).map (fun x => (x.words, x.oid, x.begin, x.st)) =
    some (words, c.oid, if launch then s.tide + 1 else s.tide, st) ∧
  t.tide = (if launch then s.tide + 1 else s.tide) ∧ (t.ctx k b).pinned = (c.pinned || launch) ∧
  (∀ line, t.chain line = (s.chain line).map (fun v =>
    if launch = true ∧ v.owner = some (.group c.oid) then { v with owner := none, tide := s.tide + 1 } else v)) ∧
  ∀ a, t.readByte a = s.readByte a

/-- R111 to R113, R150, R355: push enters the issue buffer with the command that x8 to x15 hold at issue; pushb, once every earlier
access has performed, the core has fewer than 64 commands in flight and the engine takes cycles, puts the command at the tail of the
core's FIFO and writes 0; until then it waits. A launch commits and pins as it is pushed. -/
def Obligations.PushWordsTakeTheCommand : Prop :=
  ∀ (s : State) (g : Guard) (xd : XReg),
    let k := s.cur.1
    let words := (List.range 8).map (fun i => s.x (.ofNat 4 (8 + i)))
    let can : Prop := s.me.ib = [] ∧ s.drained k (s.bank k) s.cur.2 = true ∧ (s.core k).inflight < 64 ∧
      s.islandOn (6 * (k / 4) + 5) = true
    s.Issues [.c, .l, .s] g (xd :: (List.range 8).map (fun i => (.ofNat 4 (8 + i) : XReg))) →
    (∃ t, exec (.push g xd) s = .next t ∧ s.Queued t (.push words xd) 0 0) ∧
    (can → ∃ t, exec (.pushb g xd) s = .next t ∧ t.me.pc = s.me.pc + 4 ∧
      (∀ r, t.x r = if r = xd ∧ r ≠ 0 then 0 else s.x r) ∧ Claims.pushes s t k (s.bank k) s.cur.2 words) ∧
    (¬ can → s.lineUp s.myCtx = false → ∃ t, exec (.pushb g xd) s = .next t ∧ s.Waits t (.wait .push))

namespace Sys2Proof.Claims

/-- The byte address of R134: x[XA] + IMM·n rounded down to a multiple of n. One below 0 is shown 2^64 higher, where no page
lies. -/
def elementAddress (a : Word) (imm : BitVec 8) (n : Nat) : Nat :=
  let ea : Int := a.toNat + imm.toInt * n
  ((if ea < 0 then ea + 2 ^ 64 else ea) / n * n).toNat

/-- The word has an effect, which makes `u` of `s`, and a result `v` for one register, and moves on. -/
def gives (s u : State) (i : Instr) (xw : XReg) (v : Word) : Prop :=
  ∃ t, exec i s = .next t ∧ u.Wrote t xw v (s.me.pc + 4)

/-- The control registers that a csr read reaches, with what each shows (R127, R240, R272). -/
def registers : List (Nat × (State → Nat)) :=
  (List.range 6).flatMap (fun n =>
    [(n, fun s => (s.me.level n).lc.toNat), (0x08 + n, fun s => (s.me.level n).ls.toNat),
     (0x10 + n, fun s => (s.me.level n).it.toNat)]) ++
  [(0x18, fun s => s.me.rb.toNat),
   (0x19, fun s => ((List.range 6).map (fun n => if (s.me.level n).act then 2 ^ n else 0)).sum),
   (0x20, fun s => s.myCtx.wf.toNat), (0x30, fun s => s.myCtx.nstat.toNat),
   (0x31, fun s => modeCode s.myCtx.vmode), (0x32, fun s => modeCode s.myCtx.mmode)] ++
  (List.range 24).map (fun n => (0x40 + n, fun s => (Map.get 15 (s.core s.cur.1).bfmt n).toNat)) ++
  [(0x60, fun s => s.myCtx.ecyc.toNat), (0x61, fun s => s.myCtx.lcore.toNat),
   (0x62, fun s =>
     let k := s.cur.1
     let i := s.island (islandOf k (s.core k).isl)
     (if (s.core k).deny then 2 ^ 23 else 0) + (if i.hop.isSome then 2 ^ 22 else 0) + i.div.toNat * 2 ^ 12
       + (s.core k).isl.toNat * 2 ^ 10),
   (0x63, fun s => s.myCtx.rarg.toNat), (0x64, fun s => s.myCtx.gidx.toNat), (0x65, fun s => s.myCtx.gcnt.toNat),
   (0x66, fun s => s.myCtx.stgn.toNat), (0x67, fun s => s.myCtx.grun.toNat)]

/-- The loop-stride register of a level takes a value. -/
def withStride (s : State) (n : Nat) (v : Word) : State :=
  s.updMe (fun q => q.setLevel n { q.level n with ls := v })

/-- The block-format register of a scratchpad bank takes a value, its reserved bits reading 0. -/
def withFormat (s : State) (n : Nat) (v : Word) : State :=
  s.updCore s.cur.1 (fun co => { co with bfmt := Map.set 15 co.bfmt n (v.setWidth 32 &&& 31) })

/-- The island that bits [11:10] of a value name for the running core, and the divisor of its bits [4:0] (R240). -/
def hopIsland (s : State) (v : Word) : Nat :=
  if v.toNat / 1024 % 4 = 0 then 6 * (s.cur.1 / 4) + s.cur.1 % 4 else 6 * (s.cur.1 / 4) + 3 + v.toNat / 1024 % 4

/-- The host permits the divisor for the island (R241, R351). -/
def permitted (i : Island) (d : Nat) : Prop := 2 ≤ d ∧ d ≤ 16 ∧ i.divok.getLsbD (d - 2) = true ∧ i.pst = 1

end Sys2Proof.Claims

/-- R134, R103, R126: ld and st enter the issue buffer with the element address that x[XA] gives before the post-increment,
which happens at issue; st takes its value after it. The model's choices in it: notes/assumptions/30.md. -/
def Obligations.LoadsAndStoresEnterTheIssueBuffer : Prop :=
  ∀ (s : State) (ty : Ty) (xd xa xi : XReg) (imm : BitVec 8), s.Issues [.c, .l, .s] noGuard [xd, xa, xi] → tyLd ty = true →
    let n := tyw ty / 2
    let ea := Claims.elementAddress (s.x xa) imm n
    let moved := s.x xa + s.x xi
    let xw := if xi = 0 then 0 else xa
    let v := if xd = xa ∧ xa ≠ 0 ∧ xi ≠ 0 then moved else s.x xd
    (∃ t, exec (.ld ty xd xa xi imm) s = .next t ∧ s.Queued t (.load ty xd ea) xw moved) ∧
    (∃ t, exec (.st ty xd xa xi imm) s = .next t ∧ s.Queued t (.store ea (leBytes n v.toNat)) xw moved)

/-- R127, R151: csrr reads each register of the tables, zero-extended; wf is C's alone. A number that no table lists raises
ILLEGAL_ENC, and so does wf in another stream. -/
def Sys2Proof.Claims.CsrReadsReturnTheRegister : Prop :=
  ∀ (s : State) (xd : XReg),
    (∀ e ∈ Claims.registers, s.Issues streams noGuard [xd] → (e.1 = 0x20 → s.cur.2 = .c) →
      Claims.gives s s (.csrr xd (.ofNat 12 e.1)) xd (.ofNat 64 (e.2 s))) ∧
    (∀ csr : BitVec 12, (csr.toNat ∉ Claims.registers.map Prod.fst ∨ (csr = 0x20 ∧ s.cur.2 ≠ .c)) → Claims.faultReady s →
      Claims.faults s (.csrr xd csr) .illegalEnc)

/-- R12, R127, R151: csrw, csrs, csrc and csrx on the registers marked RW: the loop strides of the sequencer that runs and the
block formats of its core. csrx writes x[XD] first, so with XD = XA the register keeps its value. -/
def Sys2Proof.Claims.CsrWritesReachTheRegister : Prop :=
  ∀ (s : State) (xd xa : XReg) (n : Nat), s.Issues streams noGuard [xd, xa] →
    let a := s.x xa
    let writes (csr : Nat) (old : Word) (put : Word → State) : Prop :=
      Claims.gives s (put a) (.csrw (.ofNat 12 csr) xa) 0 0 ∧
      Claims.gives s (put (old ||| a)) (.csrs (.ofNat 12 csr) xa) 0 0 ∧
      Claims.gives s (put (old &&& ~~~a)) (.csrc (.ofNat 12 csr) xa) 0 0 ∧
      Claims.gives s (put (if xd = xa ∧ xa ≠ 0 then old else a)) (.csrx xd (.ofNat 12 csr) xa) xd old
    (n < 6 → writes (0x08 + n) (s.me.level n).ls (Claims.withStride s n)) ∧
    (n < 24 → writes (0x40 + n) ((Map.get 15 (s.core s.cur.1).bfmt n).setWidth 64) (Claims.withFormat s n))

/-- R7, R95, R151: a csrw of NSTAT clears the bits written as 1; csrs, csrc and csrx do not reach it, and no write reaches a
register marked RO. -/
def Sys2Proof.Claims.CsrWritesKeepTheirAccess : Prop :=
  ∀ (s : State) (xd xa : XReg),
    (s.Issues streams noGuard [xa] →
      ∃ t, exec (.csrw 0x30 xa) s = .next t ∧ s.CtxChanged t (fun c => { c with nstat := t.myCtx.nstat }) (s.me.pc + 4) ∧
        ∀ i, i < 3 → t.myCtx.nstat.getLsbD i = (s.myCtx.nstat.getLsbD i && !(s.x xa).getLsbD i)) ∧
    (Claims.faultReady s →
      (∀ i ∈ [Instr.csrs 0x30 xa, .csrc 0x30 xa, .csrx xd 0x30 xa, .csrs 0x62 xa, .csrc 0x62 xa],
        Claims.faults s i .illegalEnc) ∧
      ∀ csr : BitVec 12, (csr.toNat ≤ 7 ∨ (14 ≤ csr.toNat ∧ csr.toNat ≤ 0x2F) ∨ csr = 0x31 ∨ csr = 0x32 ∨ csr = 0x60 ∨
          csr = 0x61 ∨ 0x63 ≤ csr.toNat) →
        ∀ i ∈ [Instr.csrw csr xa, .csrs csr xa, .csrc csr xa, .csrx xd csr xa], Claims.faults s i .illegalEnc)

/-- R241: a write of CLKDIV selects the island, is refused with DENY for a divisor that is not permitted, and starts a hop of at
most 40 ticks where the divisor differs; csrx returns the old value, written to x[XD] before x[XA] is read (R12); island 3 raises
ILLEGAL_ENC; while a hop is in progress the word waits. The model's choices in it: notes/assumptions/32.md,
notes/assumptions/33.md. -/
def Obligations.ClkdivWritesStartAHop : Prop :=
  ∀ (s : State) (xd xa : XReg), s.Issues streams noGuard [xd, xa] →
    let k := s.cur.1
    let old := clkRead s k
    let writes (i : Instr) (v : Word) (xw : XReg) (r : Word) : Prop :=
      let isl : BitVec 2 := .ofNat 2 (v.toNat / 1024)
      let d := v.toNat % 32
      let n := Claims.hopIsland s v
      let makes (u : State) : Prop := Claims.gives s u i xw r
      (isl ≠ 3 → d = 0 → makes (s.updCore k (fun co => { co with isl := isl }))) ∧
      (isl ≠ 3 → d ≠ 0 → (s.island n).hop = none →
        (¬ Claims.permitted (s.island n) d → makes (s.updCore k (fun co => { co with isl := isl, deny := true }))) ∧
        (Claims.permitted (s.island n) d →
          let u := s.updCore k (fun co => { co with isl := isl, deny := false })
          ((s.island n).div.toNat = d → makes u) ∧
          ((s.island n).div.toNat ≠ d → ∃ e, s.tick < e ∧ e ≤ s.tick + 40 ∧
            makes (u.updIsland n (fun i => { i with hop := some (.ofNat 5 d, e) }))))) ∧
      (isl ≠ 3 → d ≠ 0 → (s.island n).hop ≠ none → s.lineUp s.myCtx = false →
        ∃ t, exec i s = .next t ∧ s.Waits t (.wait (.hop n))) ∧
      (isl = 3 → Claims.faultReady s → Claims.faults s i .illegalEnc)
    writes (.csrw 0x62 xa) (s.x xa) 0 0 ∧
    writes (.csrx xd 0x62 xa) (if xd = xa ∧ xa ≠ 0 then old else s.x xa) xd old

/-- R76, R92, R152: nop and, in C, L and S, a reserved major change nothing; in E a reserved major raises ILLEGAL_ENC; tide enters the issue buffer; vrnd sets VMODE; brk stops the
context where a breakpoint is armed and otherwise changes nothing; fence waits for every earlier access and store. -/
def Obligations.PlainSystemWordsHaveTheirEffect : Prop :=
  ∀ (s : State) (xd : XReg) (mode : RMode) (w : BitVec 32),
    (s.Issues streams noGuard [] →
      Claims.movesTo s .nop (s.me.pc + 4) ∧
      (s.brkArmed.contains s.myCtx.polder = false → Claims.movesTo s .brk (s.me.pc + 4)) ∧
      (s.brkArmed.contains s.myCtx.polder = true → s.myCtx.st = .running →
        ∃ t, exec .brk s = .next t ∧
          s.CtxChanged t (fun c => { c with st := .draining, drain := some .debugStop, eventAt := (s.core s.cur.1).cyc })
            (s.me.pc + 4))) ∧
    (s.cur.2 = .e → Claims.faultReady s → Claims.faults s (.reservedMajor w) .illegalEnc) ∧
    (s.Issues [.e] noGuard [] → ∃ t, exec (.vrnd mode) s = .next t ∧
      s.CtxChanged t (fun c => { c with vmode := mode }) (s.me.pc + 4)) ∧
    (s.Issues [.c, .l, .s] noGuard [xd] → ∃ t, exec (.tide xd) s = .next t ∧ s.Queued t (.tide xd) 0 0) ∧
    (s.Issues [.c, .l, .s] noGuard [] →
      Claims.movesTo s (.reservedMajor w) (s.me.pc + 4) ∧
      (s.me.ib = [] → s.drained s.cur.1 (s.bank s.cur.1) s.cur.2 = true → Claims.movesTo s .fence (s.me.pc + 4)) ∧
      ((s.me.ib ≠ [] ∨ s.drained s.cur.1 (s.bank s.cur.1) s.cur.2 = false) → s.lineUp s.myCtx = false →
        ∃ t, exec .fence s = .next t ∧ s.Waits t (.wait .fence)))

/-- R152, R153, R319: stop and halt stop their sequencer; halt begins the group's retirement, waits for an xbeg or xend still
in its issue buffer, and raises ILLEGAL_ENC with a transaction open. The model's choices in it: notes/assumptions/38.md. -/
def Sys2Proof.Claims.StopAndHaltEndTheirSequencer : Prop :=
  ∀ s : State,
    let stopped := s.updMe (fun q => { q with stopped := true })
    (s.Issues [.l, .e, .s] noGuard [] → Claims.gives s stopped .stop 0 0) ∧
    (s.Issues [.c] noGuard [] →
      let open_ := s.me.ib.any (fun e => isTxnOp e.op)
      (open_ = false → s.myCtx.txn = none →
        Claims.gives s (stopped.updMyCtx (fun c => { c with retiring := true })) .halt 0 0) ∧
      (open_ = true → s.lineUp s.myCtx = false → ∃ t, exec .halt s = .next t ∧ s.Waits t (.wait .txn)) ∧
      (s.myCtx.txn ≠ none → Claims.faultReady s → Claims.faults s .halt .illegalEnc))

/-- R154, R279, R282, R287: yield waits for the conditions of R154, which once met stand until the front end has acted;
it proceeds at a boundary for which the front end holds nothing,
and stands at it otherwise; a group that is not persistent raises ILLEGAL_ENC. The model's choices in it:
notes/assumptions/37.md. -/
def Sys2Proof.Claims.YieldOffersTheGroupBoundary : Prop :=
  ∀ s : State, s.Issues [.c] noGuard [] →
    let k := s.cur.1
    let b := s.bank k
    let at_ (v : Bool) : State := s.updMyCtx (fun c => { c with boundary := v })
    let ready : Prop := s.myCtx.boundary = true ∨ (∀ st, st ≠ .c → s.restsForYield k b st = true) ∧
      (∀ st, (s.myCtx.seq st).ib = []) ∧
      (s.core k).a.pend = [] ∧ (s.core k).b.pend = [] ∧ (s.core k).a.mxOut = 0 ∧ (s.core k).b.mxOut = 0
    let called : Prop := ((s.region s.myCtx.group.region).st = .preempted ∧ s.myCtx.save ≠ 0) ∨ (s.core k).migReq = true
    (s.myCtx.persist = false → Claims.faultReady s → Claims.faults s .yield .illegalEnc) ∧
    (s.myCtx.persist = true → s.lineUp s.myCtx = false →
      (ready → ¬ called → Claims.gives s (at_ false) .yield 0 0) ∧
      (ready → called → ∃ t, exec .yield s = .next t ∧ (at_ true).Waits t .yield) ∧
      (¬ ready → ∃ t, exec .yield s = .next t ∧ (at_ false).Waits t .yield))

/-- R273, R279, R312: abort asserts the region's line in its issue step, and the region enters ABORTING, which STATE of its guest part
shows; while the page of that part moves, or an island on the way to it takes no cycles, it waits; a sequencer of the region that is blocked at issue, its condition failing as the machine stands, drops its word and stops,
C of the aborting group goes on, and other regions' groups are untouched. The model's choices in it: notes/assumptions/38.md. -/
def Sys2Proof.Claims.AbortAssertsTheRegionsLine : Prop :=
  ∀ s : State, s.Issues [.c] noGuard [] → s.myCtx.st = .running →
    let rk := s.myCtx.group.region
    let u := if (s.region rk).st = .running then s.setRState rk .aborting else s
    (s.guestHeld rk = true → s.lineUp s.myCtx = false → ∃ t, exec .abort s = .next t ∧ s.Waits t (.wait .tables)) ∧
    (s.guestHeld rk = false → ∃ t, exec .abort s = .next t ∧ t.lineUp t.myCtx = true ∧
      t.region rk = { s.region rk with line := true, st := if (s.region rk).st = .running then .aborting else (s.region rk).st } ∧
      (∀ r, r ≠ rk → t.region r = s.region r) ∧
      (∀ k b, (s.ctx k b).group.region ≠ rk → t.ctx k b = s.ctx k b) ∧
      t.me.pc = s.me.pc + 4 ∧ t.me.stopped = s.me.stopped ∧ (∀ r, t.x r = s.x r) ∧
      (∀ pa, (s.region rk).st = .running → s.objs = [] → s.feAddr (s.region rk).polder (s.region rk).guest = some pa →
        s.doorbellOf pa = none → t.readByte pa = 3) ∧
      ∀ st, st ≠ .c → t.myCtx.seq st =
        if u.blocked s.cur.1 (s.bank s.cur.1) st then { s.myCtx.seq st with
          held := .none, stopped := true, blockedAtAbort := decide ((s.myCtx.seq st).held ≠ .yield) }
        else s.myCtx.seq st)

namespace Sys2Proof.Claims

/-- The guarded 32-bit words whose false slot only passes by, with the streams that admit them. -/
def guardedWords (g : Guard) (xd xa xb : XReg) (n : BitVec 2) : List (List Stream × Instr) :=
  aluWords.map (fun e => (streams, e.1 g xd xa xb)) ++
  [.ext g xd xa xb, .extu g xd xa xb, .ins g xd xa xb, .clz g xd xa, .ctz g xd xa, .popc g xd xa, .rev8 g xd xa].map
    (fun i => (streams, i)) ++
  [.push g xd, .pushb g xd, .rinit g xd xa, .rwaitf g xd xa xb, .rwaite g xd xa xb, .rclaim g xd xa xb, .rpost g xa xb,
   .rfree g xa xb, .crecv g xd xa n, .ccnt g xd n, .binit g xd xa xb, .binitf g xd xa xb, .bkill g xa, .barr g xd xa,
   .bwait g xd xa xb, .sync g xd xa, .acq g xd xa, .rel g xa, .sbind g xa xb n, .xst g xd].map
    (fun i => ([.c, .l, .s], i)) ++
  [.xbeg g xd xa, .xend g xd, .xabt g, .bqput g 13 xa, .bqput g 14 xa, .bqput g 15 xa].map (fun i => ([.c], i))

/-- The slot of an object word: its page has a frame and its object one of these kinds, no move holds the page, and every
earlier access of the sequencer has performed. `bump` counts a free value as used (notes/assumptions/6.md). -/
def onObject (s : State) (va : Nat) (acc : Access) (kind : Nat) (x : Xlat) : Prop :=
  s.me.ib = [] ∧ s.bump.moving (s.cur.1 / 4) s.myCtx.polder va [] = false ∧
  s.bump.objAt (s.viaIssue s.cur.1 (s.bank s.cur.1)) va acc [kind] = .ok x

/-- Every byte but those of the fields at these offsets of a slot reads as before. -/
def slotFrame (s t : State) (pa : Nat) (fields : List (Nat × Nat)) : Prop :=
  ∀ a, (∀ f ∈ fields, a < pa + f.1 ∨ pa + f.1 + f.2 ≤ a) → t.readByte a = s.readByte a

/-- The word is done: its sequencer stands at the next word, with a value in one register. -/
def doneWith (s t : State) (xd : XReg) (v : Nat) : Prop :=
  t.cur = s.cur ∧ t.me.pc = s.me.pc + 4 ∧ t.me.held = .none ∧ ∀ r, t.x r = if r = xd ∧ r ≠ 0 then .ofNat 64 v else s.x r

/-- The word stands as a waiter of its object, at the end of the object's line unless it stood there before. -/
def standsInLine (s t : State) (pa : Nat) (w : ObjWait) (xd : XReg) : Prop :=
  t.me.held = .obj w ∧ t.me.pc = s.me.pc ∧ (∀ r, t.x r = s.x r) ∧
  (t.obj pa).waiters = if s.waitsAt pa s.myCtx.oid s.cur.2 then (s.obj pa).waiters
    else (s.obj pa).waiters ++ [{ oid := s.myCtx.oid, st := s.cur.2, w := w, xd := xd }]

end Sys2Proof.Claims

/-- R155: a word whose FIRST or LAST condition fails changes nothing and issues; it waits for no register. -/
def Sys2Proof.Claims.FalseSlotsOnlyPassBy : Prop :=
  ∀ (s : State) (g : Guard) (xd xa xb : XReg) (n : BitVec 2), ∀ e ∈ Claims.guardedWords g xd xa xb n,
    s.FalseSlot e.1 g → Claims.movesTo s e.2 (s.me.pc + 4)

/-- R58, R141, R152: a word in a stream that does not admit it, or with a guard that names a level that is not active, raises
ILLEGAL_ENC; of two false conditions neither matters then. The model's choices in it: notes/assumptions/16.md. -/
def Sys2Proof.Claims.IllegalStreamsAndGuardsTrap : Prop :=
  ∀ (s : State) (g : Guard) (xd xa xb : XReg) (n : BitVec 2) (mode : RMode), Claims.faultReady s →
    (∀ e ∈ Claims.guardedWords g xd xa xb n,
      (s.cur.2 ∉ e.1 ∨ ∃ m ∈ [g.first, g.last], m ≠ 0 ∧ (s.me.level (m.toNat - 1)).act = false) →
      Claims.faults s e.2 .illegalEnc) ∧
    (s.cur.2 ≠ .c → ∀ i ∈ [Instr.halt, .yield, .abort], Claims.faults s i .illegalEnc) ∧
    (s.cur.2 = .c → Claims.faults s .stop .illegalEnc) ∧
    (s.cur.2 = .e → Claims.faults s .fence .illegalEnc ∧ Claims.faults s (.tide xd) .illegalEnc) ∧
    (s.cur.2 ≠ .e → Claims.faults s (.vrnd mode) .illegalEnc)

/-- R103, R126: the object words that never wait at issue, and the transaction words xbeg and xend, enter the issue buffer
with the operands that their registers hold at issue. -/
def Obligations.ObjectWordsEnterTheIssueBuffer : Prop :=
  ∀ (s : State) (g : Guard) (xd xa xb : XReg) (n : BitVec 2),
    let a := (s.x xa).toNat
    let b := (s.x xb).toNat
    let enters (i : Instr) (op : IbOp) : Prop := ∃ t, exec i s = .next t ∧ s.Queued t op 0 0
    (s.Issues [.c, .l, .s] g [xd, xa, xb] →
      enters (.rinit g xd xa) (.rinit xd a) ∧ enters (.rclaim g xd xa xb) (.rclaim xd a b) ∧
      enters (.rpost g xa xb) (.rpost a b) ∧ enters (.rfree g xa xb) (.rfree a b) ∧
      enters (.binit g xd xa xb) (.binit xd a b false) ∧ enters (.binitf g xd xa xb) (.binit xd a b true) ∧
      enters (.sync g xd xa) (.sync xd a) ∧ enters (.acq g xd xa) (.acq xd a) ∧ enters (.rel g xa) (.rel a) ∧
      enters (.sbind g xa xb n) (.sbind a b n.toNat)) ∧
    (s.Issues [.c] g [xd, xa] →
      enters (.xbeg g xd xa) (.xbeg xd (decide (s.x xa ≠ 0))) ∧ enters (.xend g xd) (.xend xd))

/-- R294, R300, R301: rwaitf takes n filled slots once they are there and no earlier rwaitf waits, and takes a snapshot step, and
the rest of the line is served in the same step (`PassingWaitersPerformInOneStep` says how); rwaite waits for n free slots and
takes nothing; until then each stands as a waiter; a count of 0 or above SLOTS raises QUEUE_MISUSE. The model's choices in it:
notes/assumptions/10.md, notes/assumptions/87.md. -/
def Sys2Proof.Claims.RingWaitsTakeTheirSlots : Prop :=
  ∀ (s : State) (g : Guard) (xd xa xb : XReg) (x : Xlat), s.Issues [.c, .l, .s] g [xd, xa, xb] →
    let va := (s.x xa).toNat
    let n := (s.x xb).toNat
    let pa := x.pa
    let bad : Prop := n = 0 ∨ s.slots pa < n
    let filled := sub32 (s.pub pa) (s.tkn pa)
    let traps (i : Instr) : Prop := ∃ t, exec i s = .next t ∧ t.myCtx.st = .draining ∧
      t.myCtx.drain = some (.trap { cause := .queueMisuse, async := false, st := s.cur.2, wpc := s.me.pc })
    (Claims.onObject s va .objWrite 1 x →
      (¬ bad → n ≤ filled → s.firstInLine pa s.myCtx.oid s.cur.2 = true →
        ∃ t, exec (.rwaitf g xd xa xb) s = .next (t.serveLine pa) ∧ Claims.doneWith s t xd (s.tkn pa) ∧
          t.tkn pa = (s.tkn pa + n) % 2 ^ 32 ∧ (t.obj pa).takes = (s.obj pa).takes ++ [(s.tkn pa, n, false)] ∧
          t.myCtx.readSnap = s.tide ∧ t.waitsAt pa s.myCtx.oid s.cur.2 = false ∧
          Claims.slotFrame (walkedMine va .objWrite s.bump) t pa [(24, 4), (12, 4), (1, 1)]) ∧
      (¬ bad → (filled < n ∨ s.firstInLine pa s.myCtx.oid s.cur.2 = false) → s.lineUp s.myCtx = false →
        ∃ t, exec (.rwaitf g xd xa xb) s = .next t ∧ Claims.standsInLine s t pa (.rwaitf pa n) xd) ∧
      (bad → Claims.faultReady s → traps (.rwaitf g xd xa xb))) ∧
    (Claims.onObject s va .objRead 1 x →
      (¬ bad → n ≤ s.freeSlots pa →
        ∃ t, exec (.rwaite g xd xa xb) s = .next t ∧ Claims.doneWith s t xd (s.freeSlots pa) ∧
          (t.obj pa).takes = (s.obj pa).takes ∧ t.waitsAt pa s.myCtx.oid s.cur.2 = false ∧
          Claims.slotFrame (walkedMine va .objRead s.bump) t pa [(12, 4), (1, 1)]) ∧
      (¬ bad → s.freeSlots pa < n → s.lineUp s.myCtx = false →
        ∃ t, exec (.rwaite g xd xa xb) s = .next t ∧ Claims.standsInLine s t pa (.rwaite pa n) xd) ∧
      (bad → Claims.faultReady s → traps (.rwaite g xd xa xb)))

/-- R297, R298: bkill makes the barrier DEAD and ends every waiter; barr arrives and returns the PHASE of its arrival, the
last party completing the phase; bwait waits until PHASE passes x[XB]. A DEAD barrier raises BARRIER_FAULT. The sequencer that
issues bkill or barr stands in no line of the barrier, as in every run. The model's choices in it: notes/assumptions/10.md,
notes/assumptions/21.md. -/
def Sys2Proof.Claims.BarrierWordsArriveAndWait : Prop :=
  ∀ (s : State) (g : Guard) (xd xa xb : XReg) (x : Xlat), s.Issues [.c, .l, .s] g [xd, xa, xb] →
    let va := (s.x xa).toNat
    let target := (s.x xb).toNat
    let pa := x.pa
    let w := walkedMine va .objWrite s.bump
    let traps (i : Instr) : Prop := ∃ t, exec i s = .next t ∧ t.myCtx.st = .draining ∧
      t.myCtx.drain = some (.trap { cause := .barrierFault, async := false, st := s.cur.2, wpc := s.me.pc, faddr := va })
    (Claims.onObject s va .objWrite 2 x → s.waitsAt pa s.myCtx.oid s.cur.2 = false →
      (s.slotState pa ≠ 0 → ∃ t, exec (.bkill g xa) s = .next t ∧ Claims.doneWith s t 0 0 ∧ t.slotState pa = 0 ∧
        (t.obj pa).waiters = [] ∧ (t.obj pa).arrivals = []) ∧
      (s.slotState pa ≠ 0 → s.drained s.cur.1 (s.bank s.cur.1) s.cur.2 = true →
        ∃ t, exec (.barr g xd xa) s = .next t ∧ Claims.doneWith s t xd (w.phase pa) ∧
          (w.arrived pa + 1 ≠ w.parties pa → t.arrived pa = (w.arrived pa + 1) % 2 ^ 32 ∧ t.phase pa = w.phase pa) ∧
          (w.arrived pa + 1 = w.parties pa → (s.obj pa).arrivals = [] →
            t.arrived pa = 0 ∧ t.phase pa = (w.phase pa + 1) % 2 ^ 64)) ∧
      (s.slotState pa = 0 → Claims.faultReady s → traps (.bkill g xa) ∧ traps (.barr g xd xa))) ∧
    (Claims.onObject s va .objRead 2 x →
      (s.slotState pa ≠ 0 → target < s.phase pa →
        ∃ t, exec (.bwait g xd xa xb) s = .next t ∧
          Claims.doneWith s t xd ((walkedMine va .objRead s.bump).phase pa) ∧ t.myCtx.readSnap = s.tide) ∧
      (s.slotState pa ≠ 0 → s.phase pa ≤ target → s.lineUp s.myCtx = false →
        ∃ t, exec (.bwait g xd xa xb) s = .next t ∧ Claims.standsInLine s t pa (.bwait pa target) xd) ∧
      (s.slotState pa = 0 → Claims.faultReady s → traps (.bwait g xd xa xb)))

/-- R294, R297, R301: the waiting words whose condition holds perform in the step that makes it hold, in the order of the
object's line: every bwait that a completed phase releases takes its PHASE; the rwaitf at the head of a ring's line takes its
slots once they are filled, and one whose slots are not stops the line; every rwaite whose slots are free passes. Each word
issues with its result, a bwait and an rwaitf with the snapshot step of its group, and stands in the line no longer. Its context
goes on here; one that does not issues its word when it does. The model's choices in it: notes/assumptions/10.md. -/
def Sys2Proof.Claims.PassingWaitersPerformInOneStep : Prop :=
  ∀ (s : State) (pa : Nat) (w : Waiter) (k : Nat) (b : Bool), s.findOid w.oid = some (k, b) → s.issuesOn k b = true →
    let q := (s.ctx k b).seq w.st
    let performed (t : State) (v : Nat) (snap : Bool) : Prop :=
      (t.ctx k b).seq w.st = { q.set w.xd (.ofNat 64 v) with
        pc := q.pc + 4, held := .none, prog := 0, next := (s.core k).cyc + 1 } ∧
      (snap = true → (t.ctx k b).readSnap = s.tide)
    (∀ target, (s.obj pa).waiters.Pairwise (fun v u => v.oid ≠ u.oid ∨ v.st ≠ u.st) → w ∈ (s.obj pa).waiters →
      w.w = .bwait pa target → target < (s.phase pa + 1) % 2 ^ 64 →
      performed (s.nextPhase pa) ((s.phase pa + 1) % 2 ^ 64) true ∧ w ∉ ((s.nextPhase pa).obj pa).waiters ∧
      (s.nextPhase pa).phase pa = (s.phase pa + 1) % 2 ^ 64 ∧ (s.nextPhase pa).arrived pa = 0) ∧
    (∀ n, (s.obj pa).waiters = [w] → w.w = .rwaitf pa n →
      (n ≤ sub32 (s.pub pa) (s.tkn pa) → performed (s.serveLine pa) (s.tkn pa) true ∧
        (s.serveLine pa).tkn pa = (s.tkn pa + n) % 2 ^ 32 ∧ ((s.serveLine pa).obj pa).waiters = [] ∧
        ((s.serveLine pa).obj pa).takes = (s.obj pa).takes ++ [(s.tkn pa, n, false)]) ∧
      (sub32 (s.pub pa) (s.tkn pa) < n → s.serveLine pa = s)) ∧
    (∀ (n : Nat) (v : Waiter) (m : Nat), (s.obj pa).waiters = [v, w] → v.w = .rwaitf pa m → w.w = .rwaitf pa n →
      sub32 (s.pub pa) (s.tkn pa) < m → s.serveLine pa = s) ∧
    ∀ n, (s.obj pa).waiters = [w] → w.w = .rwaite pa n →
      (n ≤ s.freeSlots pa → performed (s.serveFree pa) (s.freeSlots pa) false ∧ ((s.serveFree pa).obj pa).waiters = []) ∧
      (s.freeSlots pa < n → s.serveFree pa = s)

/-- R303: crecv moves the oldest entry of a culvert to the scratchpad and returns how many remain; ccnt returns how many
there are; a culvert that the group has not declared raises QUEUE_MISUSE. The model's choices in it: notes/assumptions/10.md,
notes/assumptions/89.md. -/
def Sys2Proof.Claims.CulvertWordsReceive : Prop :=
  ∀ (s : State) (g : Guard) (xd xa : XReg) (n : BitVec 2), s.Issues [.c, .l, .s] g [xd, xa] →
    let k := s.cur.1
    let entries (t : State) : List (List Byte) := (Map.get {} (t.core k).cul n.toNat).entries
    let va := (s.x xa).toNat / 64 * 64
    let off := va % 2 ^ 20
    (declares s.myCtx n = true →
      Claims.gives s s (.ccnt g xd n) xd (.ofNat 64 (entries s).length) ∧
      (∀ e rest, s.me.ib = [] → entries s = e :: rest → inWindow va = true → bankFault s.myCtx.bankSet off 64 = none →
        ∃ t, exec (.crecv g xd xa n) s = .next t ∧ Claims.doneWith s t xd rest.length ∧ entries t = rest ∧
          (∀ m, m ≠ n.toNat → Map.get {} (t.core k).cul m = Map.get {} (s.core k).cul m) ∧
          (∀ o, Map.get 0 (t.core k).sp o =
            if off ≤ o ∧ o < off + e.length then e.getD (o - off) 0 else Map.get 0 (s.core k).sp o) ∧
          ∀ a, t.readByte a = s.readByte a) ∧
      (s.me.ib = [] → entries s = [] → s.lineUp s.myCtx = false →
        ∃ t, exec (.crecv g xd xa n) s = .next t ∧ s.Waits t (.obj (.crecv n.toNat)))) ∧
    (declares s.myCtx n = false → Claims.faultReady s →
      Claims.faults s (.ccnt g xd n) .queueMisuse ∧ Claims.faults s (.crecv g xd xa n) .queueMisuse)

/-- R318, R319: xabt drops the open transaction and every version of it, and raises ILLEGAL_ENC where none is open; xst reads
0 with none open, 1 with one, and 2 with a doomed one. The model's choices in it: notes/assumptions/38.md. -/
def Sys2Proof.Claims.TransactionWordsSeeTheTransaction : Prop :=
  ∀ (s : State) (g : Guard) (xd : XReg),
    (s.Issues [.c] g [] → s.me.ib = [] →
      (∀ x, s.myCtx.txn = some x → ∃ t, exec (.xabt g) s = .next t ∧ Claims.doneWith s t 0 0 ∧ t.myCtx.txn = none ∧
        t.myCtx.lastAborted = some x.begin ∧ t.tide = s.tide ∧
        ∀ line, ∀ v ∈ t.chain line, v.owner ≠ some (.txn x.id)) ∧
      (s.myCtx.txn = none → Claims.faultReady s → Claims.faults s (.xabt g) .illegalEnc)) ∧
    (s.Issues [.c, .l, .s] g [xd] →
      (∀ e ∈ s.me.ib, isTxnOp e.op = false) →
      Claims.gives s s (.xst g xd) xd (match s.myCtx.txn with
        | none => 0
        | some x => if x.doomed then 2 else 1))

/-- The value that a load of a type takes from its bytes (R134). -/
def Sys2Proof.Claims.loaded (ty : Ty) (bytes : List Byte) : Word :=
  if tySigned ty ∧ 2 ^ (8 * bytes.length - 1) ≤ leOf bytes then .ofInt 64 ((leOf bytes : Int) - 2 ^ (8 * bytes.length))
  else .ofNat 64 (leOf bytes)

/-- R104, R105, R106, R122, R134, R149: the load or store at the head of an issue buffer performs, a qst as a store: a load from the scratchpad takes
the bytes there, extended under its type, and a store to it writes them; a load from a plain page takes its bytes from the newest
store-buffer entry that overlaps them, waits where that entry holds only some of them, and else takes them from memory; a store to
a plain page enters the store buffer; an access that does not translate leaves its entry and drains the context with the address.
An entry whose read a tier-2 port has left unanswered as it was lost meets a poisoned line (R324). The groups of no region are being
aborted here (R279). The model's choices in it: notes/assumptions/28.md, notes/assumptions/94.md, notes/assumptions/128.md. -/
def Sys2Proof.Claims.AccessesPerformAtTheHead : Prop :=
  ∀ (s : State) (k : Nat) (st : Stream) (e : IbEntry) (rest : List IbEntry),
    let b := s.bank k
    let c := s.ctx k b
    s.accessOn k = true → c.headFaulted st = false → (c.seq st).ib = e :: rest → (∀ r ∈ s.regions, r.2.st ≠ .aborting) →
    (∀ va, e.lost = true → ibVa e.op = some va → heldByMove e s k b st = false → c.st = .running →
      ∃ t, exec (.accessPerform k st) s = .next t ∧ (t.ctx k b).st = .draining ∧
        (t.ctx k b).seq st = { c.seq st with ib := { e with lost := false } :: rest } ∧
        (t.ctx k b).drain = some (.trap { cause := .poison, async := false, st := st, wpc := e.wpc, faddr := va, atHead := true }) ∧
        ∀ a, t.readByte a = s.readByte a) ∧
    (e.lost = false →
    let via := s.viaIb k b st
    let does (f : State → State) : Prop := exec (.accessPerform k st) s = .next ((f s.bump).popIb k b st)
    let value (ty : Ty) (byteAt : Nat → Byte) : Word := Claims.loaded ty ((List.range (tyw ty / 2)).map byteAt)
    let writes (va : Nat) (data : List Byte) : Prop := e.op = .store va data ∨ e.op = .qst va data
    (∀ ty xd va, e.op = .load ty xd va → inWindow va = true → tyLd ty = true →
      let n := tyw ty / 2
      bankFault c.bankSet (va % 2 ^ 20) n = none → (s.core k).spPoisoned (va % 2 ^ 20) n = false →
      does (fun u => u.setXOf k b st xd (value ty (fun i => Map.get 0 (s.core k).sp (va % 2 ^ 20 + i))))) ∧
    (∀ va data, writes va data → inWindow va = true → bankFault c.bankSet (va % 2 ^ 20) data.length = none →
      does (fun u => u.updCore k (fun co => co.spWrite (va % 2 ^ 20) data))) ∧
    (∀ ty xd va x, e.op = .load ty xd va → inWindow va = false → tyLd ty = true → s.moving (k / 4) c.polder va (c.seq st).ib = false →
      s.bump.translate via va .read = .ok x → x.v = false → x.dem = false → s.doorbellOf x.pa = none →
      let n := tyw ty / 2
      let loads (byteAt : Nat → Byte) : Prop :=
        does (fun u => (u.walked via va x).setXOf k b st xd (value ty byteAt))
      let overlaps (f : SbEntry) : Prop := f.pa < x.pa + n ∧ x.pa < f.pa + f.data.length
      (∀ older f newer, (s.core k).sb = older ++ f :: newer → overlaps f → (∀ g ∈ newer, ¬ overlaps g) →
        (f.pa ≤ x.pa → x.pa + n ≤ f.pa + f.data.length → loads (fun i => f.data.getD (x.pa - f.pa + i) 0)) ∧
        (¬ (f.pa ≤ x.pa ∧ x.pa + n ≤ f.pa + f.data.length) → exec (.accessPerform k st) s = .next s.bump)) ∧
      ((∀ f ∈ (s.core k).sb, ¬ overlaps f) → s.poisoned x.pa = false → loads (fun i => s.readByte (x.pa + i)))) ∧
    (∀ va data x, writes va data → inWindow va = false → s.moving (k / 4) c.polder va (c.seq st).ib = false →
      s.bump.translate via va .write = .ok x → x.v = false → x.dem = false →
      does (fun u => (u.walked via va x).updCore k (fun co =>
        { co with sb := co.sb ++ [{ pa := x.pa, data := data, oid := c.oid, st := st }] }))) ∧
    (∀ va data f, writes va data → inWindow va = false → s.moving (k / 4) c.polder va (c.seq st).ib = false →
      s.bump.translate via va .write = .error f → c.st = .running →
      ∃ t, exec (.accessPerform k st) s = .next t ∧ (t.ctx k b).seq st = c.seq st ∧ (t.ctx k b).st = .draining ∧
        (t.ctx k b).drain = some (.trap { cause := f, async := false, st := st, wpc := e.wpc, faddr := va, atHead := true }) ∧
        ∀ a, t.readByte a = s.readByte a))

/-- R109, R319: the bytes and the mark of a line as a context reads it: its open transaction's own version, else its group's,
else the newest committed version that its snapshot admits, else the base. -/
def Sys2Proof.Claims.readsLine (s : State) (c : Ctx) (line : Nat) (data : List Byte) (bad : Bool) : Prop :=
  let vs := s.chain line
  let ownOf (o : Owner) (v : Version) : Prop := ∃ before after, vs = before ++ v :: after ∧ v.owner = some o ∧
    ∀ u ∈ before, u.owner ≠ some o
  let noneOf (o : Owner) : Prop := ∀ u ∈ vs, u.owner ≠ some o
  let is (v : Version) : Prop := data = v.data ∧ bad = v.poison
  let committed (v : Version) : Prop := v ∈ vs ∧ v.owner = none ∧ v.tide ≤ c.readSnap
  let older : Prop :=
    (∃ v, committed v ∧ (∀ u, committed u → u ≠ v → u.tide < v.tide) ∧ is v) ∨
    ((∀ u, ¬ committed u) ∧ data = s.readBytes line 128 ∧ bad = s.poisoned line)
  match c.txn with
  | none => (∃ v, ownOf (.group c.oid) v ∧ is v) ∨ (noneOf (.group c.oid) ∧ older)
  | some t =>
    if t.doomed then older
    else (∃ v, ownOf (.txn t.id) v ∧ is v) ∨
      (noneOf (.txn t.id) ∧ ((∃ v, ownOf (.group c.oid) v ∧ is v) ∨ (noneOf (.group c.oid) ∧ older)))

/-- R109, R110, R111, R314, R318, R319: a load from a V page reads its line as its context sees it; a store to one goes into the
own provisional version, or makes it from the newest committed bytes, charged to the region's chain; a doomed transaction's store
performs nothing; with a newer committed version than its snapshot and no pin the writer's group restarts instead. Of two groups
that write one line the younger restarts: a pinned one counts as older, then the one that began first; of two pinned ones the
later writer waits. The page stands here, and no region is being aborted (R279). The model's choices in it:
notes/assumptions/11.md, notes/assumptions/28.md. -/
def Sys2Proof.Claims.VersionedPagesPerformAtTheHead : Prop :=
  ∀ (s : State) (k : Nat) (st : Stream) (e : IbEntry) (rest : List IbEntry) (va : Nat) (x : Xlat),
    let b := s.bank k
    let c := s.ctx k b
    let via := s.viaIb k b st
    let line := x.pa / 128 * 128
    let u := s.bump.walked via va x
    s.accessOn k = true → c.headFaulted st = false → (c.seq st).ib = e :: rest → (∀ r ∈ s.regions, r.2.st ≠ .aborting) →
    e.lost = false → inWindow va = false → s.moving (k / 4) c.polder va (c.seq st).ib = false → x.v = true → x.dem = false →
    let does (t : State) : Prop := exec (.accessPerform k st) s = .next (t.popIb k b st)
    (∀ ty xd data, e.op = .load ty xd va → tyLd ty = true → s.bump.translate via va .read = .ok x →
      Claims.readsLine s c line data false →
      does (u.setXOf k b st xd (Claims.loaded ty ((data.drop (x.pa % 128)).take (tyw ty / 2))))) ∧
    (∀ data, e.op = .store va data ∨ e.op = .qst va data → s.bump.translate via va .write = .ok x →
      let o := c.writer
      let vs := s.chain line
      let place (old : List Byte) : List Byte := old.take (x.pa % 128) ++ data ++ old.drop (x.pa % 128 + data.length)
      (∀ t, c.txn = some t → t.doomed = true → exec (.accessPerform k st) s = .next (s.bump.popIb k b st)) ∧
      ((∀ t, c.txn = some t → t.doomed = false) →
        (∀ v ∈ vs, v.owner = some o → v.poison = false → (∀ w ∈ vs, w.owner = some o → w = v) →
          does { u with vers := Map.put u.vers line (vs.map (fun w =>
            if w.owner = some o then { v with data := place v.data, margin := false } else w)) }) ∧
        ((∀ v ∈ vs, v.owner = none) → vs.length < 15 → (∀ v ∈ vs, v.tide ≤ c.readSnap ∨ c.writerOf.pinned = true) →
          (∀ v ∈ vs, v.poison = false) → s.poisoned line = false →
          Map.get 0 s.pool c.polder < u.ptField c.polder 32 8 →
          ∀ paid, charge u true (s.region c.group.region).chain = .ok paid →
          ∃ t new, does t ∧ t.chain line = vs ++ [new] ∧ new.owner = some o ∧ new.polder = c.polder ∧
            new.node = c.group.region ∧ new.poison = false ∧
            ((∀ v ∈ vs, False) → new.data = place (u.readBytes line 128)) ∧
            (∀ v ∈ vs, v.tide ≤ 2 ^ 64 → (∀ w ∈ vs, w ≠ v → w.tide < v.tide) → new.data = place v.data) ∧
            Map.get 0 t.pool c.polder = Map.get 0 s.pool c.polder + 1 ∧
            (∀ a, t.readByte a = paid.readByte a) ∧ ∀ l, l ≠ line → t.chain l = s.chain l) ∧
        (c.txn = none → s.findOid c.oid = some (k, b) →
          let aborted : Prop := ∃ t, exec (.accessPerform k st) s = .next t ∧ (t.ctx k b).st = .empty ∧
            ∀ l, ∀ w ∈ t.chain l, w.owner ≠ some (.group c.oid)
          (c.pinned = false → (∀ w ∈ vs, w.owner = none) → (∃ v ∈ vs, c.snap < v.tide ∧ v.tide ≤ 2 ^ 64) → aborted) ∧
          ∀ v g j d, vs.filter (fun w => w.owner.isSome) = [v] → v.owner = some (.group g) → g ≠ c.oid →
            s.findOid g = some (j, d) →
            let r := s.ctx j d
            (c.pinned = true → r.pinned = true → exec (.accessPerform k st) s = .next s.bump) ∧
            ((c.pinned = false ∧ r.pinned = true) ∨ (c.pinned = false ∧ r.pinned = false ∧ r.begin < c.begin) → aborted) ∧
            ((c.pinned = true ∧ r.pinned = false) ∨ (c.pinned = false ∧ r.pinned = false ∧ c.begin < r.begin) →
              u.vWrite c.writerOf (va / 128 * 128) line (x.pa % 128) data =
                newVersion c.writerOf (va / 128 * 128) line (x.pa % 128) data (u.restartGroup g)))))

/-- R122, R126: the head of an issue buffer faults: its context drains for a record with this cause and address, the entries
stay, and nothing is written. DETAIL is 0, or 0x80 of a POISON that an undervolted island made (R235). -/
def Sys2Proof.Claims.headFaults (s : State) (k : Nat) (st : Stream) (e : IbEntry) (f : Cause) (va : Nat) : Prop :=
  let b := s.bank k
  (s.ctx k b).st = .running → ∃ t d, exec (.accessPerform k st) s = .next t ∧ (t.ctx k b).seq st = (s.ctx k b).seq st ∧
    (t.ctx k b).st = .draining ∧ (f ≠ .poison → d = 0) ∧ (d = 0 ∨ d = 0x80) ∧
    (t.ctx k b).drain =
      some (.trap { cause := f, async := false, st := st, wpc := e.wpc, faddr := va, detail := d, atHead := true }) ∧
    ∀ a, t.readByte a = s.readByte a

/-- R107, R112, R117, R149, R150, R318, R319: what the heads of an issue buffer do that name no object. tide returns the tide. A give
waits for the W-file writes issued before it and for room, and its tokens then stand in the queue. A push waits for its
sequencer's stores and for the engine's island to take cycles: it then enters the command at the tail of its FIFO and writes 0,
or writes 1 at a full FIFO, into which nothing goes. A spill writes its bytes to the scratchpad. A qld enters its 64 bytes in its queue, waits while a
gather has filled it, and enters nothing once its loop is left. xbeg opens a transaction, with the begin tide of the aborted one
where it is a retry; xend commits what the transaction wrote, over its group's versions of those lines, or of a doomed one only
advances the tide. The model's choices in it: notes/assumptions/28.md, notes/assumptions/38.md, notes/assumptions/94.md. -/
def Sys2Proof.Claims.QueuedWordsPerformAtTheHead : Prop :=
  ∀ (s : State) (k : Nat) (st : Stream) (e : IbEntry) (rest : List IbEntry),
    let b := s.bank k
    let c := s.ctx k b
    s.accessOn k = true → c.headFaulted st = false → (c.seq st).ib = e :: rest → (∀ r ∈ s.regions, r.2.st ≠ .aborting) →
    e.lost = false →
    let via := s.viaIb k b st
    let waits : Prop := exec (.accessPerform k st) s = .next s.bump
    let does (f : State → State) : Prop := exec (.accessPerform k st) s = .next ((f s.bump).popIb k b st)
    let drained : Prop := s.drained k b st = true
    let ends (t : State) (xd : XReg) (v : Word) : Prop := exec (.accessPerform k st) s = .next t ∧
      (t.ctx k b).seq st = { (c.seq st).set xd v with ib := rest }
    (∀ xd, e.op = .tide xd → does (fun u => u.setXOf k b st xd (.ofNat 64 s.tide))) ∧
    (∀ qn n, e.op = .give qn n →
      let stands : Prop := (st = .e ∧ ∃ p ∈ c.pend, p.no < e.no) ∨ 15 < c.tokens qn + n
      (stands → waits) ∧
      (¬ stands → does (fun u => u.updCtx k b (fun c => { c with tok := Map.set 0 c.tok qn (Map.get 0 c.tok qn + n) })))) ∧
    (∀ words xd, e.op = .push words xd →
      let may : Prop := drained ∧ s.islandOn (6 * (k / 4) + 5) = true
      (¬ may → waits) ∧
      (may → 64 ≤ (s.core k).inflight → does (fun u => u.setXOf k b st xd 1)) ∧
      (may → (s.core k).inflight < 64 → ∃ t, ends t xd 0 ∧ Claims.pushes s t k b st words)) ∧
    (∀ o data, e.op = .spill o data → ∃ t, ends t 0 0 ∧
      (∀ i, Map.get 0 (t.core k).sp i = if o ≤ i ∧ i < o + data.length then data.getD (i - o) 0 else Map.get 0 (s.core k).sp i) ∧
      (t.core k).spPoison =
        (s.core k).spPoison.filter (fun l => !(decide (o ≤ 128 * markOf l) && decide (128 * markOf l + 128 ≤ o + data.length))) ∧
      ∀ a, t.readByte a = s.readByte a) ∧
    (∀ qn va, e.op = .qld qn va →
      let left : Prop := c.abortL = true ∨ ∃ g ∈ c.leftL, tagLater g e.tag = true
      let full : Prop := 8 ≤ (Map.get [] c.q qn).length
      let enters (f : State → State) (byteAt : Nat → Byte) : Prop :=
        (left → does f) ∧
        (¬ left → does (fun u => (f u).updCtx k b (fun c => { c with q := Map.put c.q qn (Map.get [] c.q qn ++
          [{ data := .ofNat 512 (leOf ((List.range 64).map byteAt)), tag := e.tag }]) })))
      (full → ¬ left → waits) ∧
      (¬ full ∨ left →
        (inWindow va = true → bankFault c.bankSet (va % 2 ^ 20) 64 = none → (s.core k).spPoisoned (va % 2 ^ 20) 64 = false →
          enters id (fun i => Map.get 0 (s.core k).sp (va % 2 ^ 20 + i))) ∧
        (∀ x, inWindow va = false → s.moving (k / 4) c.polder va (c.seq st).ib = false → s.bump.translate via va .read = .ok x →
          x.dem = false →
          (x.v = false → s.doorbellOf x.pa = none → (∀ f ∈ (s.core k).sb, ¬ (f.pa < x.pa + 64 ∧ x.pa < f.pa + f.data.length)) →
            s.poisoned x.pa = false → enters (fun u => u.walked via va x) (fun i => s.readByte (x.pa + i))) ∧
          (∀ data, x.v = true → 64 ≤ (data.drop (x.pa % 128)).length → Claims.readsLine s c (x.pa / 128 * 128) data false →
            enters (fun u => u.walked via va x) (fun i => data.getD (x.pa % 128 + i) 0))))) ∧
    (∀ xd retry, e.op = .xbeg xd retry →
      (¬ drained → waits) ∧
      (drained → c.txn ≠ none → Claims.headFaults s k st e .illegalEnc 0) ∧
      (drained → c.txn = none → does (fun u => (({ u with nextId := u.nextId + 1 } : State).updCtx k b (fun c =>
        { c with txn := some { id := s.nextId, begin := if retry then c.lastAborted.getD s.tide else s.tide, snap := s.tide } })).setXOf
          k b st xd (.ofNat 64 s.tide)))) ∧
    ∀ xd, e.op = .xend xd →
      (¬ drained → waits) ∧
      (drained → c.txn = none → Claims.headFaults s k st e .illegalEnc 0) ∧
      ∀ x, drained → c.txn = some x → ∃ t, t.tide = s.tide + 1 ∧ (t.ctx k b).txn = none ∧
        (x.doomed = true → ends t xd 1 ∧ (t.ctx k b).lastAborted = some x.begin ∧ ∀ line, t.chain line = s.chain line) ∧
        (x.doomed = false → ends t xd 0 ∧ (t.ctx k b).lastAborted = none ∧ (Map.sorted s.vers = true → ∀ line,
          t.chain line =
            if (s.chain line).any (fun v => decide (v.owner = some (.txn x.id))) then
              ((s.chain line).filter (fun v => decide (v.owner ≠ some (.group c.oid)))).map (fun v =>
                if v.owner = some (.txn x.id) then { v with owner := none, tide := s.tide + 1 } else v)
            else s.chain line))

/-- R111, R112, R115, R296: what a release step on a slot does: the tide advances by 1; the owner's versions of the lines that
meet the slot's regions carry it, as committed ones, and the owner is pinned if there is one; the slot's release tide rises to it;
nothing else of memory changes. -/
def Sys2Proof.Claims.releases (s r : State) (k : Nat) (b : Bool) (pa : Nat) : Prop :=
  let c := s.ctx k b
  let commits (v : Version) : Prop := v.owner = some c.writer ∧ v.polder = c.polder ∧ ∃ i, i < 4 ∧
    let start := s.readLE (pa + 64 + 16 * i) 8
    let len := s.readLE (pa + 72 + 16 * i) 8
    len ≠ 0 ∧ start < v.va + 128 ∧ v.va < start + len
  r.tide = s.tide + 1 ∧
  (∀ line, (r.chain line).length = (s.chain line).length ∧ ∀ (i : Nat) (v : Version), (s.chain line)[i]? = some v →
    (commits v → (r.chain line)[i]? = some { v with owner := none, tide := s.tide + 1 }) ∧
    (¬ commits v → (r.chain line)[i]? = some v)) ∧
  ((∃ l ∈ s.vers, ∃ v ∈ l.2, commits v) → r.ctx k b = match c.txn with
    | some x => { c with txn := some { x with pinned := true } }
    | none => { c with pinned := true }) ∧
  ((∀ l ∈ s.vers, ∀ v ∈ l.2, ¬ commits v) → r.ctx k b = c) ∧
  (s.tide + 1 < 2 ^ 64 → r.rtide pa = max (s.rtide pa) (s.tide + 1)) ∧
  (∀ a, a < pa + 32 ∨ pa + 40 ≤ a → r.readByte a = s.readByte a) ∧
  (∀ a, r.obj a = s.obj a) ∧ ∀ j, j ≠ k → r.core j = s.core j

/-- The address, the access and the kinds of slot that an object word of the issue buffer names (R291, R293). -/
def Sys2Proof.Claims.namesSlot : IbOp → Option (Nat × Access × List Nat)
  | .rinit _ va | .rclaim _ va _ | .rpost va _ | .rfree va _ => some (va, .objWrite, [1])
  | .binit _ va _ _ | .sync _ va => some (va, .objWrite, List.range 256)
  | .acq _ va => some (va, .objRead, [1, 2, 3])
  | .rel va | .sbind va _ _ => some (va, .objWrite, [1, 2, 3])
  | _ => none

/-- R115, R116, R291, R292, R294 to R298, R300, R301: what the object words do at the head of an issue buffer, on a page that has its
frame. One whose object is refused faults with that cause. rinit clears an idle ring's counters; rclaim reserves slots, or
returns 2^64 − 1; rpost releases, closes its claim and publishes the closed claims that lead; rfree closes its take and frees the
closed takes that lead; each then serves the waiters. binit and binitf make a barrier, with what they do to the waiters and the
held arrivals; sync makes a plain object; acq takes a new snapshot and returns the release tide; rel releases; sbind sets a
region to a descriptor. rpost and rel wait for their sequencer's stores. The model's choices in it: notes/assumptions/10.md,
notes/assumptions/28.md, notes/assumptions/87.md, notes/assumptions/89.md. -/
def Sys2Proof.Claims.ObjectWordsPerformAtTheHead : Prop :=
  ∀ (s : State) (k : Nat) (st : Stream) (e : IbEntry) (rest : List IbEntry) (va : Nat) (acc : Access) (kinds : List Nat),
    let b := s.bank k
    let c := s.ctx k b
    s.accessOn k = true → c.headFaulted st = false → (c.seq st).ib = e :: rest → (∀ r ∈ s.regions, r.2.st ≠ .aborting) →
    e.lost = false → Claims.namesSlot e.op = some (va, acc, kinds) → heldByMove e s k b st = false →
    let via := s.viaIb k b st
    let waits : Prop := exec (.accessPerform k st) s = .next s.bump
    let faults (f : Cause) (a : Nat) : Prop := Claims.headFaults s k st e f a
    let drained : Prop := s.drained k b st = true
    ((∃ a i, e.op = .rpost a i) ∨ (∃ a, e.op = .rel a) → ¬ drained → waits) ∧
    (drained → ∀ f, s.bump.objAt via va acc kinds = .error f → faults f va) ∧
    ∀ x, s.bump.objAt via va acc kinds = .ok x → x.dem = false →
      let pa := x.pa
      let u := s.bump.walked via va x
      let o := u.obj pa
      let does (t : State) : Prop := exec (.accessPerform k st) s = .next (t.popIb k b st)
      let ends (t : State) (xd : XReg) (v : Word) : Prop := exec (.accessPerform k st) s = .next t ∧
        (t.ctx k b).seq st = { (c.seq st).set xd v with ib := rest }
      -- the spans of a list once the one that starts at an index is closed: the closed ones that lead, and the rest
      let closes (spans : List (Nat × Nat × Bool)) (i : Nat) (led left : List (Nat × Nat × Bool)) : Prop :=
        ∃ older n newer, spans = older ++ (i, n, false) :: newer ∧ (∀ p ∈ older, p.1 = i → p.2.2 = true) ∧
          led ++ left = older ++ (i, n, true) :: newer ∧ (∀ p ∈ led, p.2.2 = true) ∧ ∀ p, left.head? = some p → p.2.2 = false
      let slots (spans : List (Nat × Nat × Bool)) : Nat := (spans.map (fun p => p.2.1)).sum
      (∀ xd, e.op = .rinit xd va →
        let idle : Prop := u.waitersOf pa = 0 ∧ u.clm pa = u.fre pa
        (¬ idle → does (u.setXOf k b st xd 1)) ∧
        (idle → does (((u.writeLE (pa + 16) 16 0).updObj pa (fun o => { o with claims := [], takes := [] })).setXOf k b st xd 0))) ∧
      (∀ xd n, e.op = .rclaim xd va n →
        (n = 0 ∨ u.slots pa < n → faults .queueMisuse 0) ∧
        (0 < n → n ≤ u.slots pa →
          (u.freeSlots pa < n → does (u.setXOf k b st xd (.ofNat 64 (2 ^ 64 - 1)))) ∧
          (n ≤ u.freeSlots pa → does (((u.updObj pa (fun o =>
            { o with claims := o.claims ++ [(u.clm pa, n, false)] })).writeLE (pa + 16) 4 (u.clm pa + n)).setXOf
              k b st xd (.ofNat 64 (u.clm pa)))))) ∧
      (∀ i, e.op = .rpost va i → drained →
        ((∀ p ∈ o.claims, p.1 = i % 2 ^ 32 → p.2.2 = true) → faults .queueMisuse 0) ∧
        ∀ led left, closes o.claims (i % 2 ^ 32) led left → ∃ r, Claims.releases u r k b pa ∧
          does (((r.updObj pa (fun o => { o with claims := left })).writeLE (pa + 20) 4 (r.pub pa + slots led)).serveLine pa)) ∧
      (∀ i, e.op = .rfree va i →
        ((∀ p ∈ o.takes, p.1 = i % 2 ^ 32 → p.2.2 = true) → faults .queueMisuse 0) ∧
        ∀ led left, closes o.takes (i % 2 ^ 32) led left →
          does (((u.updObj pa (fun o => { o with takes := left })).writeLE (pa + 28) 4 (u.fre pa + slots led)).serveFree pa)) ∧
      (∀ xd p force, e.op = .binit xd va p force →
        let busy : Prop := (u.kind pa = 1 ∨ u.kind pa = 2) ∧ u.waitersOf pa ≠ 0
        (p = 0 ∨ 4096 < p → does (u.setXOf k b st xd 2)) ∧
        (0 < p → p ≤ 4096 →
          (busy → force = false → does (u.setXOf k b st xd 1)) ∧
          (¬ busy ∨ force = true → ∃ t, ends t xd 0 ∧
            t.kind pa = 2 ∧ t.slotState pa = 1 ∧ t.parties pa = p ∧ t.arrived pa = 0 ∧ t.waitersOf pa = 0 ∧ t.abytes pa = 0 ∧
            t.readLE (pa + 40) 8 = 0 ∧ t.phase pa = (if u.kind pa = 2 then (u.phase pa + 2) % 2 ^ 64 else 0) ∧
            t.rtide pa = (if u.kind pa = 2 then u.rtide pa else s.tide % 2 ^ 64) ∧
            (∀ j, j < 64 → t.readByte (pa + 64 + j) = if u.kind pa = 2 then u.readByte (pa + 64 + j) else 0) ∧
            (∀ a, a < pa ∨ pa + 128 ≤ a → t.readByte a = u.readByte a) ∧ t.obj pa = {} ∧
            (∀ w ∈ o.waiters, ∀ j d, s.findOid w.oid = some (j, d) → ∃ r ∈ (t.ctx j d).traps,
              r.cause = .barrierReset ∧ r.st = w.st ∧ r.wpc = ((s.ctx j d).seq w.st).pc) ∧
            ∀ id ∈ o.arrivals, ∀ m, Map.find s.cmds id = some m → ∃ n, Map.find t.cmds id = some n ∧ n.status = 4))) ∧
      (∀ xd, e.op = .sync xd va →
        let busy : Prop := (u.kind pa = 1 ∨ u.kind pa = 2) ∧ u.waitersOf pa ≠ 0
        (busy → does (u.setXOf k b st xd 1)) ∧
        (¬ busy → ∃ t, ends t xd 0 ∧ t.kind pa = 3 ∧ t.slotState pa = 1 ∧ t.rtide pa = s.tide % 2 ^ 64 ∧
          (∀ j, 2 ≤ j → j < 32 ∨ 40 ≤ j → j < 128 → t.readByte (pa + j) = 0) ∧
          (∀ a, a < pa ∨ pa + 128 ≤ a → t.readByte a = u.readByte a) ∧ (t.obj pa).claims = [] ∧ (t.obj pa).takes = [])) ∧
      (∀ xd, e.op = .acq xd va → does ((u.updCtx k b (fun c => match c.txn with
        | some x => { c with txn := some { x with snap := s.tide } }
        | none => { c with snap := s.tide })).setXOf k b st xd (.ofNat 64 (u.rtide pa)))) ∧
      (e.op = .rel va → drained → ∃ r, Claims.releases u r k b pa ∧ does r) ∧
      ∀ d n, e.op = .sbind va d n →
        (∀ f a, u.readSpan via k b d 16 = (.fault f, a) → faults f a) ∧
        (∀ a, u.readSpan via k b d 16 = (.wait, a) → waits) ∧
        ∀ bytes a, u.readSpan via k b d 16 = (.data bytes, a) →
          let start := leOf (bytes.take 8)
          let len := leOf (bytes.drop 8)
          (2 ^ 40 < len ∨ 2 ^ 56 < start + len → faults .queueMisuse 0) ∧
          (len ≤ 2 ^ 40 → start + len ≤ 2 ^ 56 →
            does ((walkAll via .read ([d, d + 15].filter (fun a => !inWindow a)) u).writeBytes (pa + 64 + 16 * n)
              (if len = 0 then List.replicate 16 0 else bytes)))

/-- R104, R351: a store buffer drains in order, and its oldest entry reaches memory, once its island takes cycles: only the bytes
of that store change. -/
def Sys2Proof.Claims.StoreBuffersDrainInOrder : Prop :=
  ∀ (s : State) (k : Nat) (e : SbEntry) (rest : List SbEntry), (s.core k).sb = e :: rest → s.doorbellOf e.pa = none →
    s.poisoned e.pa = false →
    (s.paStopped (k / 4) e.pa = true → exec (.storeDrain k) s = .next s) ∧
    (s.paStopped (k / 4) e.pa = false → ∃ t, exec (.storeDrain k) s = .next t ∧ (t.core k).sb = rest ∧
      (∀ j, j ≠ k → t.core j = s.core j) ∧
      ∀ a, t.readByte a = if e.pa ≤ a ∧ a < e.pa + e.data.length then e.data.getD (a - e.pa) 0 else s.readByte a)

namespace Sys2Proof.Claims

/-- The course of a vector word (R66 to R69, R155, R157): it waits for the queues it pops and the entry it pushes; then its
first fault is raised; otherwise its queues are popped, its y entry is reserved, and its result is put in flight for a landing
λ cycles later. A false slot pops its queues. -/
def launches (s : State) (i : Instr) (g : Guard) (regs : List XReg) (srcs : List WOp) (dst : Option WOp) (lat : Nat)
    (p : VPlan) : Prop :=
  let c := s.myCtx
  let qs := sourceQueues srcs
  let issues (f : Ctx → Ctx) : Prop := ∃ t, exec i s = .next t ∧ s.CtxChanged t f (s.me.pc + 12)
  (s.Issues [.e] g regs →
    (∀ q, emptySource c qs = some q → s.lineUp c = false → ∃ t, exec i s = .next t ∧ s.Waits t (.emptyQueue q)) ∧
    (emptySource c qs = none →
      (yFull c dst = true → s.lineUp c = false →
        ∃ t, exec i s = .next t ∧ s.Waits t (.wait (.yRoom ((yOf dst).getD 0)))) ∧
      (yFull c dst = false →
        (∀ f, planFault c s.me.rb.toNat p = some f → faultReady s →
          ∃ d, (f ≠ .poison → d = 0) ∧ (d = 0 ∨ d = 0x80) ∧ faultsWith s i f d) ∧
        (planFault c s.me.rb.toNat p = none → issues (launchRes (s.core s.cur.1).cyc lat qs dst s.me.tag p.res))))) ∧
  (s.FalseSlot [.e] g → emptySource c qs = none → issues (popQueues qs))

/-- An integer result: outside the limits of the type it saturates and sets SAT (R90, R95). -/
def saturated (ty : Ty) (v : Int) : Nat × BitVec 32 :=
  let e := 4 * tyw ty
  let lo : Int := if tySigned ty then -(2 ^ (e - 1)) else 0
  let hi : Int := if tySigned ty then 2 ^ (e - 1) - 1 else 2 ^ e - 1
  let r := max lo (min hi v)
  ((r % 2 ^ e).toNat, if r = v then 0 else 1)

/-- A floating result: the rounded encoding, and NV where the operation sets it (R95, R160). -/
def rounded (ty : Ty) (mode : RMode) (r : Ex × Bool) : Nat × BitVec 32 := (arith ty mode r.1, if r.2 then 2 else 0)

/-- The value of an element of a floating type. -/
def value (ty : Ty) (v : Int) : Ex := decodeF ty (v % 2 ^ (4 * tyw ty)).toNat

/-- The bits of an element. -/
def raw (ty : Ty) (v : Int) : Nat := (v % 2 ^ (4 * tyw ty)).toNat

/-- Two-source lanes: an exact integer result, or a floating one. -/
def numeric2 (fi : Int → Int → Int) (ff : RMode → Ex → Ex → Ex × Bool) (ty : Ty) (mode : RMode) (a b : Int) :
    Nat × BitVec 32 :=
  if tyFloat ty then rounded ty mode (ff mode (value ty a) (value ty b)) else saturated ty (fi a b)

/-- λ of the arithmetic words: 5 for a floating type, 3 otherwise (R156). -/
def arithmeticLatency (ty : Ty) : Nat := if tyFloat ty then 5 else 3

/-- Two-source lanes on raw bits, with the width of an element. -/
def bitwise2 (f : Nat → Nat → Nat → Nat) (ty : Ty) (_ : RMode) (a b : Int) : Nat × BitVec 32 :=
  (f (4 * tyw ty) (raw ty a) (raw ty b) % 2 ^ (4 * tyw ty), 0)

/-- The two-source lane words with their λ and the result of one lane (R161, R162). -/
def twoSourceWords : List ((VCtl → WOp → WOp → WOp → Instr) × (Ty → Nat) × (Ty → RMode → Int → Int → Nat × BitVec 32)) :=
  [(.vadd, arithmeticLatency, numeric2 (fun a b => a + b) exAdd),
   (.vsub, arithmeticLatency, numeric2 (fun a b => a - b) (fun m a b => exAdd m a (exNeg b))),
   (.vmul, arithmeticLatency, numeric2 (fun a b => a * b) (fun _ a b => exMul a b)),
   (.vmin, arithmeticLatency, numeric2 min (fun _ a b =>
     if exNan a || exNan b then (.nan, true) else (if exBelow b a then b else a, false))),
   (.vmax, arithmeticLatency, numeric2 max (fun _ a b =>
     if exNan a || exNan b then (.nan, true) else (if exBelow a b then b else a, false))),
   (.vmulh, fun _ => 3, fun ty _ a b => (raw ty (a * b / 2 ^ (4 * tyw ty)), 0)),
   (.vavg, fun _ => 3, fun ty m a b => saturated ty (roundRat m (a + b) 2)),
   (.vand, fun _ => 3, bitwise2 (fun _ a b => a &&& b)), (.vor, fun _ => 3, bitwise2 (fun _ a b => a ||| b)),
   (.vxor, fun _ => 3, bitwise2 (fun _ a b => a ^^^ b)),
   (.vshl, fun _ => 3, bitwise2 (fun e a b => a * 2 ^ (b % e))), (.vshr, fun _ => 3, bitwise2 (fun e a b => a / 2 ^ (b % e))),
   (.vsra, fun _ => 3, bitwise2 (fun e a b =>
     (((if 2 * a < 2 ^ e then (a : Int) else (a : Int) - 2 ^ e) / 2 ^ (b % e)) % 2 ^ e).toNat)),
   (.vrol, fun _ => 3, bitwise2 (fun e a b => a * 2 ^ (b % e) ||| a / 2 ^ (e - b % e)))]

/-- The one-source lane words (R161 to R163). -/
def oneSourceWords : List ((VCtl → WOp → WOp → Instr) × (Ty → Nat) × (Ty → RMode → Int → Nat × BitVec 32)) :=
  let numeric1 (fi : Int → Int) (ff : Ex → Ex × Bool) (ty : Ty) (mode : RMode) (a : Int) : Nat × BitVec 32 :=
    if tyFloat ty then rounded ty mode (ff (value ty a)) else saturated ty (fi a)
  [(.vabs, arithmeticLatency, numeric1 (fun a => a.natAbs) exAbs),
   (.vneg, arithmeticLatency, numeric1 (fun a => -a) (fun a => (exNeg a, exNan a))),
   (.vnot, fun _ => 3, fun ty _ a => (2 ^ (4 * tyw ty) - 1 - raw ty a, 0))] ++
  [(.vrcp, TFun.rcp), (.vrsq, .rsq), (.vsqrt, .sqrt), (.vexp2, .exp2), (.vlog2, .log2), (.vtanh, .tanh),
   (.vsigm, .sigm)].map (fun (e : (VCtl → WOp → WOp → Instr) × TFun) =>
     (e.1, fun _ => 9, fun ty m a => rounded ty m (exFun e.2 (value ty a))))

/-- The fused words, d last (R161). -/
def fusedWords : List ((VCtl → WOp → WOp → WOp → Instr) × (Ty → RMode → Int → Int → Int → Nat × BitVec 32)) :=
  let numeric3 (fi : Int → Int → Int → Int) (ff : RMode → Ex → Ex → Ex → Ex × Bool) (ty : Ty) (mode : RMode)
      (a b d : Int) : Nat × BitVec 32 :=
    if tyFloat ty then rounded ty mode (ff mode (value ty a) (value ty b) (value ty d)) else saturated ty (fi a b d)
  [(.vfma, numeric3 (fun a b d => a * b + d) exFma), (.vfms, numeric3 (fun a b d => a * b - d) (fun m a b d => exFma m a b (exNeg d))),
   (.vfnma, numeric3 (fun a b d => d - a * b) (fun m a b d => exFma m (exNeg a) b d))]

/-- The active lanes of a word among n (R68). -/
def lanesOn (c : Ctx) (m : MReg) (n : Nat) : List Nat := (List.range n).filter (fun i => (c.mask m).getLsbD i)

/-- The compares (R168). -/
def compareWords : List ((VCtl → MReg → WOp → WOp → Instr) × (Ty → Int → Int → Bool)) :=
  let test (fi : Int → Int → Bool) (ff : Ex → Ex → Bool) (ty : Ty) (a b : Int) : Bool :=
    if tyFloat ty then ff (value ty a) (value ty b) else fi a b
  [(.vceq, test (fun a b => a == b) exEq), (.vcne, test (fun a b => a != b) (fun a b => !exEq a b)),
   (.vclt, test (fun a b => decide (a < b)) exLt), (.vcle, test (fun a b => decide (a ≤ b)) (fun a b => exLt a b || exEq a b)),
   (.vcun, test (fun _ _ => false) (fun a b => exNan a || exNan b))]

end Sys2Proof.Claims

/-- R157 to R163: the lane words put in flight, for each active lane, the result of their table on the elements of their
sources, integers saturating and floats rounded in VMODE; the words of other lanes are not written. The model's choices in
it: notes/assumptions/19.md, notes/assumptions/22.md, notes/assumptions/25.md, notes/assumptions/26.md. -/
def Sys2Proof.Claims.LaneWordsComputeTheirLanes : Prop :=
  ∀ (s : State) (c : VCtl) (d a b : WOp),
    let x := s.myCtx
    let rb := s.me.rb.toNat
    let on := Claims.lanesOn x c.pred (lanes c.ty)
    let plan (reads : List WOp) (touchD : Bool) (f : Nat → Nat × BitVec 32) : VPlan :=
      { touch := reads.map (fun o => ⟨o, opw o c.ty, on, true, false⟩) ++ [⟨d, opw d c.ty, on, touchD, false⟩], masks := [(c.pred, on)],
        res := lanesOut d rb (opw d c.ty) (on.map (fun i => (i, f i))) }
    (∀ e ∈ Claims.twoSourceWords,
      Claims.launches s (e.1 c d a b) c.g [] [a, b] (some d) (e.2.1 c.ty)
        (plan [a, b] false (fun i => e.2.2 c.ty x.vmode (x.elemInt rb a i c.ty) (x.elemInt rb b i c.ty)))) ∧
    (∀ e ∈ Claims.oneSourceWords,
      Claims.launches s (e.1 c d a) c.g [] [a] (some d) (e.2.1 c.ty)
        (plan [a] false (fun i => e.2.2 c.ty x.vmode (x.elemInt rb a i c.ty)))) ∧
    (∀ e ∈ Claims.fusedWords,
      Claims.launches s (e.1 c d a b) c.g [] [a, b] (some d) (Claims.arithmeticLatency c.ty)
        (plan [a, b] true (fun i =>
          e.2 c.ty x.vmode (x.elemInt rb a i c.ty) (x.elemInt rb b i c.ty) (x.elemInt rb d i c.ty))))

/-- R164 to R167: vcvt, vquant, vdequant, vclamp and vpack. A lane of vquant and vdequant takes the scale entry of its group
of 32 lanes. The model's choices in it: notes/assumptions/27.md. -/
def Sys2Proof.Claims.ConversionWordsConvertTheirLanes : Prop :=
  ∀ (s : State) (c : VCtl) (d a b : WOp) (sty : Ty),
    let x := s.myCtx
    let rb := s.me.rb.toNat
    let on := Claims.lanesOn x c.pred
    let n := lanes c.ty
    let entry (i : Nat) : Nat := x.elemBits rb b (i / 32) .z32
    let plan (l : List Nat) (reads : List Touch) (w : Nat) (f : Nat → Nat × BitVec 32) : VPlan :=
      { touch := reads ++ [⟨d, w, l, false, false⟩], masks := [(c.pred, l)], res := lanesOut d rb w (l.map (fun i => (i, f i))) }
    (let l := on (max n (lanes sty))
     Claims.launches s (.vcvt c d a sty) c.g [] [a] (some d) 4
       (plan l [⟨a, opw a sty, l, true, false⟩] (opw d c.ty) (fun i => convert c.ty x.vmode (valueOf sty (x.elemBits rb a i sty))))) ∧
    Claims.launches s (.vquant c d a b) c.g [] [a, b] (some d) 4
      (plan (on n) [⟨a, opw a .h, on n, true, false⟩, ⟨b, opw b .z32, (on n).map (fun i => i / 32), true, false⟩] (opw d c.ty) (fun i =>
        quantize (codeTy c.ty) x.vmode (decodeF .h (x.elemBits rb a i .h)) (scaleOf (entry i)) (zeroOf c.ty true (entry i)).toNat)) ∧
    Claims.launches s (.vdequant c d a b) c.g [] [a, b] (some d) 4
      (plan (on n) [⟨a, opw a c.ty, on n, true, false⟩, ⟨b, opw b .z32, (on n).map (fun i => i / 32), true, false⟩] (opw d .h) (fun i =>
        convert .h x.vmode (exMul (scaleOf (entry i)) (exInt ((x.elemBits rb a i c.ty : Int) - zeroOf c.ty true (entry i)))).1)) ∧
    (tyFloat c.ty = false →
      Claims.launches s (.vclamp c d a b) c.g [] [a, b] (some d) 3
        (plan (on n) [⟨a, opw a c.ty, on n, true, false⟩, ⟨b, opw b c.ty, [0, 1], true, false⟩] (opw d c.ty) (fun i =>
          (Claims.raw c.ty (min (max (x.elemInt rb a i c.ty) (x.elemInt rb b 0 c.ty)) (x.elemInt rb b 1 c.ty)), 0)))) ∧
    (tyFloat c.ty = true →
      Claims.launches s (.vclamp c d a b) c.g [] [a, b] (some d) 5
        (plan (on n) [⟨a, opw a c.ty, on n, true, false⟩, ⟨b, opw b c.ty, [0, 1], true, false⟩] (opw d c.ty) (fun i =>
          let v := Claims.value c.ty (x.elemInt rb a i c.ty)
          let lo := Claims.value c.ty (x.elemInt rb b 0 c.ty)
          let hi := Claims.value c.ty (x.elemInt rb b 1 c.ty)
          if exNan v || exNan lo || exNan hi then (canonNan c.ty, 2)
          else
            let m := if exBelow v lo then lo else v
            (arith c.ty x.vmode (if exBelow hi m then hi else m), 0)))) ∧
    (∀ src, packSrc c.ty = some src →
      let h := n / 2
      let bits (i : Nat) : Nat := if i < h then x.elemBits rb a i src else x.elemBits rb b (i - h) src
      Claims.launches s (.vpack c d a b) c.g [] [a, b] (some d) 4
        (plan (on n) [⟨a, opw a src, (on n).filter (fun i => decide (i < h)), true, false⟩,
            ⟨b, opw b src, ((on n).filter (fun i => decide (h ≤ i))).map (fun i => i - h), true, false⟩] (opw d c.ty)
          (fun i => convert c.ty x.vmode (valueOf src (bits i)))))

/-- R128, R168, R169: a compare writes the bits of the active lanes, keeps those of the inactive ones and clears the bits from n
up; a compare into m0 is illegal; mask logic works on all 128 bits; vflags makes the flag word. The model's choices in it:
notes/assumptions/22.md, notes/assumptions/25.md. -/
def Obligations.MaskWordsWriteTheirMask : Prop :=
  ∀ (s : State) (c : VCtl) (g : Guard) (ty : Ty) (md ma mb : MReg) (a b : WOp),
    let x := s.myCtx
    let rb := s.me.rb.toNat
    let n := lanes c.ty
    let on := Claims.lanesOn x c.pred n
    let whole := List.range 128
    let logic (i : Instr) (v : BitVec 128) : Prop :=
      Claims.launches s i g [] [] none 3
        { touch := [], masks := [(ma, whole), (mb, whole)], res := { masks := [(md.toNat, .allOnes 128, v)] } }
    (∀ e ∈ Claims.compareWords,
      ∃ keep hit : BitVec 128,
        (∀ i, i < 128 → keep.getLsbD i = (decide (i ∈ on) || decide (n ≤ i)) ∧
          hit.getLsbD i = (decide (i ∈ on) && e.2 c.ty (x.elemInt rb a i c.ty) (x.elemInt rb b i c.ty))) ∧
        Claims.launches s (e.1 c md a b) c.g [] [a, b] none 3
          { touch := [⟨a, opw a c.ty, on, true, false⟩, ⟨b, opw b c.ty, on, true, false⟩], masks := [(c.pred, on)],
            res := { masks := [(md.toNat, keep, hit)] } }) ∧
    (∀ e ∈ Claims.compareWords, (e.1 c 0 a b).wf = false) ∧
    logic (.vmand g md ma mb) (x.mask ma &&& x.mask mb) ∧ logic (.vmor g md ma mb) (x.mask ma ||| x.mask mb) ∧
    logic (.vmxor g md ma mb) (x.mask ma ^^^ x.mask mb) ∧ logic (.vmandn g md ma mb) (x.mask ma &&& ~~~(x.mask mb)) ∧
    ∃ w : BitVec 32,
      (let set := ((List.range (lanes ty)).filter (fun i => (x.mask ma).getLsbD i)).length
       w.toNat = set % 128 + (if 0 < set then 2 ^ 7 else 0) + (if set = lanes ty then 2 ^ 8 else 0)
         + (if set = 0 then 2 ^ 9 else 0) + ma.toNat * 2 ^ 10) ∧
      Claims.launches s (.vflags g ty ma) g [] [] none 3
        { touch := [], masks := [(ma, List.range (lanes ty))], res := { wf := some w } }

/-- R170 to R173: the words that move elements; an operand of 2n elements that names a queue raises QUEUE_MISUSE, as its touch
says. The model's choices in it: notes/assumptions/22.md, notes/assumptions/24.md, notes/assumptions/25.md,
notes/assumptions/26.md. -/
def Obligations.MovingWordsPlaceTheirElements : Prop :=
  ∀ (s : State) (c : VCtl) (d a b : WOp) (xr : XReg) (amt : BitVec 7),
    let x := s.myCtx
    let rb := s.me.rb.toNat
    let n := lanes c.ty
    let on := Claims.lanesOn x c.pred n
    let all := List.range n
    let both := List.range (2 * n)
    let scalar := (s.x xr).toNat % 2 ^ (4 * tyw c.ty)
    let read (o : WOp) (l : List Nat) : Touch := ⟨o, opw o c.ty, l, true, false⟩
    let planTo (wide : Bool) (l : List Nat) (reads : List Touch) (masks : List (MReg × List Nat)) (f : Nat → Nat) : VPlan :=
      { touch := reads ++ [⟨d, opw d c.ty, l, false, wide⟩], masks := masks,
        res := lanesOut d rb (opw d c.ty) (l.map (fun i => (i, f i, 0))) }
    let plan := planTo false
    let el (o : WOp) (i : Nat) : Nat := x.elemBits rb o i c.ty
    let go (i : Instr) (regs : List XReg) (srcs : List WOp) (p : VPlan) : Prop := Claims.launches s i c.g regs srcs (some d) 3 p
    go (.vsel c d a b) [] [a, b] (plan all [read a all, read b all] [(c.pred, all)]
      (fun i => if (x.mask c.pred).getLsbD i then el a i else el b i)) ∧
    go (.vperm c d a b) [] [a, b] (plan on [read a all, read b on] [(c.pred, on)]
      (fun i => el a (x.elemRaw rb b i (opw b c.ty) % n))) ∧
    (xr ≠ 0 → go (.vbcast c d a xr amt) [xr] [] (plan on [read a []] [(c.pred, on)] (fun _ => scalar))) ∧
    go (.vbcast c d a 0 amt) [0] [a]
      (plan on [read a (if on = [] then [] else [amt.toNat])] [(c.pred, on)] (fun _ => el a amt.toNat)) ∧
    go (.vslup c d a xr amt) [xr] [a]
      (plan on [read a ((on.filter (fun i => decide (amt.toNat ≤ i))).map (fun i => i - amt.toNat))] [(c.pred, on)]
        (fun i => if amt.toNat ≤ i then el a (i - amt.toNat) else scalar)) ∧
    go (.vsldn c d a xr amt) [xr] [a]
      (plan on [read a ((on.filter (fun i => decide (i + amt.toNat < n))).map (fun i => i + amt.toNat))] [(c.pred, on)]
        (fun i => if i + amt.toNat < n then el a (i + amt.toNat) else scalar)) ∧
    go (.vzip c.g c.ty d a b) [] [a, b] (planTo true both [read a all, read b all] []
      (fun i => if i % 2 = 0 then el a (i / 2) else el b (i / 2))) ∧
    go (.vunzip c.g c.ty d a) [] [a] (planTo true both [⟨a, opw a c.ty, both, true, true⟩] [] (fun i => el a (if i < n then 2 * i else 2 * (i - n) + 1)))

/-- R100, R174: a reduction writes element 0 alone: the saturated sum, the larger or the smaller of the active elements for
an integer type, whose source is no wider than it (R65), and the tree of R100 for a floating one; an inactive lane
contributes the identity. -/
def Sys2Proof.Claims.ReductionsWriteElementZero : Prop :=
  ∀ (s : State) (c : VCtl) (d a : WOp),
    let x := s.myCtx
    let rb := s.me.rb.toNat
    let n := lanes c.ty
    let on := Claims.lanesOn x c.pred n
    let e := 4 * tyw c.ty
    let lo : Int := if tySigned c.ty then -(2 ^ (e - 1)) else 0
    let hi : Int := if tySigned c.ty then 2 ^ (e - 1) - 1 else 2 ^ e - 1
    let vals := on.map (fun i => x.elemInt rb a i c.ty)
    let go (i : Instr) (v : Nat × BitVec 32) : Prop :=
      Claims.launches s i c.g [] [a] (some d) (Claims.arithmeticLatency c.ty)
        { touch := [⟨a, opw a c.ty, on, true, false⟩, ⟨d, opw d c.ty, [0], false, false⟩], masks := [(c.pred, on)],
          res := lanesOut d rb (opw d c.ty) [(0, v)] }
    (tyInt c.ty = true → opw a c.ty ≤ tyw c.ty →
      go (.vrsum c d a) (Claims.saturated c.ty vals.sum) ∧
      go (.vrmax c d a) (Claims.raw c.ty (vals.foldl max lo), 0) ∧
      go (.vrmin c d a) (Claims.raw c.ty (vals.foldl min hi), 0)) ∧
    (tyFloat c.ty = true →
      let full (ident : Int) : List Int :=
        (List.range n).map (fun i => if (x.mask c.pred).getLsbD i then x.elemInt rb a i c.ty else ident)
      let larger (p q : Ex) : Ex := if exNan p || exNan q then .nan else if exBelow p q then q else p
      let smaller (p q : Ex) : Ex := if exNan p || exNan q then .nan else if exBelow q p then q else p
      let pick (op : Ex → Ex → Ex) (ident : Nat) : Ex := tree op .nan ((full ident).map (Claims.value c.ty))
      go (.vrsum c d a) (convert c.ty .rne (decodeF .f (tree addF32 0 ((full 0).map (fun v => arith .f .rne (Claims.value c.ty v)))))) ∧
      go (.vrmax c d a) (arith c.ty .rne (pick larger (infBits c.ty true)), if exNan (pick larger (infBits c.ty true)) then 2 else 0) ∧
      go (.vrmin c d a) (arith c.ty .rne (pick smaller (infBits c.ty false)), if exNan (pick smaller (infBits c.ty false)) then 2 else 0))

/-- R175 to R177: vaccrd reads elements of the accumulator store, here while no word of the array runs and no vaccwr of the
group waits, and no error marks them; vaccwr enters the matrix command order with the elements it read. The model's choices in it:
notes/assumptions/6.md. -/
def Sys2Proof.Claims.AccumulatorWordsReachTheStore : Prop :=
  ∀ (s : State) (c : VCtl) (d a : WOp) (acs : AcsAddr), s.Issues [.e] c.g [acs.xr] →
    let x := s.myCtx
    let rb := s.me.rb.toNat
    let on := Claims.lanesOn x c.pred 16
    let cl := s.cluster (s.cur.1 / 4)
    let place (i : Nat) : Nat :=
      let g := (acs.row.toNat * 8 + acs.cg.toNat + (s.x acs.xr).toNat) % 1024
      acs.tile.toNat * 16384 + g / 8 * 128 + 16 * (g % 8) + i
    (yFull x (some d) = false →
      planFault x rb { touch := [⟨d, opw d c.ty, on, false, false⟩], masks := [(c.pred, on)], res := {} } = none →
      (∀ e ∈ x.order, isVaccwr e = false) → cl.mxa.run = none → (∀ i ∈ on, place i ∉ cl.acsPoison) →
      ∃ t, exec (.vaccrd c d acs) s = .next t ∧
        s.bump.CtxChanged t (launchRes (s.core s.cur.1).cyc 3 [] (some d) s.me.tag
          (lanesOut d rb (opw d c.ty) (on.map (fun i => (i, cl.elem (place i), 0))))) (s.me.pc + 12)) ∧
    (emptySource x (sourceQueues [a]) = none →
      planFault x rb { touch := [⟨a, opw a c.ty, on, true, false⟩], masks := [(c.pred, on)], res := {} } = none →
      (x.order.length < 16 →
        let elems := on.map (fun i => (place i, BitVec.ofNat 32 (x.elemBits rb a i c.ty)))
        ∃ t, exec (.vaccwr c acs a) s = .next t ∧
          s.CtxChanged t (fun v =>
            { popQueues (sourceQueues [a]) v with order := v.order ++ [{ op := .vaccwr elems }], mxOut := v.mxOut + 1 })
            (s.me.pc + 12)) ∧
      (16 ≤ x.order.length → s.lineUp x = false → ∃ t, exec (.vaccwr c acs a) s = .next t ∧ s.Waits t (.wait (.order false))))

/-- R178, R179: wspill reads its slices at issue and enters the issue buffer; wfill reads its bytes at issue and puts its
slices in flight; each holds E for ⌈n/128⌉ cycles. The model's choices in it: notes/assumptions/29.md. -/
def Sys2Proof.Claims.SpillAndFillMoveSlices : Prop :=
  ∀ (s : State) (g : Guard) (sp : SpAddr) (w : WStart) (cnt : BitVec 24), s.Issues [.e] g [sp.xs] →
    let n := cnt.toNat + 1
    let bytes := (n + 1) / 2
    let p := (w.row.toNat + if w.rb then s.me.rb.toNat else 0) * 128 + w.slc.toNat
    let b := sp.bank.toNat * 32768 + sp.off.toNat + (s.x sp.xs).toNat
    let co := s.core s.cur.1
    p + n ≤ 98304 → b + bytes ≤ 786432 →
    (∀ k, b / 32768 ≤ k → k ≤ (b + bytes - 1) / 32768 → s.myCtx.bankSet.getLsbD k = true) →
    ((∀ q ∈ s.myCtx.wPoison, q < p ∨ p + n ≤ q) →
      ∃ t, exec (.wspill g sp w cnt) s = .next t ∧ s.Elsewhere t ∧ t.myCtx.rest = s.myCtx.rest ∧
        (∀ st, st ≠ s.cur.2 → t.myCtx.seq st = s.myCtx.seq st) ∧ (∀ r, t.x r = s.x r) ∧
        (∃ e : IbEntry, t.me.ib = s.me.ib ++ [e] ∧ e.op = .spill b (leBytes bytes (s.myCtx.sliceRead p n)) ∧ e.wpc = s.me.pc) ∧
        t.me.pc = s.me.pc + 12 ∧ t.me.next = co.cyc + (n + 127) / 128) ∧
    (s.me.ib = [] → co.spPoisoned b bytes = false →
      ∃ t, exec (.wfill g w sp cnt) s = .next t ∧
        s.CtxChanged t (launchRes co.cyc (2 + (n + 127) / 128) [] none []
          { slices := (List.range n).map (fun i =>
              (p + i, BitVec.ofNat 4 ((Map.get 0 co.sp (b + i / 2)).toNat / 16 ^ (i % 2)))) }) (s.me.pc + 12) ∧
        t.me.next = co.cyc + (n + 127) / 128)

/-- R180 to R182: defer appends one record for each active lane to the backwater queue; drain takes the oldest records of its
tag, writes their elements and their indices, and sets the mask of the lanes it filled. -/
def Sys2Proof.Claims.BackwaterWordsKeepTheirRecords : Prop :=
  ∀ (s : State) (c : VCtl) (a d idx : WOp) (tag : BitVec 4) (xi : XReg) (k : BitVec 5) (md : MReg),
    let x := s.myCtx
    let rb := s.me.rb.toNat
    let on := Claims.lanesOn x c.pred (lanes c.ty)
    let ks := List.range (k.toNat + 1)
    let plus (o : WOp) (j : Nat) : WOp := { o with row := o.row + .ofNat 10 j }
    (s.Issues [.e] c.g [xi] → emptySource x [] = none →
      planFault x rb { touch := ks.map (fun j => ⟨plus a j, opw a c.ty, on, true, false⟩), masks := [(c.pred, on)], res := {} } = none →
      x.back.length + on.length ≤ 512 →
      ∃ t, exec (.defer c a tag xi k) s = .next t ∧
        s.CtxChanged t (fun v => { v with back := v.back ++ on.map (fun i =>
          { tag := tag.toNat, k := k.toNat + 1, width := tyw c.ty, lane := i, index := ((s.x xi).toNat + i) % 2 ^ 25,
            elems := ks.map (fun j => x.elemBits rb (plus a j) i c.ty) }) }) (s.me.pc + 12)) ∧
    (s.Issues [.e] c.g [] →
      let recs := (x.back.filter (fun r => r.tag == tag.toNat)).take (lanes c.ty)
      let js := List.range recs.length
      (∀ r ∈ recs, r.k = k.toNat + 1 ∧ r.width = tyw c.ty) →
      planFault x rb
        { touch := ks.map (fun j => ⟨plus d j, opw d c.ty, js, false, false⟩) ++ [⟨idx, 8, js, false, false⟩], res := {} } = none →
      ∃ t, exec (.drain c.g c.ty d idx md tag k) s = .next t ∧
        s.CtxChanged t (fun v =>
          launchRes (s.core s.cur.1).cyc 3 [] none []
            { slices := (recs.zip js).flatMap (fun e =>
                ks.flatMap (fun j => wWrites (plus d j) rb (opw d c.ty) [(e.2, e.1.elems.getD j 0)])
                  ++ wWrites idx rb 8 [(e.2, e.1.lane * 2 ^ 25 + e.1.index)]),
              masks := [(md.toNat, .allOnes 128, .ofNat 128 (2 ^ recs.length - 1))] }
            { v with back := t.myCtx.back }) (s.me.pc + 12) ∧
        (∀ T, T ≠ tag.toNat → t.myCtx.back.filter (fun r => r.tag == T) = x.back.filter (fun r => r.tag == T)) ∧
        t.myCtx.back.filter (fun r => r.tag == tag.toNat) = (x.back.filter (fun r => r.tag == tag.toNat)).drop recs.length)

/-- R69, R70, R95, R128: a result that is due lands: its slices and mask bits are written, its flag word becomes visible to C
six cycles later, its y entry becomes visible to S, and NSTAT takes its bits; a slice that a later word writes is left to it.
The model's choices in it: notes/assumptions/42.md. -/
def Obligations.VectorResultsLand : Prop :=
  ∀ (s : State) (core : Nat) (l : Landing) (before after : List Landing),
    let c := s.act core
    let cyc := (s.core core).cyc
    (s.core core).frozen = false → s.islandOn (coreIsland core) = true → s.inReset = false →
    c.pend = before ++ l :: after → l.due ≤ cyc → (∀ p ∈ before ++ after, cyc < p.due ∧ p.no ≠ l.no) →
    ∃ t, exec (.vectorLand core) s = .next t ∧ (∀ j, j ≠ core → t.core j = s.core j) ∧ (∀ a, t.readByte a = s.readByte a) ∧
      (∀ lin, (t.act core).slice lin =
        (((l.slices.filter (fun e => e.1 == lin)).getLast?).map (fun e => e.2)).getD (c.slice lin)) ∧
      (∀ m bits v, m ≠ 0 → l.masks = [(m, bits, v)] → ∀ i, i < 128 →
        (Map.get 0 (t.act core).masks m).getLsbD i = if bits.getLsbD i then v.getLsbD i else (Map.get 0 c.masks m).getLsbD i) ∧
      (t.act core).wfNext = c.wfNext ++ (match l.wf with | some w => [(cyc + 6, w)] | none => []) ∧
      (t.act core).nstat = c.nstat ||| l.nstat ∧
      (t.act core).pend = (before ++ after).map (shadowed l) ∧
      (∀ y, l.y = some y → ∀ e ∈ Map.get [] (t.act core).y y, e.no = l.no → e.ready = true) ∧
      (∀ st, (t.act core).seq st = c.seq st)

namespace Sys2Proof.Claims

/-- Nothing changes but the active context of a core, which becomes `c`, and a cluster, which becomes `x`. -/
def arrayOnly (s t : State) (k : Nat) (c : Ctx) (cl : Nat) (x : Cluster) : Prop :=
  t.act k = c ∧ (∀ j, j ≠ k → t.core j = s.core j) ∧ (t.core k).setCtx (s.bank k) {} = (s.core k).setCtx (s.bank k) {} ∧
  t.cluster cl = x ∧ (∀ j, j ≠ cl → t.cluster j = s.cluster j) ∧
  ({ t with cores := s.cores, clusters := s.clusters } : State) = s

/-- The array without a holder of a term. -/
def withoutTerm (x : Cluster) : Cluster := { x with mxa := { x.mxa with holder := none, idle := 0 } }

/-- The compute words of R193 to R202 that sample nothing at issue, with their order entries. -/
def computeWords (g : Guard) (ty : Ty) (bbuf btr : Bool) (brow : BitVec 11) (act src : BitVec 4) (fac : BitVec 16)
    (mm1 : BitVec 7) (rows : SpRows) : List (Instr × MOp) :=
  [(.mlatch g ty bbuf brow btr, .mlatch ty bbuf brow.toNat btr), (.mzero g act, .mzero act.toNat),
   (.mtcopy g act src, .mtcopy act.toNat src.toNat), (.mtadd g ty act src, .mtadd ty act.toNat src.toNat),
   (.mtscale g ty act fac, .mtscale act.toNat fac), (.mtout g ty act mm1 rows, .mtout ty act.toNat (mm1.toNat + 1) rows)]

/-- A word in the order of the running context, credited where it computes; E issues again `hold` cycles later. -/
def inOrder (s : State) (i : Instr) (f : Ctx → Ctx) (hold : Nat) : Prop :=
  ∃ t, exec i s = .next t ∧ s.CtxChanged t f (s.me.pc + 24) ∧ t.me.next = (s.core s.cur.1).cyc + hold

/-- Element k of a run of elements of a type, as a number. -/
def element (ty : Ty) (run k : Nat) : Int :=
  let e := 4 * tyw ty
  let v := run / 2 ^ (e * k) % 2 ^ e
  if tySigned ty ∧ 2 ^ (e - 1) ≤ v then (v : Int) - 2 ^ e else (v : Int)

/-- The value 1 of a type, where a generated B has it (R196). -/
def generatedOne (m : Mma) (perm k j : Nat) : Bool :=
  let K := min (1024 / (4 * tyw m.ty)) 128
  match m.gen.toNat with
  | 1 => k == j
  | 2 => decide (j < K ∧ k + 1 + j = K)
  | 3 => k == perm / 256 ^ j % 256
  | 4 => j == 0
  | 5 => k + 1 == j
  | _ => false

/-- B[k, j] of a tile step: from column j of its latch buffer, or generated (R193, R196). -/
def factorB (m : Mma) (perm col k j : Nat) : Nat :=
  let e := 4 * tyw m.ty
  if m.gen = 0 then col / 2 ^ (e * k) % 2 ^ e
  else if generatedOne m perm k j then (match m.ty with | .h => 0x3C00 | .bf => 0x3F80 | _ => 1) else 0

/-- The pairs of A[i, k] and B[k, j] that a tile step multiplies among some k: above the diagonal of a triangle A is TFILL, and
a sub-tile of 16 by 16 wholly above it is skipped where TFILL is 0 and no zero point of A counts (R195). -/
def factors (m : Mma) (perm row col i j : Nat) (ks : List Nat) : List (Nat × Nat) :=
  let e := 4 * tyw m.ty
  let skip (k : Nat) : Bool := m.tri && decide (m.tfill = 0) && !(tyQa m.ty && m.zpa)
    && decide (m.tdiag.toInt < (16 * (k / 16) : Nat) - ((16 * (i / 16) + 15 : Nat) : Int))
  (ks.filter (fun k => !skip k)).map (fun (k : Nat) =>
    (if m.tri && decide (m.tdiag.toInt < (k : Int) - i) then m.tfill.toNat else row / 2 ^ (e * k) % 2 ^ e, factorB m perm col k j))

/-- `v` is the exact sum of terms rounded once to FP32, a zero of either sign where the sum is 0 (R89, R96). -/
def roundedSum (terms : List Ex) (v : Nat) : Prop :=
  let total := terms.foldl (fun a t => (exAdd .rne a t).1) (.fin false 0 0 false)
  (exZero total = none → v = arith .f .rne total) ∧ (exZero total ≠ none → v = 0 ∨ v = 2 ^ 31)

/-- `v` is element (i, j) of a tile step of a running word, whose row of A is `row` and whose element was `old` (R96 to R98): an
integer sum that saturates onto the old element or wraps without it, one exact floating sum, or the groups of codes one after
another, each p·sa·sb rounded to FP32 and added to FP32. -/
def isTileElement (r : Run) (m : Mma) (row i j old v : Nat) : Prop :=
  let perm := r.entry.perm.toNat
  let col := if m.gen = 0 then r.latch.col j else 0
  let K := 1024 / (4 * tyw m.ty)
  let all := factors m perm row col i j (List.range K)
  if tyQa m.ty then
    let gs := 16 * 2 ^ m.gsz.toNat
    let entryA (g : Nat) : Nat := r.sa.getD (i * (K / gs) + g) 0
    let entryB (g : Nat) : Nat := r.sb.getD (g * 128 + j) 0
    let zero (on : Bool) (e : Nat) : Int := if on then ((e / 65536 % (if m.ty = .qa4 then 16 else 256) : Nat) : Int) else 0
    let p (g : Nat) : Int := ((factors m perm row col i j ((List.range gs).map (fun k => g * gs + k))).map (fun q =>
      ((q.1 : Int) - zero m.zpa (entryA g)) * ((q.2 : Int) - zero m.zpb (entryB g)))).sum
    let t (g : Nat) : Nat := arith .f .rne
      (exMul (exMul (exInt (p g)) (decodeF .h (entryA g % 65536))).1 (decodeF .h (entryB g % 65536))).1
    ∃ acc : List Nat, acc.length = K / gs + 1 ∧ acc.getD 0 0 = (if m.acc then old else 0) ∧ acc.getD (K / gs) 0 = v ∧
      ∀ g, g < K / gs → roundedSum [decodeF .f (acc.getD g 0), decodeF .f (t g)] (acc.getD (g + 1) 0)
  else if tyFloat m.ty then
    roundedSum (all.map (fun p => (exMul (decodeF m.ty p.1) (decodeF m.ty p.2)).1) ++ (if m.acc then [decodeF .f old] else [])) v
  else
    let sum : Int := (all.map (fun p => element m.ty p.1 0 * element m.ty p.2 0)).sum
    v = if m.acc then (saturated .s32 ((if 2 ^ 31 ≤ old then (old : Int) - 2 ^ 32 else (old : Int)) + sum)).1
      else (sum % (2 ^ 32 : Int)).toNat

end Sys2Proof.Claims

/-- R93, R183 to R187, R191, R204: a compute word with its lease open enters the matrix command order and takes a credit; mma
also samples its rows of A from the W file; mrnd, mlease and mfree enter the order and take effect for the words after them;
mwait waits for the order to be done with. A closed lease raises QUEUE_MISUSE, a full order or 32 credits holds the word, and
a false slot passes by. -/
def Obligations.MatrixWordsEnterTheOrder : Prop :=
  ∀ (s : State) (g : Guard) (ty : Ty) (bbuf btr : Bool) (brow : BitVec 11) (act src : BitVec 4) (fac : BitVec 16)
    (mm1 : BitVec 7) (rows : SpRows) (mode : RMode) (m : Mma),
    let c := s.myCtx
    let words := Claims.computeWords g ty bbuf btr brow act src fac mm1 rows
    let banked : Prop := c.bankSet.getLsbD rows.bank.toNat = true
    let room : Prop := c.order.length < 16
    let credited (e : MEntry) (x : Ctx) : Ctx :=
      { x with order := x.order ++ [e], mxOut := x.mxOut + 1, credit := x.credit + 1 }
    let marks (i : Instr) (op : MOp) (f : Ctx → Ctx) : Prop :=
      Claims.inOrder s i (fun x => f { x with order := x.order ++ [{ op := op, mode := c.mmode }], mxOut := x.mxOut + 1 }) 1
    (s.Issues [.e] g [] →
      (∀ e ∈ words, c.leaseOpen = true → banked → room → c.credit < 32 →
        Claims.inOrder s e.1 (credited { op := e.2, mode := c.mmode }) 1) ∧
      (∀ e ∈ words, c.leaseOpen = true → banked → ¬ (room ∧ c.credit < 32) → s.lineUp c = false →
        ∃ t, exec e.1 s = .next t ∧ s.Waits t (.wait (.order true))) ∧
      (∀ e ∈ words, c.leaseOpen = false → Claims.faultReady s → Claims.faults s e.1 .queueMisuse) ∧
      (room → marks (.mrnd g mode) .mrnd (fun x => { x with mmode := mode }) ∧
        marks (.mlease g) .mlease (fun x => { x with leaseOpen := true }) ∧
        marks (.mfree g) .mfree (fun x => { x with leaseOpen := false })) ∧
      (c.mxOut = 0 → Claims.movesTo s (.mwait g) (s.me.pc + 24)) ∧
      (c.mxOut ≠ 0 → s.lineUp c = false → ∃ t, exec (.mwait g) s = .next t ∧ s.Waits t (.wait .array))) ∧
    (s.Issues [.e] m.g [] → c.leaseOpen = true → mmaFault m c s.me.rb.toNat = none → room → c.credit < 32 →
      let M := m.mm1.toNat + 1
      let perm : BitVec 1024 := if m.gen.toNat = 3 then .ofNat 1024 (c.sliceRead (m.grow.toNat * 128) 256) else 0
      match m.a with
      | .sp _ => Claims.inOrder s (.mma m) (credited { op := .mma m, mode := c.mmode, perm := perm }) 1
      | .w f => Claims.inOrder s (.mma m) (credited (
          { op := .mma m, mode := c.mmode, perm := perm,
            rows := (List.range M).map (fun i => BitVec.ofNat 1024 (c.sliceRead (elemPos f s.me.rb.toNat i 256) 256)) })) M) ∧
    (∀ e ∈ words ++ [(.mrnd g mode, .mrnd), (.mlease g, .mlease), (.mfree g, .mfree), (.mwait g, .mrnd)],
      s.FalseSlot [.e] g → Claims.movesTo s e.1 (s.me.pc + 24))

/-- R177, R188, R190, R191: what the entry at the head of the order does: mrnd leaves it; mlease opens the lease, or ends the
term it finds; mfree closes it; a compute word requests the array; a vaccwr writes its elements between two words of the
array. -/
def Sys2Proof.Claims.OrderHeadsAct : Prop :=
  ∀ (s : State) (core : Nat) (e : MEntry) (rest : List MEntry),
    let cl := core / 4
    let c := s.act core
    let x := s.cluster cl
    let popped : Ctx := { c with order := rest, mxOut := c.mxOut - 1 }
    s.mxaOn cl = true → s.ordersOn core = true → c.order = e :: rest →
    let goes (c' : Ctx) (x' : Cluster) : Prop :=
      ∃ t, exec (.matrixOrderHead core) s = .next t ∧ Claims.arrayOnly s t core c' cl x'
    (e.op = .mrnd → goes popped x) ∧
    (e.op = .mlease → c.lease = .closed → goes { popped with lease := .parked, termCount := 0 } x) ∧
    (e.op = .mlease → (c.lease = .parked ∨ c.lease = .requested) → goes popped x) ∧
    (e.op = .mlease → c.lease = .held → s.runsWord core = true → goes { popped with endTerm := true } x) ∧
    (e.op = .mlease → c.lease = .held → s.runsWord core = false →
      goes { popped with lease := if headComputes popped then .requested else .parked, endTerm := false }
        (Claims.withoutTerm x)) ∧
    (e.op = .mfree →
      goes { popped with lease := .closed, endTerm := false, unpaid := false }
        (if c.lease = .held ∧ s.runsWord core = false then Claims.withoutTerm x else x)) ∧
    (isCompute e = true → c.lease = .parked → goes { c with lease := .requested } x) ∧
    (∀ elems, e.op = .vaccwr elems → x.mxa.run = none →
      ∃ t, exec (.vaccwrApply core) s = .next t ∧
        Claims.arrayOnly s t core popped cl (x.setElems (elems.map (fun v => (v.1, v.2.toNat)))))

/-- R190, R192: a grant gives the term to the candidate of the best tier that comes next in the round; a term of a context
whose order has stood empty for 64 cycles ends when another context is REQUESTED. -/
def Sys2Proof.Claims.TermsGoRoundTheCluster : Prop :=
  ∀ (s : State) (cl : Nat), s.mxaOn cl = true →
    let x := s.cluster cl
    let turn (i : Nat) : Nat := 4 * cl + (x.mxa.last + 1 + i) % 4
    (x.mxa.holder = none → x.mxa.run = none → (∃ i, i < 4 ∧ s.wantsTerm (turn i) = true) →
      (∀ i, i < 4 → (s.act (turn i)).tier ≤ 3) →
      ∃ t i, exec (.grant cl) s = .next t ∧ i < 4 ∧ s.wantsTerm (turn i) = true ∧
        (∀ j, j < 4 → s.wantsTerm (turn j) = true →
          (s.act (turn i)).tier < (s.act (turn j)).tier ∨ ((s.act (turn i)).tier = (s.act (turn j)).tier ∧ i ≤ j)) ∧
        Claims.arrayOnly s t (turn i)
          { s.act (turn i) with lease := .held, termCount := 0, unpaid := false, endTerm := false } cl
          { x with mxa := { x.mxa with holder := some (turn i), last := (turn i) % 4, idle := 0 } }) ∧
    (∀ k, x.mxa.holder = some k → s.islandOn (6 * (k / 4) + k % 4) = true → 64 ≤ x.mxa.idle → s.otherWants cl k = true →
      (s.act k).lease = .held →
      ∃ t, exec (.termIdle cl) s = .next t ∧
        Claims.arrayOnly s t k { s.act k with lease := .parked, endTerm := false } cl
          (if x.mxa.run = none then Claims.withoutTerm x else x))

/-- R184, R188 to R190, R197: the array starts the word at the head of the holder's order once the pace admits it and its sluices
can be paid, and an mlatch reads its bytes from the B-store then, by columns or transposed; one that reads the B-store waits for the
islands in which that lies (R351, R355); a word that cannot be paid ends the term. -/
def Sys2Proof.Claims.ArrayStartsTheHeadWord : Prop :=
  ∀ (s : State) (cl k : Nat) (e : MEntry) (rest : List MEntry),
    let x := s.cluster cl
    let c := s.act k
    s.mxaOn cl = true → x.mxa.run = none → x.mxa.holder = some k → s.ordersOn k = true → c.lease = .held →
    c.order = e :: rest → isCompute e = true → gapPassed (s.islandTime (6 * cl + 4)) x.mxa.lastStart x.paceM.gap = true →
    let cost : List Charge := [{ cls := clsMxa, bytes := 128 * (occupies e.op).getD 0 }]
    let reads : Prop := (∃ ty bbuf brow btr, e.op = .mlatch ty bbuf brow btr) ∨ ∃ m, e.op = .mma m ∧ m.bld = true
    (reads → s.bstoreOn cl = false → exec (.mxaStart cl) s = .next s) ∧
    ((reads → s.bstoreOn cl = true) → s.canPay c.owner (.word k c.oid) cost = true →
      ∃ t r, exec (.mxaStart cl) s = .next t ∧ (t.cluster cl).mxa.run = some r ∧ r.entry = e ∧ r.core = k ∧ r.oid = c.oid ∧
        r.start = x.mxa.cyc ∧ r.rows = 0 ∧ (t.cluster cl).mxa.lastStart = some (s.islandTime (6 * cl + 4)) ∧
        t.act k = { c with order := rest, termCount := c.termCount + 1 } ∧ (t.cluster cl).acs = x.acs ∧
        (∀ ty bbuf brow btr, e.op = .mlatch ty bbuf brow btr → ∀ j b, j < 128 → b < 128 →
          Map.get 0 r.load (j * 128 + b) =
            (if btr then x.bByte (b / (tyw ty / 2)) (brow * 128 + j * (tyw ty / 2) + b % (tyw ty / 2))
             else x.bByte j (brow * 128 + b))) ∧
        (∀ a, t.readByte a = s.readByte a)) ∧
    ((reads → s.bstoreOn cl = true) → s.canPay c.owner (.word k c.oid) cost = false →
      ∃ t, exec (.mxaStart cl) s = .next t ∧ t.act k = { c with lease := .requested, unpaid := true, endTerm := false } ∧
        t.cluster cl = Claims.withoutTerm x ∧ (∀ a, t.readByte a = s.readByte a))

/-- R193: row i of A of a tile step whose A is in the scratchpad is read in the i-th MXA cycle after the start, in the cycle that
passes when no row of the tile is due and the word is not done; the array waits for the island of the core (R355). -/
def Sys2Proof.Claims.TheArrayReadsItsRows : Prop :=
  ∀ (s : State) (cl : Nat) (r : Run) (m : Mma) (a : SpRows), s.mxaOn cl = true →
    let x := s.cluster cl
    let n := r.aRows.length
    let row := (a.row.toNat + n * a.step.toNat) % 256
    let byteAt (b : Nat) : Byte := Map.get 0 (s.core r.core).sp (a.bank.toNat * 32768 + (128 * row + b) % 32768)
    x.mxa.run = some r → r.entry.op = .mma m → m.a = .sp a → n < m.mm1.toNat + 1 → x.mxa.cyc = r.start + n →
    rowDue x.mxa = none → wordDone x.mxa = none →
    let on := s.islandOn (6 * (r.core / 4) + r.core % 4)
    (on = false → mxaTurn cl s = s) ∧
    (on = true → ∃ v bad margin, ((mxaTurn cl s).cluster cl).mxa.run = some { r with aRows := r.aRows ++ [(v, bad, margin)] } ∧
      v = leOf ((List.range 128).map byteAt) ∧ bad = (s.core r.core).spPoison.contains (a.bank.toNat * 256 + row) ∧
      ((mxaTurn cl s).cluster cl).mxa.cyc = x.mxa.cyc + 1)

/-- R96 to R98, R189, R193, R195, R196, R199: the row of a tile step that is due is written: in each column whose bytes no poison
marks the element that `isTileElement` says, and 7FC00000H in one that poison reaches; the accumulator store changes nowhere else.
In the step that writes the last row the token enters kme and NSTAT takes the word's bits, and the array is free at once; a word whose
latch load takes longer than its M + 20 cycles, a transposed one with M below 12, completes with the load instead. The last row
crosses into its core, whose island takes cycles (R355). No vaccrd has seen the row early here. The model's choices in it: notes/assumptions/6.md,
notes/assumptions/20.md, notes/assumptions/27.md. -/
def Sys2Proof.Claims.TileStepsAccumulate : Prop :=
  ∀ (s : State) (cl : Nat) (r : Run) (m : Mma) (v : Nat) (bad margin : Bool), s.mxaOn cl = true →
    let x := s.cluster cl
    x.mxa.run = some r → r.entry.op = .mma m → r.rows < m.mm1.toNat + 1 → r.start + 21 + r.rows ≤ x.mxa.cyc → r.early = [] →
    m.tfill.toNat < 2 ^ (4 * tyw m.ty) →
    (match m.a with
      | .w _ => v = (r.entry.rows.getD r.rows 0).toNat ∧ bad = false ∧ margin = false
      | .sp _ => r.aRows[r.rows]? = some (v, bad, margin)) →
    (r.rows + 1 = m.mm1.toNat + 1 → s.islandOn (6 * (r.core / 4) + r.core % 4) = true) →
    let i := r.rows
    let longer : Prop := m.bld = true ∧ m.btr = true ∧ m.mm1.toNat + 1 < 12
    let gg := 1024 / (4 * tyw m.ty) / (16 * 2 ^ m.gsz.toNat)
    let reached (j : Nat) : Prop := bad = true ∨ (m.gen = 0 ∧ ∃ p ∈ r.latch.poison, p / 128 = j) ∨
      (tyQa m.ty = true ∧ ∃ g, g < gg ∧ ((r.sa.getD (i * gg + g) 0).testBit 32 = true ∨ (r.sb.getD (g * 128 + j) 0).testBit 32 = true))
    let place (j : Nat) : Nat := m.act.toNat * 16384 + i * 128 + j
    ∃ t, exec (.tileRowWrite cl) s = .next t ∧ (∀ a, t.readByte a = s.readByte a) ∧
      (∀ j, j < 128 → ¬ reached j → ∃ e, Claims.isTileElement r m v i j (x.elem (place j)) e ∧
        (t.cluster cl).elem (place j) = e % 2 ^ 32) ∧
      (∀ j, j < 128 → reached j → (t.cluster cl).elem (place j) = 0x7FC00000) ∧
      (∀ p, (p < place 0 ∨ place 127 < p) → (t.cluster cl).elem p = x.elem p) ∧
      (i + 1 < m.mm1.toNat + 1 → (∀ k, t.core k = s.core k) ∧
        ∃ r', (t.cluster cl).mxa.run = some r' ∧ r'.rows = i + 1 ∧ r'.entry = r.entry ∧ r'.start = r.start ∧ r'.given = false) ∧
      (i + 1 = m.mm1.toNat + 1 → longer → (∀ k, t.core k = s.core k) ∧
        ∃ r', (t.cluster cl).mxa.run = some r' ∧ r'.rows = i + 1 ∧ r'.entry = r.entry ∧ r'.start = r.start ∧ r'.given = false) ∧
      (∀ k b, i + 1 = m.mm1.toNat + 1 → ¬ longer → s.findOid r.oid = some (k, b) →
        (t.ctx k b).mxOut = (s.ctx k b).mxOut - 1 ∧
        (∃ mark, (t.ctx k b).kme = (s.ctx k b).kme ++ [mark] ∧
          (mark ≠ none ↔ r.marked = true ∨ ∃ j, j < 128 ∧ reached j)) ∧
        ((∀ n, occupies r.entry.op = some n → r.start + n ≤ x.mxa.cyc) → (t.cluster cl).mxa.run = none) ∧
        ((∀ n, occupies r.entry.op = some n → x.mxa.cyc < r.start + n) →
          ∃ r', (t.cluster cl).mxa.run = some r' ∧ r'.given = true))

/-- R189, R197, R199 to R202: a word that has had its time completes in one step: the array is free, and its token enters kme,
marked where a poisoned byte reached it, unless its last row gave it; mzero has cleared its tile, mtcopy copied one tile to
another, mtadd added one to another, mtscale multiplied its tile, mlatch filled its latch buffer, and mtout written its rows,
converted, to the scratchpad. The island of its core takes cycles (R355). The model's choices in it: notes/assumptions/6.md,
notes/assumptions/20.md. -/
def Obligations.MatrixWordsComplete : Prop :=
  ∀ (s : State) (cl k n : Nat) (b : Bool) (r : Run), s.mxaOn cl = true →
    let x := s.cluster cl
    x.mxa.run = some r → s.islandOn (6 * (r.core / 4) + r.core % 4) = true → occupies r.entry.op = some n → r.start + n ≤ x.mxa.cyc →
    (∀ m, r.entry.op = .mma m → m.mm1.toNat + 1 ≤ r.rows) → s.findOid r.oid = some (k, b) →
    (∀ j a, (s.ctx j a).oid = r.oid → (s.ctx j a).st ≠ .empty → j = k ∧ a = b) →
    let act := actOf r.entry.op + if r.margin then 2 ^ 64 else 0
    ∃ t, exec (.matrixComplete cl) s = .next t ∧ (t.cluster cl).mxa.run = none ∧
      (r.given = false → (t.ctx k b).kme = (s.ctx k b).kme ++ [if r.marked then some act else none] ∧
        (t.ctx k b).mxOut = (s.ctx k b).mxOut - 1) ∧
      (r.given = true → (t.ctx k b).kme = (s.ctx k b).kme ∧ (t.ctx k b).mxOut = (s.ctx k b).mxOut) ∧
      (∀ a, t.readByte a = s.readByte a) ∧
      (∀ m, r.entry.op = .mma m → m.bld = true → (if m.bbuf then (t.ctx k b).lb0 else (t.ctx k b).lb1).bytes = r.load) ∧
      (∀ ty bbuf brow btr, r.entry.op = .mlatch ty bbuf brow btr →
        (if bbuf then (t.ctx k b).lb1 else (t.ctx k b).lb0).bytes = r.load) ∧
      (r.early = [] →
        (∀ d, r.entry.op = .mzero d → ∀ i, i < 16384 → (t.cluster cl).elem (d * 16384 + i) = 0) ∧
        (∀ d f, r.entry.op = .mtcopy d f → ∀ i, i < 16384 →
          (t.cluster cl).elem (d * 16384 + i) = x.elem (f * 16384 + i)) ∧
        (∀ d f, r.entry.op = .mtadd .s32 d f → ∀ i, i < 16384 →
          (t.cluster cl).elem (d * 16384 + i) =
            (Claims.saturated .s32 ((BitVec.ofNat 32 (x.elem (d * 16384 + i))).toInt
              + (BitVec.ofNat 32 (x.elem (f * 16384 + i))).toInt)).1) ∧
        (∀ d f, r.entry.op = .mtadd .f d f → ∀ i, i < 16384 →
          ∃ e, (t.cluster cl).elem (d * 16384 + i) = e % 2 ^ 32 ∧
            Claims.roundedSum [decodeF .f (x.elem (d * 16384 + i)), decodeF .f (x.elem (f * 16384 + i))] e) ∧
        (∀ d f, r.entry.op = .mtscale d f → ∀ i, i < 16384 →
          (t.cluster cl).elem (d * 16384 + i) =
            arith .f .rne (exMul (decodeF .f (x.elem (d * 16384 + i))) (decodeF .h f.toNat)).1 % 2 ^ 32)) ∧
      (∀ ty d rows sp, r.entry.op = .mtout ty d rows sp →
        let w := 16 * (4 * tyw ty)
        let off (i c : Nat) : Nat := (128 * ((sp.row.toNat + i * sp.step.toNat) % 256) + c) % 32768
        ∀ i, i < rows → (∀ i' c c', i < i' → i' < rows → c < w → c' < w → off i' c' ≠ off i c) →
          ∀ j, j < 128 →
            leOf ((List.range w).map (fun c => Map.get 0 (t.core r.core).sp (sp.bank.toNat * 32768 + off i c)))
                / 2 ^ (4 * tyw ty * j) % 2 ^ (4 * tyw ty) =
              (convert ty r.entry.mode (if tyFloat ty then decodeF .f (x.elem (d * 16384 + i * 128 + j))
                else exInt (BitVec.ofNat 32 (x.elem (d * 16384 + i * 128 + j))).toInt)).1 % 2 ^ (4 * tyw ty))

namespace Sys2Proof.Claims

/-- The number that a field of a record holds, at a byte offset with a size (R3). -/
def fieldAt (rec : List Byte) (off size : Nat) : Nat := leOf ((rec.drop off).take size)

/-- The record of a trap of a context as R234 lays it out. -/
def isTrapRecord (s : State) (k : Nat) (bank : Bool) (c : Ctx) (t : TrapReq) (shd : Nat) (rec : List Byte) : Prop :=
  rec.length = 128 ∧ fieldAt rec 0 1 = causeCode t.cause ∧
  fieldAt rec 1 1 = streamCode t.st + (if bank then 4 else 0) + (if t.async then 8 else 0) ∧
  fieldAt rec 2 1 = min shd 255 ∧ fieldAt rec 3 1 = t.detail % 256 ∧ fieldAt rec 4 2 = c.lcore.toNat ∧
  fieldAt rec 6 2 = k % 65536 ∧ fieldAt rec 8 8 = c.seqC.pc.toNat ∧ fieldAt rec 16 8 = c.seqL.pc.toNat ∧
  fieldAt rec 24 8 = c.seqE.pc.toNat ∧ fieldAt rec 32 8 = c.seqS.pc.toNat ∧ fieldAt rec 40 8 = t.faddr % 2 ^ 64 ∧
  fieldAt rec 48 2 = t.tag % 65536 ∧ fieldAt rec 50 1 = t.opc % 256 ∧ fieldAt rec 51 1 = t.sub % 256 ∧
  fieldAt rec 52 4 = t.index % 2 ^ 32 ∧ fieldAt rec 56 8 = t.done % 2 ^ 64 ∧ fieldAt rec 64 8 = s.tide % 2 ^ 64 ∧
  fieldAt rec 72 8 = c.ecyc.toNat ∧
  (let held (i : Nat) : Nat :=
     if i < 8 then (Map.get [] c.q i).length else ((Map.get [] c.y (i - 8)).filter (fun v => v.ready)).length
   (∀ i, i < 12 → held i < 16) → ∀ i, i < 12 → fieldAt rec 80 6 / 16 ^ i % 16 = held i) ∧
  fieldAt rec 86 1 = c.kme.length % 256 ∧ fieldAt rec 87 1 = 0 ∧
  fieldAt rec 88 8 = (if t.async then 0 else t.wpc.toNat) ∧ fieldAt rec 96 32 = 0

end Sys2Proof.Claims

/-- R231 to R233: a trap that waits is taken at a word boundary of its sequencer in a RUNNING context, which drains; within a
word of several cycles it still waits; nothing else changes. The model's choices in it: notes/assumptions/40.md. -/
def Sys2Proof.Claims.WaitingTrapsDrainTheContext : Prop :=
  ∀ (s : State) (k : Nat) (t : TrapReq) (rest : List TrapReq), s.coreTakes k = true → (s.act k).st = .running →
    (s.act k).traps = t :: rest →
    let q := (s.act k).seq t.st
    ((q.prog = 0 ∨ q.held ≠ .none) → exec (.trap k) s = .next (s.updAct k (fun c =>
      { c with st := .draining, drain := some (.trap t), eventAt := (s.core k).cyc, traps := rest, boundary := false }))) ∧
    (q.prog ≠ 0 → q.held = .none → exec (.trap k) s = .next s)

/-- R231, R232, R234, R270: at the shadow-clear point the record of the trap is written to the fault queue of the region,
whose tail advances, and the context stops; with the fault queue full, or its page held by a move or an island, it stays DRAINING
until the record is written. A SWAP
or a debug stop writes no record. The model's choices in it: notes/assumptions/40.md. -/
def Sys2Proof.Claims.TrapsWriteTheirRecordAndStop : Prop :=
  ∀ (s : State) (k : Nat),
    let b := s.bank k
    let c := s.ctx k b
    let rk := c.group.region
    let r := s.region rk
    let stopsWith (i : Instr) (t : TrapReq) (shd : Nat) : Prop := ∃ u rec, exec i s = .next u ∧
      Claims.isTrapRecord s k b c t shd rec ∧ (∀ a, u.readByte a = (s.writeRecord rk rec).readByte a) ∧
      (u.ctx k b).st = .stopped ∧ (u.ctx k b).taken = some t ∧ (u.ctx k b).drain = none ∧ (u.ctx k b).notified = false ∧
      (∀ st, (u.ctx k b).seq st = c.seq st) ∧ (u.region rk).fqtail = (r.fqtail + 1) % 2 ^ 32
    (s.coreTakes k = true → s.clearReady k = true →
      (∀ t, c.drain = some (.trap t) → s.recordRoom rk = true → stopsWith (.clear k) t ((s.core k).cyc - c.eventAt)) ∧
      (∀ t, c.drain = some (.trap t) → s.recordRoom rk = false → ∃ u, exec (.clear k) s = .next u ∧
        (u.ctx k b).st = .draining ∧ (u.ctx k b).taken = some t ∧ ∀ a, u.readByte a = s.readByte a) ∧
      (c.drain = some .debugStop → ∃ u, exec (.clear k) s = .next u ∧ (u.ctx k b).st = .stopped ∧
        (u.ctx k b).taken = none ∧ (u.ctx k b).notified = true ∧ ∀ a, u.readByte a = s.readByte a) ∧
      (c.drain = some .swap → ∃ u, exec (.clear k) s = .next u ∧
        (u.core k).swapEnd = some (s.islandTime (6 * (k / 4) + k % 4) + 96) ∧
        (u.ctx k b).st = .swapping ∧ ∀ a, u.readByte a = s.readByte a)) ∧
    (∀ t, c.st = .draining → c.taken = some t → s.recordRoom rk = true → (s.core k).a.redirects = [] → (s.core k).b.redirects = [] →
      stopsWith (.faultRecordWrite k) t c.shd)

/-- R236, R268, R269: the policy of the region acts on a STOPPED context: 0 leaves it to the host, 1 resumes it exactly where
it stopped, 2 restarts the group, 3 kills the regions of its fault domain; RESUME resumes a STOPPED context of its terp and
sets its error bit for any other. The charge that a quota trap asked for stands here. The model's choices in it:
notes/assumptions/35.md. -/
def Obligations.StoppedContextsFollowTheirPolicy : Prop :=
  ∀ (s : State) (k : Nat) (b : Bool) (t : TrapReq),
    let c := s.ctx k b
    let bank := if b then 1 else 0
    let policy := (s.region c.group.region).policy
    let resumed (u : State) : Prop :=
      u.ctx k b = { c with st := if s.bank k = b then .running else .parked, taken := none, notified := false } ∧
      (∀ j, j ≠ k → u.core j = s.core j) ∧ (u.ctx k (!b)) = s.ctx k (!b) ∧ ∀ a, u.readByte a = s.readByte a
    (c.st = .stopped → c.taken = some t →
      (c.notified = false →
        (policy ≠ 1 → policy ≠ 2 → policy ≠ 3 →
          exec (.faultPolicy k bank) s = .next (s.updCtx k b (fun c => { c with notified := true }))) ∧
        (policy = 1 → chargeStands s c t = true → ∃ u, exec (.faultPolicy k bank) s = .next u ∧ resumed u) ∧
        (policy = 1 → chargeStands s c t = false →
          exec (.faultPolicy k bank) s = .next (s.updCtx k b (fun c => { c with notified := true }))) ∧
        (policy = 2 → exec (.faultPolicy k bank) s = .next (s.restartGroup c.oid).settleAborts) ∧
        (policy = 3 → exec (.faultPolicy k bank) s = .next (s.killDomain c.group.region))) ∧
      (∀ v : BitVec 32, k / 32 < 4 → v.toNat % 128 = k → v.getLsbD 8 = b → chargeStands s c t = true →
        ∃ u, exec (.resume (k / 32) v) s = .next u ∧ resumed u ∧ (u.terp (k / 32)).resumeErr = false)) ∧
    (∀ (terp : Nat) (v : BitVec 32), terp < 4 → v.toNat % 128 = k → v.getLsbD 8 = b → (k / 32 ≠ terp ∨ c.st ≠ .stopped) →
      exec (.resume terp v) s = .next (s.updTerp terp (fun x => { x with resumeErr := true })))

/-- R231, R237: a SWAP drains a RUNNING context and takes a STOPPED one, or none, at once; for 96 ticks neither bank is
active, counted by the ticks of the core's island (R6, R355); then the banks exchange their roles and the context that was
PARKED runs. The model's choices in it: notes/assumptions/41.md. -/
def Sys2Proof.Claims.SwapsExchangeTheBanks : Prop :=
  ∀ (s : State) (k : Nat),
    let b := s.bank k
    (s.coreTakes k = true → s.swapCalled k = true →
      ((s.act k).st = .running → exec (.swap k) s = .next (s.updAct k (fun c =>
        { c with st := .draining, drain := some .swap, eventAt := (s.core k).cyc, boundary := false }))) ∧
      (((s.act k).st = .stopped ∨ (s.act k).st = .empty) → ∃ t, exec (.swap k) s = .next t ∧
        (t.core k).swapEnd = some (s.islandTime (6 * (k / 4) + k % 4) + 96) ∧ (t.ctx k (!b)).st = .swapping ∧
        (∀ j, j ≠ k → t.core j = s.core j) ∧ ∀ a, t.readByte a = s.readByte a)) ∧
    (∀ e, (s.core k).swapEnd = some e → e ≤ s.islandTime (6 * (k / 4) + k % 4) → ∃ t, exec (.swapDone k) s = .next t ∧ t.bank k = !b ∧
      (t.core k).swapEnd = none ∧
      (∀ x, (s.ctx k x).st = .swapping →
        (t.ctx k x).st = if (s.ctx k x).was = .stopped then .stopped else if x = !b then .running else .parked) ∧
      (∀ x, (s.ctx k x).st ≠ .swapping → t.ctx k x = s.ctx k x) ∧
      (∀ x st, (t.ctx k x).seq st = (s.ctx k x).seq st) ∧ ∀ j, j ≠ k → t.core j = s.core j) ∧
    (∀ e, (s.core k).swapEnd = some e → s.islandTime (6 * (k / 4) + k % 4) < e → exec (.swapDone k) s = .next s)

/-- The window of 1 ms, numbered from package reset, in which an island counts an error found now: at the tick that ends one, while
UVEN is set and the island has not judged it, still that one (R356). -/
def Sys2Proof.Claims.errorWindow (s : State) (n : Nat) : Nat :=
  let i := s.island n
  s.tick / 6600000 - if i.uven = true ∧ s.tick % 6600000 = 0 ∧ i.windowAt ≠ s.tick then 1 else 0

/-- R239, R241, R355: a correctable error freezes its unit for 24 more of its own cycles and counts among the errors of its
island in this window of 1 ms, and the freeze ends when they have passed; a hop ends with the new divisor, and a droop held
during it begins after it. The model's choices in it: notes/assumptions/2.md. -/
def Sys2Proof.Claims.FreezesAndHopsEnd : Prop :=
  ∀ (s : State) (k cl i : Nat),
    let counted (n : Nat) (u : State) : Prop := ∃ x : Island, u = s.updIsland n (fun _ => x) ∧
      (let w := Claims.errorWindow s n
       ∃ m, x = { s.island n with ceWindow := w, ceCount := m } ∧
        (w = (s.island n).ceWindow → m = (s.island n).ceCount + 1) ∧ (w ≠ (s.island n).ceWindow → m = 1))
    (k < 128 → ∃ u, counted (6 * (k / 4) + k % 4) u ∧ exec (.ceFreeze (.core k)) s = .next (u.updCore k (fun c =>
      { c with frozen := true, freezeLeft := c.freezeLeft + 24 }))) ∧
    (cl < 32 → (∃ u, counted (6 * cl + 4) u ∧ exec (.ceFreeze (.mxa cl)) s = .next (u.updCluster cl (fun c =>
        { c with mxa := { c.mxa with frozen := true, freezeLeft := c.mxa.freezeLeft + 24 } }))) ∧
      ∃ u, counted (6 * cl + 5) u ∧ exec (.ceFreeze (.cpe cl)) s = .next (u.updCluster cl (fun c =>
        { c with cpe := { c.cpe with frozen := true, freezeLeft := c.cpe.freezeLeft + 24 } }))) ∧
    ((s.core k).freezeLeft = 0 → exec (.freezeEnd (.core k)) s = .next (s.updCore k (fun c => { c with frozen := false }))) ∧
    ((s.core k).freezeLeft ≠ 0 → exec (.freezeEnd (.core k)) s = .next s) ∧
    ((s.cluster cl).mxa.freezeLeft = 0 →
      exec (.freezeEnd (.mxa cl)) s = .next (s.updCluster cl (fun c => { c with mxa := { c.mxa with frozen := false } }))) ∧
    ((s.cluster cl).cpe.freezeLeft = 0 →
      exec (.freezeEnd (.cpe cl)) s = .next (s.updCluster cl (fun c => { c with cpe := { c.cpe with frozen := false } }))) ∧
    (∀ d e, (s.island i).hop = some (d, e) → exec (.clockHopDone i) s = .next (s.updIsland i (fun x =>
      { x with div := d, hop := none, droop := x.droop || x.droopHeld, droopHeld := false }))) ∧
    ((s.island i).hop = none → exec (.clockHopDone i) s = .next s)

namespace Sys2Proof.Claims

/-- A field of a command's header, and word i as a number (R206, R207). -/
def header (c : Cmd) (hi lo : Nat) : Nat := (c.words.getD 0 0).toNat / 2 ^ lo % 2 ^ (hi + 1 - lo)

/-- A started command of an engine whose next step nothing holds: it has not ended, waits for nothing, its group stands on a
core, no page moves, no island stands, and its sluices are not in force. -/
def stepping (s : State) (cl id : Nat) (c : Cmd) : Prop :=
  Map.find s.cmds id = some c ∧ c.id = id ∧ s.cpeOn cl = true ∧ id ∈ (s.cluster cl).cpe.run ∧ c.killed = false ∧
  c.susp = false ∧ c.ending = .running ∧ c.wait = none ∧ s.inForce c.owner = false ∧ s.moves = [] ∧
  (∀ v ∈ s.saved, v.ctx.oid ≠ c.oid) ∧ ∀ e ∈ s.islands, s.islandOn e.1 = true

/-- The state on which a step acts that reads some ranges: their walks are made (R310). -/
def walks (s : State) (c : Cmd) (reads : List (Nat × Nat)) : State := walkReads c reads s.bump

/-- The engine takes a command next: it may start, and so does no other of a lower tier or before it in turn (R208). -/
def takesNext (s : State) (cl : Nat) (c : Cmd) : Prop :=
  s.cpeOn cl = true ∧ (s.cluster cl).cpe.run.length < 16 ∧
  gapPassed (s.islandTime (6 * cl + 5)) (s.cluster cl).cpe.lastDeq (s.cluster cl).paceC.gap = true ∧
  pickTier (candidates s cl) = some c ∧ Map.find s.cmds c.id = some c

/-- The state in which the engine has taken a command, before it starts. -/
def taken (s : State) (cl : Nat) (c : Cmd) : State :=
  (s.bump.updCluster cl (fun x => { x with cpe := { x.cpe with
      run := x.cpe.run ++ [c.id], last := c.core % 4, lastDeq := some (s.islandTime (6 * cl + 5)),
      fifo := Map.upd [] x.cpe.fifo (c.core % 4) (fun l => (stripMarkers l).drop 1) } })).updCmd c.id
    (fun x => { x with started := true })

/-- A command that has been taken and moves bytes unchanged, and the state in which it acts as it starts. -/
def begun (c : Cmd) : Cmd := { c with started := true, fmt := (15, 15) }
def starting (s : State) (cl : Nat) (c : Cmd) : State :=
  (taken s cl c).updCmd c.id (fun x => { x with fmt := (15, 15), bytes := (begun c).total })

/-- An element as a copy between two bank formats moves it: `convert` in mode RNE, subnormals of an hz bank as zeros of their
sign (R83, R88). -/
def bankElement (fs fd : Nat) (sty dty : Ty) (v : Nat) : Nat :=
  let v := if fs = 26 ∧ v / 1024 % 32 = 0 then v / 32768 * 32768 else v
  let r := (convert dty .rne (valueOf sty v)).1
  if fd = 26 ∧ r / 1024 % 32 = 0 then r / 32768 * 32768 else r

/-- The type as which a copy moves the elements of a format: the grouped types move as plain codes (R88). -/
def bankType (f : Nat) (ty : Ty) : Prop :=
  ∃ t, tyOf (f % 16) = .ok t ∧ ty = (match t with | .qa4 => .z4 | .qa8 => .z8 | t => t)

/-- The steps of the fifteen commands, with their OPC (R207). -/
def commandSteps : List ((Nat → Nat → Instr) × Nat) :=
  [(.copy1, 1), (.copy2, 2), (.copy3, 3), (.gather, 4), (.scatter, 5), (.accum, 6), (.fill, 7), (.coll, 8), (.culvert, 9),
   (.signal, 10), (.t2pf, 11), (.migrate, 12), (.inval, 13), (.launch, 14), (.owner, 15)]

/-- A step of a command leaves a state, and a group that has been restored waits for it no longer (R288). -/
def leaves (s : State) (i : Instr) (c : Cmd) (u : State) : Prop := exec i s = .next (u.applied c.oid c.id)

/-- A step that has performed: the command's fields change, what a lost port answered is done with (R324), and the command has
stepped for good after its last step; a region left without a placed position while it is being aborted completes (R277). -/
def performed (s : State) (i : Instr) (u : State) (c : Cmd) (last : Bool) (f : Cmd → Cmd) : Prop :=
  leaves s i c (u.updCmd c.id (fun x =>
    let y := { f x with lost := [] }
    if last then { y with ending := .stepped } else y)).settleAborts

/-- Bytes lo to lo + n of a command's range end at a 128-byte line of the destination, or at the end (R211, R213). -/
def stepBytes (d rest : Nat) : Nat := min (128 - d % 128) rest

end Sys2Proof.Claims

/-- R88, R206, R208, R209, R226: the engine takes the next command that may start, the lowest tier first; a copy between two
banks samples their formats then, and one that would convert a part of an element ends with SUB 7; a malformed command, or
one whose completion word does not translate, ends at once with ENGINE_FAULT, and its pusher takes the trap. The model's
choices in it: notes/assumptions/17.md, notes/assumptions/44.md. -/
def Sys2Proof.Claims.EnginesTakeTheNextCommand : Prop :=
  ∀ (s : State) (cl : Nat) (c : Cmd),
    let e := (s.cluster cl).cpe
    let i : Instr := .cpeDequeue cl
    Claims.takesNext s cl c →
    (∀ d ∈ candidates s cl, c.tier ≤ d.tier) ∧
    (cmdOk c = true → c.cw = false →
      (c.opc ∉ [1, 2, 3, 13, 14, 15] → (c.opc = 10 → Claims.header c 33 33 = 0) →
        ∃ t, exec i s = .next t ∧
          Map.find t.cmds c.id = some { c with started := true, fmt := (15, 15), bytes := c.total } ∧
          (t.cluster cl).cpe.run = e.run ++ [c.id] ∧ (t.cluster cl).cpe.last = c.core % 4 ∧
          (t.cluster cl).cpe.lastDeq = some (s.islandTime (6 * cl + 5)) ∧
          (∀ q, q ≠ c.core % 4 → Map.get [] (t.cluster cl).cpe.fifo q = Map.get [] e.fifo q) ∧
          Map.get [] (t.cluster cl).cpe.fifo (c.core % 4) = (stripMarkers (Map.get [] e.fifo (c.core % 4))).drop 1 ∧
          (∀ k, t.core k = s.core k) ∧ ∀ a, t.readByte a = s.readByte a) ∧
      (c.opc ∈ [1, 2, 3] → (inWindow (c.w 1) && inWindow (c.w 2)) = false →
        exec i s = .next (Claims.starting s cl c)) ∧
      (c.opc ∈ [1, 2, 3] → inWindow (c.w 1) = true → inWindow (c.w 2) = true → ∀ k b, s.findOid c.oid = some (k, b) →
        let bank (va : Nat) : Nat := (Map.get 15 (s.core k).bfmt (va % 2 ^ 20 / 32768)).toNat
        let f := (bank (c.w 1), bank (c.w 2))
        let bytes := if c.opc = 1 then c.w 3 else c.w 3 % 2 ^ 24
        let x : Cmd := { c with started := true, fmt := f }
        let raw := f.1 % 16 = 15 ∨ f.2 % 16 = 15 ∨ f.1 = f.2
        ((raw ∨ ∀ ty, Claims.bankType f.1 ty → bytes * 8 % (4 * tyw ty) = 0) → (raw ∨ ∃ ty, Claims.bankType f.1 ty) →
          exec i s = .next ((Claims.taken s cl c).updCmd c.id (fun y => { y with fmt := f, bytes := x.total }))) ∧
        (∀ ty, ¬ raw → Claims.bankType f.1 ty → bytes * 8 % (4 * tyw ty) ≠ 0 →
          exec i s = .next ((Claims.taken s cl c).faultCmd c.id 7 0)))) ∧
    (c.killed = false → c.core / 4 = cl → ∀ k b, s.findOid c.oid = some (k, b) →
      let ends (sub faddr : Nat) : Prop := ∃ t, exec i s = .next t ∧ Map.find t.cmds c.id = none ∧
        c.id ∉ (t.cluster cl).cpe.run ∧ (t.ctx k b).traps = (s.ctx k b).traps ++ [cmdTrap c .engineFault sub faddr 0]
      (cmdOk c = false → c.cw = false → ends 1 0) ∧
      (cmdOk c = true → c.cw = true → ∀ f, s.cwAddr c = .error f →
        ends (if f = .pageProt then 3 else if f = .pageType then 4 else if f = .poison then 5 else 2) (c.w 7)))

/-- R209, R210, R312, R338: the step of a started command pays every bucket of its owner's path, or waits at them, or is held
by a move of a page that it reaches or by an island that stands (R351, R355); a killed command ends at its next step; a step of a kind is the step of a command of that
kind, and does nothing to another; inval, launch and owner act as their engine takes them. The model's choices in it:
notes/assumptions/45.md, notes/assumptions/46.md. -/
def Sys2Proof.Claims.StepsPayOrWait : Prop :=
  ∀ (s : State) (cl id : Nat) (c : Cmd), Map.find s.cmds id = some c →
    (∀ e ∈ Claims.commandSteps, e.2 ≤ 12 →
      exec (e.1 cl id) s = if c.opc = e.2 then exec (.cpeStep cl id) s else .next s) ∧
    (∀ e ∈ Claims.commandSteps, 13 ≤ e.2 →
      (∀ d, pickTier (candidates s cl) = some d → d.id = id → d.opc = e.2 → exec (e.1 cl id) s = exec (.cpeDequeue cl) s) ∧
      ((∀ d, pickTier (candidates s cl) = some d → d.id ≠ id ∨ d.opc ≠ e.2) → exec (e.1 cl id) s = .next s)) ∧
    (s.cpeOn cl = true → id ∈ (s.cluster cl).cpe.run →
      (c.killed = true → exec (.cpeStep cl id) s = .next (s.removeCmd id)) ∧
      (c.killed = false → c.susp = false → c.ending = .running → c.wait = none → (∀ v ∈ s.saved, v.ctx.oid ≠ c.oid) →
        let io := stepPlan s.bump c
        let cost := if io.free then [] else stepCharges s.bump c io.reads io.dests io.flit
        let held := coreStops s.bump c io || (io.reads ++ io.dests).any (rangeMoving s.bump c)
        (held = true → exec (.cpeStep cl id) s = .next s.bump) ∧
        (held = false → s.bump.canPay c.owner (.cmd id) cost = true →
          exec (.cpeStep cl id) s = .next ((s.bump.settleStep id
            (io.act (walkReads c io.reads (s.bump.pay c.owner (.cmd id) cost)))).applied c.oid id)) ∧
        (held = false → s.bump.canPay c.owner (.cmd id) cost = false →
          exec (.cpeStep cl id) s = .next (s.bump.waitAtSluice c.owner (.cmd id) cost))))

/-- R83, R84, R88, R211 to R213: a copy steps one destination line at a time, row by row and plane by plane; between two banks
whose formats differ it writes every element of its row converted from the source element of that number, packed from the row's
first bit, and zero bits after the last; a copy of raw bytes moves them as they are. A source that faults ends the command with
the SUB of its fault. The model's choices in it: notes/assumptions/47.md, notes/assumptions/48.md. -/
def Obligations.CopiesStepLineByLine : Prop :=
  ∀ (s : State) (cl id : Nat) (c : Cmd), Claims.stepping s cl id c →
    let flat : Bool := decide (c.opc = 1)
    let rb := if flat then c.w 3 else c.w 3 % 2 ^ 24
    let nr := if flat then 1 else c.w 3 / 2 ^ 24 % 2 ^ 20
    let np := if c.opc = 3 then c.w 3 / 2 ^ 44 % 2 ^ 20 else 1
    let row := c.rowBytes rb
    let at_ (base : Nat) (plane line : BitVec 32) : Int :=
      base + ((c.cur / nr : Nat) : Int) * plane.toInt + ((c.cur % nr : Nat) : Int) * line.toInt
    let si := at_ (c.w 1) (.ofNat 32 (c.w 5)) (.ofNat 32 (c.w 4))
    let di := at_ (c.w 2) (.ofNat 32 (c.w 5 / 2 ^ 32)) (.ofNat 32 (c.w 4 / 2 ^ 32))
    let d := di.toNat + c.off
    let n := Claims.stepBytes d (row - c.off)
    let from_ := c.srcRange rb c.off n
    let rowEnd := decide (row ≤ c.off + n)
    let w := Claims.walks s c [(si.toNat + from_.1, from_.2)]
    (∀ i, (i = .copy1 cl id ∧ c.opc = 1) ∨ (i = .copy2 cl id ∧ c.opc = 2) ∨ (i = .copy3 cl id ∧ c.opc = 3) →
      0 ≤ si → si < 2 ^ 56 → 0 ≤ di → di < 2 ^ 56 →
      (∀ b u, cmdRead w c (si.toNat + from_.1) from_.2 = .ok b → cmdWrite c d (c.rowData rb c.off n b).1 w = .done u →
        Claims.performed s i u c (rowEnd && decide (nr * np ≤ c.cur + 1)) (fun x =>
          { x with cur := if rowEnd then x.cur + 1 else x.cur, off := if rowEnd then 0 else x.off + n, done := x.done + n,
                   nstat := x.nstat ||| (c.rowData rb c.off n b).2 })) ∧
      (∀ sub a, cmdRead w c (si.toNat + from_.1) from_.2 = .error (sub, a) →
        Claims.leaves s i c (s.bump.faultCmd id sub a))) ∧
    ((c.fmt.1 % 16 = 15 ∨ c.fmt.2 % 16 = 15 ∨ c.fmt.1 = c.fmt.2) →
      row = rb ∧ from_ = (c.off, n) ∧ ∀ b, c.rowData rb c.off n b = (b, 0)) ∧
    (∀ sty dty, c.fmt.1 % 16 ≠ 15 → c.fmt.2 % 16 ≠ 15 → c.fmt.1 ≠ c.fmt.2 → Claims.bankType c.fmt.1 sty →
      Claims.bankType c.fmt.2 dty →
      let es := 4 * tyw sty
      let ed := 4 * tyw dty
      let count := rb * 8 / es
      row = (count * ed + 7) / 8 ∧ ∀ b, (c.rowData rb c.off n b).1.length = n ∧ ∀ p, 8 * c.off ≤ p → p < 8 * (c.off + n) →
        (leOf (c.rowData rb c.off n b).1).testBit (p - 8 * c.off) =
          (decide (p / ed < count) &&
            (Claims.bankElement c.fmt.1 c.fmt.2 sty dty (leOf b / 2 ^ (es * (p / ed) - 8 * from_.1) % 2 ^ es)).testBit (p % ed)))

/-- R214: fill writes byte (a − DST) mod 8 of its pattern to every destination byte a, one destination line after the other
in ascending order. -/
def Obligations.FillRepeatsItsPattern : Prop :=
  ∀ (s : State) (cl id : Nat) (c : Cmd), Claims.stepping s cl id c → c.opc = 7 →
    let dst := c.w 2
    let len := c.w 3
    let d := dst + c.off
    let n := Claims.stepBytes d (len - c.off)
    let pattern (a : Nat) : Byte := .ofNat 8 (c.w 1 / 2 ^ (8 * ((a - dst) % 8)))
    ∀ u, cmdWrite c d ((List.range n).map (fun i => pattern (d + i))) s.bump = .done u →
      Claims.performed s (.fill cl id) u c (decide (len ≤ c.off + n)) (fun x =>
        { x with off := x.off + n, done := x.done + n })

/-- R146, R215 to R217, R226, R310: gather reads the index of its element before the element's first part, then its data, and writes
it, or delivers it to an operand queue once there is room, unless L pushed it and has left under the abort line; a poisoned element
under the zero option is replaced by zeros and counted; scatter writes to the address that the index gives. An index whose address
lies beyond 2^56 ends the command with SUB 2, and a source that faults with the SUB of its fault. The model's choices in it:
notes/assumptions/46.md. -/
def Sys2Proof.Claims.IndexedCommandsFollowTheirIndex : Prop :=
  ∀ (s : State) (cl id : Nat) (c : Cmd), Claims.stepping s cl id c → (c.opc = 4 ∨ c.opc = 5) →
    let i : Instr := if c.opc = 4 then .gather cl id else .scatter cl id
    let u0 := s.bump
    let iw := if Claims.header c 32 32 = 1 then 8 else 4
    let at_ := c.w 4 + c.cur * iw
    let es := c.w 3 % 2 ^ 17 + 1
    let last (n : Nat) : Bool := decide (es ≤ c.off + n) && decide (c.w 3 / 2 ^ 32 % 2 ^ 32 ≤ c.cur + 1)
    let after (a n : Nat) (x : Cmd) : Cmd :=
      if es ≤ c.off + n then { x with cur := x.cur + 1, off := 0, done := x.done + n, zeroed := false, elemAt := none }
      else { x with off := x.off + n, done := x.done + n, elemAt := some a }
    let moves (a : Nat) (index : List (Nat × Nat)) : Prop :=
      (c.opc = 4 → Claims.header c 33 33 = 0 →
        let dst := c.w 2 + c.cur * es
        let n := elemPart c a dst
        let w := Claims.walks s c (index ++ [(a + c.off, n)])
        (∀ data u, cmdReadAll w c (spanLines (a + c.off, n)) = .ok (data, none) →
          cmdWrite c (dst + c.off) data w = .done u → Claims.performed s i u c (last n) (after a n)) ∧
        (∀ sub p, cmdReadAll w c (spanLines (a + c.off, n)) = .error (sub, p) → Claims.leaves s i c (u0.faultCmd id sub p)) ∧
        (∀ data p, cmdReadAll w c (spanLines (a + c.off, n)) = .ok (data, some p) → Claims.header c 8 8 = 0 →
          Claims.leaves s i c (u0.faultCmd id 5 p)) ∧
        (∀ data p u, cmdReadAll w c (spanLines (a + c.off, n)) = .ok (data, some p) → Claims.header c 8 8 = 1 →
          c.zeroed = false → cmdWrite c (dst + c.off) (List.replicate n 0) w = .done u →
          Claims.performed s i (u.countZero c.polder) c (last n) (fun x =>
            after a n { x with zcnt := x.zcnt + 1, zeroed := true }))) ∧
      (c.opc = 4 → Claims.header c 33 33 = 1 → ∀ k b data, s.findOid c.oid = some (k, b) →
        let w := Claims.walks s c (index ++ [(a + c.off, 64)])
        cmdReadAll w c (spanLines (a + c.off, 64)) = .ok (data, none) →
        let qn := Claims.header c 36 34
        let q := Map.get [] (s.ctx k b).q qn
        (c.st = .l → (s.ctx k b).abortL = true → Claims.performed s i w c (last 64) (after a 64)) ∧
        ((c.st = .l → (s.ctx k b).abortL = false ∧ (s.ctx k b).leftL = []) →
          (8 ≤ q.length → Claims.leaves s i c u0) ∧
          (q.length < 8 → Claims.performed s i (w.updCtx k b (fun x =>
              { x with q := Map.put x.q qn (q ++ [{ data := .ofNat 512 (leOf data), tag := c.tag, cmd := some id, st := c.st }]) }))
            c (last 64) (after a 64)))) ∧
      (c.opc = 5 →
        let src := c.w 1 + c.cur * es
        let n := elemPart c src a
        let w := Claims.walks s c (index ++ [(src + c.off, n)])
        ∀ data u, cmdRead w c (src + c.off) n = .ok data → cmdWrite c (a + c.off) data w = .done u →
          Claims.performed s i u c (last n) (after a n))
    (c.elemAt = none →
      (∀ sub a, cmdRead u0 c at_ iw = .error (sub, a) → Claims.leaves s i c (u0.faultCmd id sub a)) ∧
      ∀ b, cmdRead u0 c at_ iw = .ok b →
        let a := (if c.opc = 4 then c.w 1 else c.w 2) + leOf b * c.w 5
        (2 ^ 56 ≤ a → Claims.leaves s i c (u0.faultCmd id 2 (a % 2 ^ 64))) ∧ (a < 2 ^ 56 → moves a [(at_, iw)])) ∧
    ∀ a, c.elemAt = some a → moves a []

/-- R218, R310: accum applies its operation to an element of its destination in one step, an FP32 add rounded once for AT 2,
and keeps the old value for RET where RET is named, which its next step writes. -/
def Sys2Proof.Claims.AccumReadsAndWritesInOneStep : Prop :=
  ∀ (s : State) (cl id : Nat) (c : Cmd), Claims.stepping s cl id c → c.opc = 6 →
    let e := if Claims.header c 37 36 = 1 then 8 else 4
    let at_ (w : Nat) : Nat := c.w w + c.cur * e
    let lastOne := decide (c.w 3 ≤ c.cur + 1)
    let B := 2 ^ (8 * e)
    let sg (v : Nat) : Int := if 2 * (v % B) < B then ((v % B : Nat) : Int) else ((v % B : Nat) : Int) - B
    let result (op old v cmp : Nat) : Nat :=
      if op = 0 then (old + v) % B
      else if op = 1 then (if sg old < sg v then old else v)
      else if op = 2 then (if sg old < sg v then v else old)
      else if op = 3 then min old v else if op = 4 then max old v
      else if op = 5 then old &&& v else if op = 6 then old ||| v else if op = 7 then old ^^^ v
      else if op = 8 then v else if old = cmp then v else old
    let w := Claims.walks s c ([(at_ 1, e), (at_ 2, e)] ++ (if Claims.header c 35 32 = 9 then [(at_ 5, e)] else []))
    let op (old v cmp : Nat) : Nat × BitVec 32 :=
      if Claims.header c 37 36 = 2 then Claims.rounded .f .rne (exAdd .rne (decodeF .f old) (decodeF .f v))
      else (result (Claims.header c 35 32) old v cmp, 0)
    (c.hold = none →
      ∀ v old cmp u, cmdRead w c (at_ 1) e = .ok v → cmdRead w c (at_ 2) e = .ok old →
        (if Claims.header c 35 32 = 9 then cmdRead w c (at_ 5) e else .ok []) = .ok cmp →
        cmdWrite c (at_ 2) (leBytes e (op (leOf old) (leOf v) (leOf cmp)).1) w = .done u →
        Claims.performed s (.accum cl id) u c (lastOne && decide (c.w 4 = 0)) (fun x =>
          let ns := x.nstat ||| (op (leOf old) (leOf v) (leOf cmp)).2
          if c.w 4 = 0 then { x with cur := x.cur + 1, hold := none, done := x.done + e, nstat := ns }
          else { x with hold := some (leOf old), done := x.done + e, nstat := ns })) ∧
    (∀ v u, c.hold = some v → cmdWrite c (at_ 4) (leBytes e v) s.bump = .done u →
      Claims.performed s (.accum cl id) u c lastOne (fun x => { x with cur := x.cur + 1, hold := none }))

/-- R219 to R221, R302, R310, R328, R330: culvert appends its entries to a culvert of its cluster once there is credit, and
otherwise ends with STATUS 2 under NB or waits at the head of its FIFO again, in a step that moves nothing; signal writes or adds its word, or sends it as
its entry of the link remap table stood at its start, which a switch begun since sends back to its FIFO; coll sends one
destination line, of whole elements where it reduces, and at last the add at RSIG. A port without credit holds the step, and one
that does not serve the polder faults with SUB 10. The model's choices in it: notes/assumptions/48.md. -/
def Obligations.SendingCommandsReachTheirTarget : Prop :=
  ∀ (s : State) (cl id : Nat) (c : Cmd), Claims.stepping s cl id c →
    let u0 := s.bump
    let sends (i : Instr) (w : State) (port : Nat) (f : OutFlit) (last : Bool) (after : Cmd → Cmd) : Prop :=
      ((s.port port).st ≠ .up ∨ (s.port port).pol.toNat ≠ c.polder → Claims.leaves s i c (u0.faultCmd id 10 f.addr)) ∧
      ((s.port port).st = .up → (s.port port).pol.toNat = c.polder →
        ((s.port port).credit = 0 ∨ s.linkOn port = false → Claims.leaves s i c u0) ∧
        ((s.port port).credit ≠ 0 → s.linkOn port = true → Claims.performed s i (w.updPort port (fun p =>
            { p with out := p.out ++ [{ f with seq := p.seq, cmd := some id }], seq := p.seq + 1, credit := p.credit - 1 }))
          c last (fun x => after { x with unacked := x.unacked + 1 })))
    (c.opc = 9 → ∀ k b, culvertAt u0 c = .ok (k, b) →
      let cv : Culvert := Map.get {} (s.core k).cul (Claims.header c 49 48)
      let w := Claims.walks s c [(c.w 1, 64 * c.w 3)]
      (cv.entries.length + c.w 3 ≤ cv.size → ∀ data, cmdRead w c (c.w 1) (64 * c.w 3) = .ok data →
        Claims.performed s (.culvert cl id) (w.updCore k (fun co => { co with
            cul := Map.put co.cul (Claims.header c 49 48) { cv with entries := cv.entries ++ chunks64 (c.w 3) data } }))
          c true (fun x => { x with done := 64 * c.w 3 })) ∧
      (cv.size < cv.entries.length + c.w 3 →
        (Claims.header c 50 50 = 1 →
          Claims.performed s (.culvert cl id) u0 c true (fun x => { x with status := 2, bytes := 0 })) ∧
        (Claims.header c 50 50 = 0 → Claims.leaves s (.culvert cl id) c (u0.requeue id)))) ∧
    (c.opc = 10 → Claims.header c 33 33 = 0 →
      (Claims.header c 32 32 = 0 → ∀ u, cmdWrite c (c.w 2) (leBytes 8 (c.w 1)) u0 = .done u →
        Claims.performed s (.signal cl id) u c true (fun x => { x with done := 8 })) ∧
      (Claims.header c 32 32 = 1 → let w := Claims.walks s c [(c.w 2, 8)]
        ∀ old u, cmdRead w c (c.w 2) 8 = .ok old → cmdWrite c (c.w 2) (leBytes 8 (leOf old + c.w 1)) w = .done u →
        Claims.performed s (.signal cl id) u c true (fun x => { x with done := 8 }))) ∧
    (c.opc = 10 → Claims.header c 33 33 = 1 → ∀ port dst, c.link = some (port, dst) →
      let switching := (s.readLE (s.lrtbase.toNat + 32 * Claims.header c 49 34) 8).testBit 61
      (switching = true → Claims.leaves s (.signal cl id) c (u0.requeue id)) ∧
      (switching = false → sends (.signal cl id) u0 port
        { seq := 0, kind := 3, addr := dst, data := leBytes 8 (c.w 1), rt := Claims.header c 32 32 }
        true (fun x => { x with done := 8 }))) ∧
    (c.opc = 8 → c.off < c.w 3 →
      let reduces := Claims.header c 36 36 = 1
      let size := if Claims.header c 38 37 = 1 then 2 else 4
      let d := c.w 2 + c.off
      let m := Claims.stepBytes d (c.w 3 - c.off)
      let n := if reduces ∧ m < c.w 3 - c.off then max size (m / size * size) else m
      let w := Claims.walks s c [(c.w 1 + c.off, n)]
      ∀ data, cmdRead w c (c.w 1 + c.off) n = .ok data →
        sends (.coll cl id) w (Claims.header c 35 32)
          { seq := 0, kind := if reduces then 2 else 1, addr := d, data := data, mask := 2 ^ n - 1,
            rt := if reduces then Claims.header c 38 37 else 0 }
          (decide (n = c.w 3 - c.off) && decide (c.w 4 = 0)) (fun x => { x with off := x.off + n, done := x.done + n })) ∧
    (c.opc = 8 → c.w 3 ≤ c.off →
      sends (.coll cl id) u0 (Claims.header c 35 32) { seq := 0, kind := 3, addr := c.w 4, data := leBytes 8 (c.w 5), rt := 1 }
        true (fun x => x))

/-- R120, R133, R206, R222 to R225, R274, R307, R312, R330: t2pf and migrate pass over a page that lies where it should and start the
move of any other, a 2 MiB page whole, where its list holds frames for it, and are suspended where it does not; an address in the
scratchpad window is of no page; as its engine takes it, a linked signal reads its entry of the link remap table, inval makes the
marker step and drops the TLB entries of its pages, and steps when every marker has reached its head, launch is accepted or refused
by the front end, and owner reads its curves and presents its declaration to the levee engine. The model's choices in it:
notes/assumptions/44.md, notes/assumptions/50.md, notes/assumptions/51.md, notes/assumptions/53.md, notes/assumptions/98.md. -/
def Obligations.PageAndFrontEndCommandsStep : Prop :=
  (∀ (s : State) (cl id : Nat) (c : Cmd), Claims.stepping s cl id c → (c.opc = 11 ∨ c.opc = 12) →
    let u0 := s.bump
    let i : Instr := if c.opc = 11 then .t2pf cl id else .migrate cl id
    let va := (c.w 2 / 65536 + c.cur) * 65536
    let pages := if c.opc = 11 then (c.w 2 + c.w 3 - 1) / 65536 - c.w 2 / 65536 + 1 else c.w 3
    let toT2 := decide (c.opc = 12) && decide (Claims.header c 32 32 = 1)
    let frames := Map.get [] s.frames (c.polder * 2 + (if toT2 then 1 else 0))
    ((inWindow va = true ∨ s.leafAddr c.polder va = none) → Claims.leaves s i c (u0.faultCmd id 2 va)) ∧
    (∀ la, inWindow va = false → s.leafAddr c.polder va = some la →
      let l := s.readLE la 8
      let lg := leafBit l 6
      let free : Prop := if lg then ∃ f ∈ frames, f % 2097152 = 0 ∧ ∀ j, j < 32 → f + 65536 * j ∈ frames else frames ≠ []
      leafOk s l = true → leafPolder l = c.polder → (toT2 = true → leafBit l 5 = true) →
      ((leafBit l 1 = true ∨ inDram (leafPa l va) = !toT2) →
        Claims.performed s i u0 c (decide (pages ≤ c.cur + 1)) (fun x => { x with cur := x.cur + 1 })) ∧
      (leafBit l 1 = false → inDram (leafPa l va) = toT2 →
        (free →
          let move : Move := { polder := c.polder, va := if lg then va / 2097152 * 2097152 else va, toT2 := toT2, cmd := some id, lg := lg }
          let u1 : State := { u0 with nextId := s.nextId + 1, moves := Map.put s.moves s.nextId move }
          Claims.leaves s i c ((u1.markerStep c.polder s.nextId).updCmd id (fun x => { x with wait := some s.nextId })).settleAborts) ∧
        (¬ free → Claims.leaves s i c (u0.suspend id .quotaMem (if toT2 then 0 else 0x81) va))))) ∧
  (∀ (s : State) (cl : Nat) (c : Cmd), Claims.takesNext s cl c → cmdOk c = true → c.cw = false →
    let u := Claims.starting s cl c
    let x := Claims.begun c
    (c.opc = 10 → Claims.header c 33 33 = 1 →
      let entry := s.lrtbase.toNat + 32 * Claims.header c 49 34
      let w0 := s.readLE entry 8
      let w1 := s.readLE (entry + 8) 8
      let stands := w0.testBit 60 = true ∧ w1 / 2 ^ 40 % 16 = c.polder ∧ c.w 2 % 8 = 0 ∧ c.w 2 + 8 ≤ w1 % 2 ^ 40
      (stands → exec (.cpeDequeue cl) s =
        .next (u.updCmd c.id (fun y => { y with link := some (w0 / 2 ^ 56 % 16, w0 % 2 ^ 56 + c.w 2) }))) ∧
      (¬ stands → exec (.cpeDequeue cl) s = .next (u.faultCmd c.id 10 (c.w 2)))) ∧
    (c.opc = 13 → (s.readLE (c.group.region + 1) 1).testBit 1 = true →
      let mark : Inval := { cmd := some c.id, old := s.tlb.filter (fun e => tlbCovers c.polder (c.w 2) (c.w 3) e.1) }
      let u1 : State := { u with nextId := s.nextId + 1, invals := Map.put s.invals s.nextId mark }
      exec (.inval cl c.id) s = .next (((u1.markerStep c.polder s.nextId).dropTlb c.polder (c.w 2) (c.w 3)).updCmd c.id
        (fun y => { y with wait := some s.nextId }))) ∧
    (c.opc = 13 → (s.readLE (c.group.region + 1) 1).testBit 1 = false →
      exec (.inval cl c.id) s = .next (u.faultCmd c.id 11 (c.w 2))) ∧
    (c.opc = 14 → ∀ k b, s.findOid c.oid = some (k, b) →
      let req : LaunchReq := { polder := c.polder, owner := c.owner, tier := c.tier, rcb := c.w 1, arg := .ofNat 64 (c.w 2),
                               ng := c.w 3, device := true, terp := k / 32 }
      (∀ sub, u.launch req = .error sub → exec (.launch cl c.id) s = .next (u.faultCmd c.id sub (c.w 1))) ∧
      (∀ n t, u.launch req = .ok (n, t) →
        exec (.launch cl c.id) s = .next (t.updCmd c.id (fun y => { y with ending := .stepped, lost := [] })))) ∧
    (c.opc = 15 →
      let n := Claims.header c 45 42 + 1
      let w := walkReads x [(c.w 1, 16 * n)] u
      (∀ sub a, cmdRead w x (c.w 1) (16 * n) = .error (sub, a) → exec (.owner cl c.id) s = .next (w.faultCmd c.id sub a)) ∧
      ∀ data, cmdRead w x (c.w 1) (16 * n) = .ok data →
        let path := (List.range n).filterMap (curveAt data)
        (path.length ≠ n → exec (.owner cl c.id) s = .next (w.faultCmd c.id 1 (c.w 1))) ∧
        (path.length = n → resultFault w x = none →
          exec (.owner cl c.id) s = .next
            ((w.present (.declare c.id (Claims.header c 41 32) c.polder path (c.w 3))).updCmd c.id
              (fun y => { y with wait := some c.id }))))) ∧
  (∀ (s : State) (m id : Nat) (c : Cmd) (old : Map Nat), Map.find s.invals m = some { cmd := some id, old := old } →
    Map.find s.cmds id = some c → s.markersDone m = true →
    ∃ t, exec (.invalidationComplete m) s = .next t ∧ Map.find t.invals m = none ∧
      Map.find t.cmds id = some { c with wait := none, ending := .stepped, lost := [] } ∧ ∀ a, t.readByte a = s.readByte a) ∧
  (∀ (s : State) (m : Nat), s.markersDone m = false → exec (.invalidationComplete m) s = .next s)

/-- R206, R211, R212, R288, R298, R299: a command ends by its commit step, its arrival where it is bound, its completion word,
its NSTAT bits and its removal, in this order, and one that has faulted by its completion word; a completion word that does not
translate by now is left out and its pusher takes ENGINE_FAULT; the end of a command whose group's image is saved waits for the
restore. The model's choices in it: notes/assumptions/45.md, notes/assumptions/49.md. -/
def Obligations.CommandsEndInOrder : Prop :=
  ∀ (s : State) (cl id : Nat) (c : Cmd), Map.find s.cmds id = some c → c.id = id → s.cpeOn cl = true →
    id ∈ (s.cluster cl).cpe.run → c.killed = false → c.susp = false →
    let u0 := s.bump
    let ends (t : State) : Prop := exec (.commandComplete cl id) s = .next (t.endApplied c.oid id)
    ((∃ v ∈ s.saved, v.ctx.oid = c.oid) → exec (.commandComplete cl id) s = .next s) ∧
    ((∀ v ∈ s.saved, v.ctx.oid ≠ c.oid) →
    ((c.ending = .running ∨ c.ending = .heldArrival ∨ (c.ending = .stepped ∧ c.unacked ≠ 0)) → ends u0) ∧
    (c.ending = .stepped → c.unacked = 0 → ∃ t, ends t ∧ t.tide = s.tide + 1 ∧
      t.vers = (u0.commit (.cmd id) (fun _ => true)).vers ∧
      Map.find t.cmds id = some { c with ending := if Claims.header c 9 9 = 1 then .committed else .arrived, tc := s.tide + 1 } ∧
      ∀ a, t.readByte a = s.readByte a) ∧
    (s.moves = [] → (∀ e ∈ s.islands, s.islandOn e.1 = true) →
      let via := s.viaCmd c
      let data := leBytes 8 (Claims.header c 31 16 * 2 ^ 48 + c.status * 2 ^ 44 + min c.zcnt 4095 * 2 ^ 32 + min c.done (2 ^ 32 - 1))
      (c.ending = .committed → inWindow (c.w 6) = true → ends (u0.refuseArrival id)) ∧
      (c.ending = .committed → inWindow (c.w 6) = false →
        ∀ x, u0.translate via (c.w 6) .objWrite = .ok x → x.dem = false → s.poisoned x.pa = false →
        s.kind x.pa = 2 → s.slotState x.pa ≠ 0 →
        let w := u0.walked via (c.w 6) x
        let ph := Claims.header c 63 56
        (ph = w.phase x.pa % 256 → ends (State.settle x.pa (w.copyArrival x.pa c))) ∧
        (ph ≠ w.phase x.pa % 256 → ph = (w.phase x.pa + 1) % 256 → ∀ before after,
          (s.obj x.pa).arrivals = before ++ after → (∀ j ∈ before, ∀ d, Map.find s.cmds j = some d → d.tc ≤ c.tc) →
          (∀ j l, after = j :: l → ∃ d, Map.find s.cmds j = some d ∧ c.tc < d.tc) →
          ends ((w.updCmd id (fun c => { c with ending := .heldArrival })).updObj x.pa (fun o =>
            { o with arrivals := before ++ id :: after }))) ∧
        (ph ≠ w.phase x.pa % 256 → ph ≠ (w.phase x.pa + 1) % 256 → ends (w.refuseArrival id))) ∧
      (c.ending = .arrived → Claims.header c 10 10 = 1 →
        (∀ x, u0.cwAddr c = .ok x → x.dem = false →
          ends (((u0.walked via (c.w 7) x).plainWrite x.pa data).updCmd id (fun c => { c with ending := .worded }))) ∧
        (∀ f, u0.cwAddr c = .error f → ends ((u0.deliver c.oid (cmdTrap c .engineFault
          (if f = .pageProt then 3 else if f = .pageType then 4 else if f = .poison then 5 else 2) (c.w 7) 0)).updCmd id
            (fun c => { c with ending := .worded })))) ∧
      (c.ending = .faulted → Claims.header c 10 10 = 1 → ∀ x, u0.cwAddr c = .ok x → x.dem = false →
        ends (((u0.walked via (c.w 7) x).plainWrite x.pa data).removeCmd id))) ∧
    (c.ending = .arrived → Claims.header c 10 10 = 0 → ends (u0.updCmd id (fun c => { c with ending := .worded }))) ∧
    (c.ending = .worded → ∀ k b, s.findOid c.oid = some (k, b) → s.islandOn (coreIsland k) = true → ∃ t, ends t ∧
      (t.ctx k b).nstat = (s.ctx k b).nstat ||| c.nstat ∧ Map.find t.cmds id = some { c with ending := .recorded } ∧
      ∀ a, t.readByte a = s.readByte a) ∧
    (c.ending = .recorded → (∀ k b, s.findOid c.oid = some (k, b) → s.islandOn (coreIsland k) = true) →
      ∃ t, ends t ∧ Map.find t.cmds id = none ∧
      (c.core / 4 = cl → id ∉ (t.cluster cl).cpe.run) ∧ (t.core c.cnt).inflight = (s.core c.cnt).inflight - 1))

/-- R106, R109, R117, R133, R206, R321: what a command reads and writes within one line: the scratchpad of its group where the
window names it, and plain memory where its page is plain; of a V page its own version, else the value at its push: the version
that its pusher held then, else the newest one that the pusher's snapshot admits, else the base; a page without a frame reads as
zeros; a line that a lost port answered reads as poisoned (R324). The model's choices in it: notes/assumptions/97.md,
notes/assumptions/98.md, notes/assumptions/128.md. -/
def Obligations.CommandsReachTheirGroupsData : Prop :=
  ∀ (s : State) (c : Cmd) (va n : Nat) (data : List Byte), 0 < n → va % 128 + n ≤ 128 → data.length = n →
    let off := va % 2 ^ 20
    let via := s.viaCmd c
    (∀ k b, inWindow va = true → s.findOid c.oid = some (k, b) → bankFault (s.ctx k b).bankSet off n = none →
      ((s.core k).spPoisoned off n = false →
        cmdRead s c va n = .ok ((List.range n).map (fun i => Map.get 0 (s.core k).sp (off + i)))) ∧
      ∃ u, cmdWrite c va data s = .done u ∧ (∀ j, j ≠ k → u.core j = s.core j) ∧ (∀ a, u.readByte a = s.readByte a) ∧
        ∀ o, Map.get 0 (u.core k).sp o = if off ≤ o ∧ o < off + n then data.getD (o - off) 0 else Map.get 0 (s.core k).sp o) ∧
    (inWindow va = false → va / 128 * 128 ∈ c.lost → cmdRead s c va n = .error (5, va)) ∧
    (inWindow va = false → va / 128 * 128 ∉ c.lost → ∀ x, s.translate via va .read = .ok x →
      (x.dem = true → cmdRead s c va n = .ok (List.replicate n 0)) ∧
      (x.dem = false → x.v = false → s.poisoned x.pa = false → cmdRead s c va n = .ok (s.plainBytes x.pa n)) ∧
      (x.dem = false → x.v = true →
        let line := x.pa / 128 * 128
        let vs := s.chain line
        let reads (b : List Byte) (bad : Bool) : Prop :=
          cmdRead s c va n = if bad = true then .error (5, va) else .ok ((b.drop (x.pa % 128)).take n)
        (∀ before v after, vs = before ++ v :: after → v.owner = some (.cmd c.id) → (∀ u ∈ before, u.owner ≠ some (.cmd c.id)) →
          reads v.data v.poison) ∧
        ((∀ u ∈ vs, u.owner ≠ some (.cmd c.id)) →
          (∀ b bad, Map.find c.view line = some (b, bad) → reads b bad) ∧
          (Map.find c.view line = none →
            (∀ v ∈ vs, v.owner = none → v.tide ≤ c.rsnap →
              (∀ u ∈ vs, u.owner = none → u.tide ≤ c.rsnap → u ≠ v → u.tide < v.tide) → reads v.data v.poison) ∧
            ((∀ v ∈ vs, v.owner = none → c.rsnap < v.tide) → reads (s.readBytes line 128) (s.poisoned line)))))) ∧
    (inWindow va = false → ∀ x, s.translate via va .write = .ok x → x.dem = false → x.v = false →
      cmdWrite c va data s = .done ((s.walked via va x).plainWrite x.pa data)) ∧
    (inWindow va = false → ∀ f, s.translate via va .write = .error f →
      cmdWrite c va data s = .fault (if f = .pageProt then 3 else if f = .pageType then 4 else if f = .poison then 5 else 2) va)

namespace Sys2Proof.Claims

/-- The step happens and leaves a state of which a property holds. -/
def happens (s : State) (i : Instr) (p : State → Prop) : Prop := ∃ t, exec i s = .next t ∧ p t

/-- No byte of memory changes. -/
def sameMemory (s t : State) : Prop := ∀ a, t.readByte a = s.readByte a

/-- A terp holds a queue's entry with these fields, whatever its recency. -/
def entryIs (t : State) (q h : Nat) (e : Qcb) : Prop := ∃ u, t.cached q = some (h, { e with used := u })

/-- The entry at the head of expansion is done: the rest stays, and a queue left with nothing to do goes IDLE (R251). -/
def entryEnds (s t : State) (q h : Nat) (e : Qcb) (rest : List Expansion) : Prop :=
  let empty : Prop := e.head = e.tail ∧ (s.live q).unret = 0 ∧ rest = [] ∧ (s.live q).faulted = false
  (empty → t.live q = { s.live q with exps := rest, wd := 0 } ∧ entryIs t q h { e with st := .idle }) ∧
  (¬ empty → t.live q = { s.live q with exps := rest } ∧ entryIs t q h { e with st := .active })

/-- What the launch of an operator asks (R255, R274). -/
def launchOf (n : Nat) (o : Operator) : LaunchReq :=
  { polder := o.polder, owner := o.owner, tier := o.tier, rcb := (o.rcb.getD 0).toNat, arg := o.arg.getD 0,
    ng := (o.ng.getD 0).toNat, device := false, terp := o.terp, queue := some o.queue, fep := some n }

/-- RECFAULT of a queue (R251). -/
def recordFault (s t : State) (q h : Nat) (e : Qcb) : Prop :=
  t.live q = { s.live q with exps := [], faulted := false } ∧ entryIs t q h { e with st := .error, recerr := true }

/-- Nothing of the queue changes but the recency of its entry. -/
def stays (s t : State) (q h : Nat) (e : Qcb) : Prop := t.live q = s.live q ∧ entryIs t q h e

/-- A plain page, resident, writable and not privileged, maps a virtual address to a physical one; eight bytes there are no
doorbell's and lie in no poisoned line. -/
def plainWord (s : State) (polder va pa : Nat) : Prop :=
  ∃ x, s.translate { polder := polder } va .write = .ok x ∧ x.pa = pa ∧ x.v = false ∧ x.dem = false ∧ s.doorbellOf pa = none ∧
    s.poisoned pa = false

/-- No page moves, and every memory island takes cycles: no access of the front end is held (R312, R351). -/
def nothingHeld (s : State) : Prop := s.moves = [] ∧ ∀ e ∈ s.islands, 192 ≤ e.1 → s.islandOn e.1 = true

/-- An address that the front end reads lies in no doorbell's element. -/
def noBell (s : State) (polder va : Nat) : Prop :=
  ∀ x, s.translate { polder := polder } va .read = .ok x → s.doorbellOf x.pa = none

/-- No address is a doorbell's. -/
def noBells (s : State) : Prop := ∀ pa, s.doorbellOf pa = none

/-- The bytes of a range take values, and no other byte changes. -/
def wrote (s t : State) (pa : Nat) (data : List Byte) : Prop :=
  t.readBytes pa data.length = data ∧ ∀ a, a < pa ∨ pa + data.length ≤ a → t.readByte a = s.readByte a

/-- The operator that a record makes for a launcher (R254, R255, R262). -/
def operatorOf (q : Nat) (e : Qcb) (go : Bool) (regs : Map Word) : Operator :=
  { queue := q, go := go, rcb := Map.find regs 0, arg := Map.find regs 1,
    ng := (Map.find regs 2).map (fun v => .ofNat 64 (v.toNat % 2 ^ 24)), tier := e.tier, polder := e.polder, owner := e.owner,
    terp := e.home }

end Sys2Proof.Claims

/-- R247, R251: a doorbell takes a new TAIL where it is a 32-bit write at offset 0 that moves TAIL forward by less than 2^31
and leaves the ring no fuller than its size; an IDLE queue with work becomes ACTIVE. Any other write sets DBERR and changes
nothing else. -/
def Sys2Proof.Claims.DoorbellsMoveTheTail : Prop :=
  ∀ (s : State) (q off h : Nat) (data : List Byte) (e : Qcb), q < 2 ^ 20 → off < 256 → data ≠ [] → s.inReset = false →
    s.cached q = some (h, e) →
    let v : BitVec 32 := .ofNat 32 (leOf (data.take 4))
    let good : Prop := off = 0 ∧ 4 ≤ data.length ∧ (v - e.tail).toNat < 2 ^ 31 ∧ (v - e.head).toNat ≤ 2 ^ e.log2
    Claims.happens s (.doorbell q off data) (fun t =>
      (good → Claims.entryIs t q h { e with tail := v, st := if e.st = .idle ∧ v ≠ e.head then .active else e.st }) ∧
      (¬ good → Claims.entryIs t q h { e with dberr := true }) ∧
      Claims.sameMemory s t ∧ t.cores = s.cores ∧ t.live q = s.live q)

/-- R249, R251: QSYNC is refused with ERR away from the QCB's HOME; a QCB that is not cached is done at once, a release
clearing RESET and WDOG of its STATUS; a cached one is in progress until its write-back, which leaves the terp without the
entry and the dynamic fields in memory with ENABLE or DISABLE taken; a write made while BUSY is 1 is held. The model's
choices in it: notes/assumptions/18.md, notes/assumptions/61.md. -/
def Sys2Proof.Claims.QueueSyncsWriteBack : Prop :=
  ∀ (s : State) (t : Nat) (q : BitVec 20) (rls : Bool),
    let i : Instr := if rls then .qsyncRelease t q else .qsync t q
    (t < 4 → s.inReset = false → (s.terp t).qsyncHeld = [] → (s.terp t).qsyncBusy = false →
      (s.homeOf q.toNat ≠ t → Claims.happens s i (fun u =>
        (u.terp t).qsyncErr = true ∧ (u.terp t).qsyncBusy = false ∧ Claims.sameMemory s u)) ∧
      (∀ e, s.cached q.toNat = some (t, e) → Claims.happens s i (fun u =>
        (u.terp t).qsyncBusy = true ∧ (u.terp t).qsyncErr = false ∧ (u.terp t).qsyncIdx = q ∧ (u.terp t).qsyncRls = rls ∧
        Claims.sameMemory s u)) ∧
      (s.cached q.toNat = none → s.qHome q.toNat = t →
        let a := s.qGuest q.toNat + 24
        let st := s.readLE a 4
        Claims.happens s i (fun u =>
          (u.terp t).qsyncErr = false ∧ (u.terp t).qsyncBusy = false ∧
          (rls = false → Claims.sameMemory s u) ∧
          (rls = true → Claims.wrote s u a (leBytes 4 (st - bitsOf st 4 4 * 16 - bitsOf st 6 6 * 64)))))) ∧
    (t < 4 → s.inReset = false → (s.terp t).qsyncBusy = true → Claims.happens s i (fun u =>
      (u.terp t).qsyncHeld = (s.terp t).qsyncHeld ++ [(q, rls)] ∧ Claims.sameMemory s u)) ∧
    (∀ h e, (s.terp t).qsyncBusy = true → (s.terp t).qsyncHeld = [] →
      let n := (s.terp t).qsyncIdx.toNat
      partly (s.live n) = false → s.cached n = some (h, e) →
      let kept := if (s.terp t).qsyncRls then { e with reset := false, wdogBit := false } else e
      Claims.happens s (.qsyncWriteback t) (fun u =>
        (u.terp t).qsyncBusy = false ∧ Map.find (u.terp h).cache n = none ∧
        ∀ a, u.readByte a = (s.qWriteBack n (qsyncFinds s n kept)).readByte a)) ∧
    ((s.terp t).qsyncBusy = true → (s.terp t).qsyncHeld = [] →
      let n := (s.terp t).qsyncIdx.toNat
      let a := s.qGuest n + 24
      let st := s.readLE a 4
      partly (s.live n) = false → s.cached n = none → Claims.happens s (.qsyncWriteback t) (fun u =>
        (u.terp t).qsyncBusy = false ∧ ((s.terp t).qsyncRls = false → Claims.sameMemory s u) ∧
        ((s.terp t).qsyncRls = true → Claims.wrote s u a (leBytes 4 (st - bitsOf st 4 4 * 16 - bitsOf st 6 6 * 64)))))

/-- R252, R253, R255, R274: an ACTIVE queue takes the entry at the head of its expansion. NOP ends; FENCE and SWRITE wait until
every earlier operator has retired, and SWRITE writes VAL to its signal word; SWAIT goes on or makes the queue WAITING, which
QUEUE_SIGNAL ends; CHAIN gives its next record to the launcher's shadow bank, from which it becomes active at once where the
active bank is free; what cannot be read or written is RECFAULT. The model's choices in it: notes/assumptions/56.md,
notes/assumptions/57.md, notes/assumptions/60.md, notes/assumptions/91.md. -/
def Obligations.QueueEntriesExpand : Prop :=
  ∀ (s : State) (q h : Nat) (e : Qcb) (x : Expansion) (rest : List Expansion), s.cached q = some (h, e) →
    (s.live q).exps = x :: rest → Claims.nothingHeld s →
    let n := 8 * e.home + e.fepn
    let ends (t : State) : Prop := Claims.entryEnds s t q h e rest
    let fails (t : State) : Prop := Claims.recordFault s t q h e ∧ Claims.sameMemory s t
    let waits (t : State) : Prop := Claims.stays s t q h e ∧ Claims.sameMemory s t
    (e.st = .active →
      (x.kind = 0 → Claims.happens s (.nopEntry q) (fun t => ends t ∧ Claims.sameMemory s t)) ∧
      (x.kind = 4 → (s.live q).unret = 0 → Claims.happens s (.fenceEntry q) (fun t => ends t ∧ Claims.sameMemory s t)) ∧
      (x.kind = 4 → (s.live q).unret ≠ 0 → Claims.happens s (.fenceEntry q) waits) ∧
      (x.kind = 3 → (s.live q).unret = 0 → ∀ pa, x.addr % 8 = 0 → Claims.plainWord s e.polder x.addr pa →
        Claims.happens s (.swriteEntry q) (fun t => ends t ∧ Claims.wrote s t pa (leBytes 8 x.val))) ∧
      (x.kind = 3 → (s.live q).unret = 0 → writeSignal s e x.addr x.val = none → Claims.happens s (.swriteEntry q) fails) ∧
      (x.kind = 3 → (s.live q).unret ≠ 0 → Claims.happens s (.swriteEntry q) waits) ∧
      (x.kind = 2 → Claims.noBell s e.polder x.addr → ∀ v, signalWord s e.polder x.addr = some v →
        (x.val ≤ v → Claims.happens s (.swaitEntry q) (fun t => ends t ∧ Claims.sameMemory s t)) ∧
        (v < x.val → Claims.happens s (.swaitEntry q) (fun t =>
          Claims.stays s t q h { e with st := .waiting } ∧ Claims.sameMemory s t))) ∧
      (x.kind = 2 → signalWord s e.polder x.addr = none → Claims.happens s (.swaitEntry q) fails) ∧
      (x.kind = 1 → (s.fep n).shadow = none → ∀ go next regs, memRecord s e.polder x.nextRec = some (go, next, regs) →
        (∀ a, x.nextRec ≤ a → a < x.nextRec + 240 → Claims.noBell s e.polder a) →
        let o := Claims.operatorOf q e go regs
        let goesOn (t : State) : Prop := if next = 0 then ends t else
          t.live q = { s.live q with exps := { x with nextRec := next } :: rest } ∧ Claims.entryIs t q h e
        ((s.fep n).active ≠ none → Claims.happens s (.chainEntry q) (fun t =>
          (t.fep n).shadow = some o ∧ (t.live q).unret = (s.live q).unret + 1 ∧
          (t.live q).exps = (if next = 0 then rest else { x with nextRec := next } :: rest) ∧ Claims.entryIs t q h e ∧
          Claims.sameMemory s t)) ∧
        ((s.fep n).active = none → go = false → Claims.happens s (.chainEntry q) (fun t =>
          (t.fep n).shadow = none ∧ (t.fep n).active = none ∧ goesOn t ∧ Claims.sameMemory s t)) ∧
        ((s.fep n).active = none → go = true → Claims.noBells s →
          (∀ rk r, launchCheck s (Claims.launchOf n o) = .ok (rk, r) → Claims.happens s (.chainEntry q) (fun t =>
            (t.fep n).active = some { o with region := some rk } ∧ (t.fep n).shadow = none ∧ t.region rk = r ∧
            (t.live q).unret = (s.live q).unret + 1 ∧ Claims.entryIs t q h e ∧
            (t.live q).exps = if next = 0 then rest else { x with nextRec := next } :: rest)) ∧
          (∀ sub, launchCheck s (Claims.launchOf n o) = .error sub → Claims.happens s (.chainEntry q) fails))) ∧
      (x.kind = 1 → (s.fep n).shadow = none → memRecord s e.polder x.nextRec = none →
        Claims.happens s (.chainEntry q) fails) ∧
      (x.kind = 1 → (s.fep n).shadow ≠ none → Claims.happens s (.chainEntry q) waits)) ∧
    (e.st = .waiting → Claims.noBell s e.polder x.addr → ∀ v, signalWord s e.polder x.addr = some v →
      (x.val ≤ v → Claims.happens s (.queueSignal q) (fun t => ends t ∧ Claims.sameMemory s t)) ∧
      (v < x.val → Claims.happens s (.queueSignal q) waits))

/-- R255, R274: with the active bank free the shadow bank's operator becomes active: without GO it retires at once, with GO
it launches its region, whose record holds what the checks of the launch read, and a refused launch is RECFAULT of its queue; an
operator whose launch reaches a page that moves waits (R312). The model's choices in it: notes/assumptions/52.md. -/
def Sys2Proof.Claims.OperatorsActivate : Prop :=
  ∀ (s : State) (n h : Nat) (o : Operator) (e : Qcb), n < 32 → s.inReset = false → (s.fep n).active = none →
    (s.fep n).shadow = some o → s.cached o.queue = some (h, e) →
    let req := Claims.launchOf n o
    (o.go = false → Claims.happens s (.operatorActivate n) (fun t =>
      (t.fep n).active = none ∧ (t.fep n).shadow = none ∧ (t.live o.queue).unret = (s.live o.queue).unret - 1 ∧
      t.regions = s.regions ∧ Claims.sameMemory s t)) ∧
    (o.go = true → s.launchHeld req = true → exec (.operatorActivate n) s = .next s) ∧
    (o.go = true → s.launchHeld req = false → ∀ rk r, launchCheck s req = .ok (rk, r) →
      Claims.happens s (.operatorActivate n) (fun t =>
      (t.fep n).active = some { o with region := some rk } ∧ (t.fep n).shadow = none ∧ t.region rk = r ∧
      (∀ j, j ≠ rk → t.region j = s.region j) ∧ t.cores = s.cores)) ∧
    (o.go = true → s.launchHeld req = false → e.st ≠ .disabled → e.st ≠ .draining → ∀ sub, launchCheck s req = .error sub →
      Claims.happens s (.operatorActivate n) (fun t =>
      (t.fep n).active = none ∧ (t.fep n).shadow = none ∧ t.regions = s.regions ∧
      (t.live o.queue).exps = [] ∧ (t.live o.queue).unret = (s.live o.queue).unret - 1 ∧
      Claims.entryIs t o.queue h { e with st := .error, recerr := true } ∧ Claims.sameMemory s t))

namespace Sys2Proof.Claims

/-- A front-end processor's word retires with a value in one register; its other registers, the other processors, the cores and
memory stand. `f` is the processor with what else the word changes in it. -/
def fepDone (s t : State) (f : Fep) (rd : BitVec 5) (v : Nat) : Prop :=
  t.fep s.curFep = { f.set rd (.ofNat 64 v) with pc := f.pc + 4 } ∧ (∀ n, n ≠ s.curFep → t.fep n = s.fep n) ∧
  t.cores = s.cores ∧ sameMemory s t

/-- A front-end processor's word raises an exception: mepc, mcause and mtval are written and the pc is at mtvec
(notes/assumptions/15.md); no other register of it changes. -/
def fepRaises (s t : State) (code val : Nat) : Prop :=
  let f := s.fep s.curFep
  let g := t.fep s.curFep
  g.mepc = f.pc ∧ g.mcause = .ofNat 64 code ∧ g.mtval = .ofNat 64 val ∧ g.pc.toNat = f.mtvec.toNat / 4 * 4 ∧ g.x = f.x ∧
  g.mem = f.mem ∧ g.xnimq = f.xnimq ∧ (∀ n, n ≠ s.curFep → t.fep n = s.fep n) ∧ t.cores = s.cores ∧ sameMemory s t

end Sys2Proof.Claims

/-- R257 to R262: rfetch takes the next entry of a queue that the processor serves into its local memory and into expansion,
or returns 0; bfx extracts a field; swait waits for a signal word; dispatch makes a local record the launcher's pending
operator, which becomes active at once where the active bank is free, or returns 1 while one is pending. Each raises the
exception of R257 otherwise. The model's choices in it: notes/assumptions/15.md, notes/assumptions/56.md,
notes/assumptions/57.md, notes/assumptions/59.md. -/
def Sys2Proof.Claims.FrontEndWordsHaveTheirEffect : Prop :=
  ∀ (s : State) (rd rs1 rs2 : BitVec 5),
    let f := s.fep s.curFep
    let a := (f.get rs1).toNat
    let b := (f.get rs2).toNat
    (let pos := b % 64
     let len := b / 256 % 128
     ((1 ≤ len ∧ len ≤ 64 ∧ pos + len ≤ 64) → Claims.happens s (.bfx rd rs1 rs2) (fun t =>
       Claims.fepDone s t f rd (a / 2 ^ pos % 2 ^ len))) ∧
     (¬ (1 ≤ len ∧ len ≤ 64 ∧ pos + len ≤ 64) → Claims.happens s (.bfx rd rs1 rs2) (fun t => Claims.fepRaises s t 26 b))) ∧
    (∀ h e, s.cached f.xnimq.toNat = some (h, e) → Claims.nothingHeld s →
      (Claims.noBell s e.polder a → ∀ v, signalWord s e.polder a = some v →
        (b ≤ v → Claims.happens s (.swait rd rs1 rs2) (fun t => Claims.fepDone s t f rd v)) ∧
        (v < b → Claims.happens s (.swait rd rs1 rs2) (fun t =>
          t.feps = s.feps ∧ t.cores = s.cores ∧ Claims.stays s t f.xnimq.toNat h e ∧ Claims.sameMemory s t))) ∧
      (signalWord s e.polder a = none → Claims.happens s (.swait rd rs1 rs2) (fun t => Claims.fepRaises s t 27 a))) ∧
    (∀ h e, a < 2 ^ 20 → s.cached a = some (h, e) → 8 * e.home + e.fepn = s.curFep → b % 64 = 0 →
      let va := e.ring + 64 * (e.head.toNat % 2 ^ e.log2)
      let named : Fep := { f with xnimq := .ofNat 20 a }
      ((e.st ≠ .active ∨ e.head = e.tail) → Claims.happens s (.rfetch rd rs1 rs2) (fun t =>
        Claims.fepDone s t named rd 0 ∧ Claims.stays s t a h e)) ∧
      (e.st = .active → e.head ≠ e.tail → va % 64 = 0 → Claims.nothingHeld s → Claims.noBell s e.polder va →
        (∀ bytes, qLoad s e.polder true va 64 = some bytes → Claims.happens s (.rfetch rd rs1 rs2) (fun t =>
          Claims.fepDone s t { named with mem := fepPut b bytes f.mem } rd (e.tail - e.head).toNat ∧
          Claims.entryIs t a h { e with head := e.head + 1, fetched := e.fetched + 1 } ∧
          t.live a = { s.live a with exps := (s.live a).exps ++ [parseEntry bytes], faulted := false })) ∧
        (qLoad s e.polder true va 64 = none → Claims.happens s (.rfetch rd rs1 rs2) (fun t =>
          Claims.fepRaises s t 25 va ∧ t.live a = { s.live a with faulted := true } ∧ Claims.entryIs t a h e)))) ∧
    (s.servesQ a = false → Claims.happens s (.rfetch rd rs1 rs2) (fun t => Claims.fepRaises s t 24 a)) ∧
    (s.servesQ a = true → b % 64 ≠ 0 → Claims.happens s (.rfetch rd rs1 rs2) (fun t => Claims.fepRaises s t 6 b)) ∧
    (s.servesQ b = false → Claims.happens s (.dispatch rd rs1 rs2) (fun t => Claims.fepRaises s t 24 b)) ∧
    (∀ h e, b < 2 ^ 20 → s.cached b = some (h, e) → 8 * e.home + e.fepn = s.curFep →
      (e.st = .active → f.shadow = none → ∀ go next regs, localRecord f a = some (go, next, regs) →
        let o := Claims.operatorOf b e go regs
        let named : Fep := { f with xnimq := .ofNat 20 b }
        (f.active ≠ none →
          (∀ x rest, (s.live b).exps = x :: rest → x.kind = 1 → Claims.happens s (.dispatch rd rs1 rs2) (fun t =>
            Claims.fepDone s t { named with shadow := some o } rd 0 ∧ Claims.entryIs t b h e ∧
            t.live b = { s.live b with unret := (s.live b).unret + 1,
                                       exps := if next = 0 then rest else { x with nextRec := next } :: rest })) ∧
          ((∀ x rest, (s.live b).exps = x :: rest → x.kind ≠ 1) → Claims.happens s (.dispatch rd rs1 rs2) (fun t =>
            Claims.fepDone s t { named with shadow := some o } rd 0 ∧ Claims.entryIs t b h e ∧
            t.live b = { s.live b with unret := (s.live b).unret + 1 }))) ∧
        (f.active = none → go = false → Claims.happens s (.dispatch rd rs1 rs2) (fun t =>
          Claims.fepDone s t { named with shadow := none } rd 0 ∧ (t.live b).unret = (s.live b).unret)) ∧
        (f.active = none → go = true → Claims.nothingHeld s → Claims.noBells s →
          ∀ rk r, launchCheck s (Claims.launchOf s.curFep o) = .ok (rk, r) →
          Claims.happens s (.dispatch rd rs1 rs2) (fun t =>
            t.fep s.curFep = { ({ named with active := some { o with region := some rk }, shadow := none } : Fep).set rd 0 with
              pc := f.pc + 4 } ∧
            t.region rk = r ∧ (t.live b).unret = (s.live b).unret + 1 ∧ t.cores = s.cores))) ∧
      (e.st = .active → f.shadow = none → localRecord f a = none →
        Claims.happens s (.dispatch rd rs1 rs2) (fun t => Claims.fepRaises s t 28 a)) ∧
      (e.st = .active → f.shadow ≠ none → Claims.happens s (.dispatch rd rs1 rs2) (fun t =>
        Claims.fepDone s t f rd 1 ∧ Claims.stays s t b h e)) ∧
      (e.st ≠ .active → Claims.happens s (.dispatch rd rs1 rs2) (fun t => Claims.fepRaises s t 29 b)))

/-- R264, R323, R362, R363: a notice that waits is written to the next place of the ring while the host link is up, its island
takes cycles and the ring has room, and PROD increases in the next step, in which step 3 of a polder reset follows its begun notice; it waits otherwise.
The model's choices in it: notes/assumptions/62.md, notes/assumptions/92.md. -/
def Obligations.NoticesReachTheRing : Prop :=
  ∀ (s : State) (fep : Nat) (n : Notice),
    let room := 2 ^ s.nringLog2.toNat
    exec .hostLinkDown s = .next { s with hostUp := false } ∧ exec .hostLinkUp s = .next { s with hostUp := true } ∧
    (∀ w t rest, s.nrWritten = some w → (w.cause ≠ 0x60 ∧ w.cause ≠ 0x61 ∨ w.stat ≠ 0) → s.agenda = t :: rest →
      step s = runTurn t { s with agenda := rest, nrProd := s.nrProd + 1, nrWritten := none }) ∧
    (∀ w t rest, s.nrWritten = some w → (w.cause = 0x60 ∨ w.cause = 0x61) → w.stat = 0 → s.agenda = t :: rest →
      step s = runTurn t (State.resetKill { s with agenda := rest, nrProd := s.nrProd + 1, nrWritten := none } w.polder)) ∧
    (s.nrWritten ≠ none → exec (.noticeWrite fep) s = .next s) ∧
    (s.nrWritten = none → s.notices.find? (fun n => n.fep == fep) = some n →
      ((s.hostUp = false ∨ s.islandOn 207 = false ∨ room ≤ (s.nrProd - s.nrCons).toNat) → exec (.noticeWrite fep) s = .next s) ∧
      (s.hostUp = true → s.islandOn 207 = true → (s.nrProd - s.nrCons).toNat < room → Claims.happens s (.noticeWrite fep) (fun t =>
        let a := s.nringBase.toNat * 4096 + 64 * (s.nrProd.toNat % room)
        let bytes := leBytes 1 n.cause ++ leBytes 1 n.stat ++ leBytes 1 n.polder ++ leBytes 1 n.fep ++ leBytes 4 n.qidx ++
          leBytes 4 n.head ++ leBytes 4 n.tail ++ leBytes 8 n.retired ++ leBytes 8 s.tide ++ leBytes 2 n.island ++ leBytes 30 0
        (∀ i < 64, Map.get 0 t.hostMem ((a + i) % 2 ^ 64) = bytes.getD i 0) ∧
        (∀ x, (∀ i < 64, x ≠ (a + i) % 2 ^ 64) → Map.get 0 t.hostMem x = Map.get 0 s.hostMem x) ∧
        t.nrWritten = some n ∧ t.nrProd = s.nrProd ∧ t.notices = s.notices.erase n ∧ Claims.sameMemory s t)))

namespace Sys2Proof.Claims

/-- No polder binds a mirror of its bounds (R344, R347). -/
def noMirror (s : State) : Prop := ∀ p, s.ptField p 40 8 = 0

/-- PCTL takes a write at once: the package is out of reset, and no transition is in progress or waits. -/
def pctlFree (s : State) (p : Nat) : Prop :=
  p < 16 ∧ s.inReset = false ∧ s.pctlHeld = [] ∧ s.pctlBusy = false ∧ s.presets = []

/-- The record of a region, listed once. -/
def listed (s : State) (rk : Nat) (r : Region) : Prop := (rk, r) ∈ s.regions ∧ ∀ e ∈ s.regions, e.1 = rk → e.2 = r

end Sys2Proof.Claims

/-- R348, R273: START of an OFF polder asks the levee engine and leaves PCTL busy; STOP of an ACTIVE polder without a live
region turns it OFF and empties the cores of its clusters; SLICEEND suspends it and preempts its running regions, SLICESTART
makes it ACTIVE and lets them go on, ABORTING where the abort line stands; in any other state a write sets ERR and does nothing
else; while BUSY is 1 it is held. The model's choices in it: notes/assumptions/62.md, notes/assumptions/64.md. -/
def Obligations.PolderControlMovesThePolder : Prop :=
  ∀ (s : State) (p : Nat),
    let st := s.polderSt p
    let quiet : Prop := ∀ e ∈ s.regions, e.2.live = true → e.2.polder ≠ p
    let refused (i : Instr) : Prop := exec i s = .next { s with pctlErr := true }
    (Claims.pctlFree s p →
      (st = 0 → exec (.polderStart p) s = .next { s with levQ := s.levQ ++ [.start p], pctlBusy := true }) ∧
      (st ≠ 0 → refused (.polderStart p)) ∧
      (st = 1 → quiet → Claims.happens s (.polderStop p) (fun t =>
        t.pctlErr = false ∧ (∀ k, s.holdsCluster p (k / 4) = true → t.core k = (s.core k).cycled) ∧
        (∀ k, s.holdsCluster p (k / 4) = false → t.core k = s.core k) ∧
        (Claims.noMirror s → t.polderSt p = 0 ∧ ∀ a, a ≠ s.ptAddr p → t.readByte a = s.readByte a))) ∧
      ((st ≠ 1 ∨ ¬ quiet) → refused (.polderStop p)) ∧
      (st = 1 → Claims.happens s (.sliceend p) (fun t =>
        t.pctlErr = false ∧ t.polderSt p = 2 ∧ t.cores = s.cores ∧
        (∀ e ∈ s.regions, e.2.polder = p → e.2.st = .running → (t.region e.1).st = .preempted) ∧
        ∀ rk, (∀ e ∈ s.regions, e.1 = rk → ¬ (e.2.polder = p ∧ e.2.st = .running)) → t.region rk = s.region rk)) ∧
      (st ≠ 1 → refused (.sliceend p)) ∧
      (st = 2 → Claims.happens s (.slicestart p) (fun t =>
        t.pctlErr = false ∧ t.cores = s.cores ∧
        (∀ rk r, Claims.listed s rk r → r.polder = p → r.st = .preempted → s.placedOf rk ≠ [] →
          (t.region rk).st = if r.line then .aborting else .running) ∧
        ((∀ e ∈ s.regions, e.2.polder = p → e.2.st ≠ .preempted) →
          t.polderSt p = 1 ∧ ∀ a, a ≠ s.ptAddr p → t.readByte a = s.readByte a))) ∧
      (st ≠ 2 → refused (.slicestart p)) ∧
      (st ≠ 1 → st ≠ 2 → refused (.polderReset p))) ∧
    (p < 16 → s.inReset = false → (s.pctlBusy = true ∨ s.presets ≠ []) →
      ∀ e ∈ [(Instr.polderStart p, 0), (.polderStop p, 1), (.sliceend p, 2), (.slicestart p, 3), (.polderReset p, 4)],
        exec e.1 s = .next { s with pctlHeld := s.pctlHeld ++ [(e.2, p)] })

/-- R263, R264, R349: POLDER_RESET, or the expiry of a watchdog of the polder that no retirement of its queue due now stops, makes the polder RESETTING and sends the begun
notice, and nothing is killed yet; step 3, which NoticesReachTheRing ties to that notice, kills every live region of the polder
with its contexts; SCRUB_COMPLETE waits for it and ends the reset: every byte of the polder's memory is zero, no line of it
poisoned, the polder is ACTIVE, and the done notice follows the begun one. The model's choices in it: notes/assumptions/62.md,
notes/assumptions/63.md. -/
def Obligations.PolderResetsScrub : Prop :=
  ∀ (s : State) (p : Nat),
    let killed (t : State) : Prop :=
      (∀ rk r, Claims.listed s rk r → r.polder = p → r.live = true → (t.region rk).st = .killed) ∧
      (∀ k b rk r, Claims.listed s rk r → r.polder = p → r.live = true → (s.ctx k b).group.region = rk → (t.ctx k b).st = .empty) ∧
      (∀ k b, (∀ e ∈ s.regions, e.2.polder = p → e.2.live = true → (s.ctx k b).group.region ≠ e.1) →
        (t.ctx k b).st = (s.ctx k b).st)
    let begun (t : State) (n : Notice) : Prop := t.notices = s.notices ++ [n] ∧ n.stat = 0 ∧ n.polder = p ∧
      Map.find t.presets p = some { notice := n, killed := false } ∧ t.polderSt p = 3 ∧ t.regions = s.regions ∧ t.cores = s.cores
    (Claims.pctlFree s p → (s.polderSt p = 1 ∨ s.polderSt p = 2) → Claims.happens s (.polderReset p) (fun t =>
      ∃ n, begun t n ∧ n.cause = 0x61 ∧ t.pctlErr = false)) ∧
    (∀ q, s.retireDue q = true → exec (.watchdogExpiry q) s = .next s) ∧
    (∀ q h e, s.wdogDue q = true → s.retireDue q = false → s.cached q = some (h, e) → e.polder = p →
      Claims.happens s (.watchdogExpiry q) (fun t => ∃ n, begun t n ∧ n.cause = 0x60 ∧ n.qidx = q ∧
        ((∀ j ∈ s.queuesOf p, (s.cached j).isSome = true) → n.fep = 8 * e.home + e.fepn ∧ n.head = e.head.toNat ∧
          n.tail = e.tail.toNat ∧ n.retired = e.retired.toNat))) ∧
    (∀ q, s.wdogDue q = false → exec (.watchdogExpiry q) s = .next s) ∧
    ((∀ f, (s.fep f).shadow = none) → killed (s.resetKill p) ∧
      ∀ r, Map.find s.presets p = some r → Map.find (s.resetKill p).presets p = some { r with killed := true }) ∧
    (∀ r, Map.find s.presets p = some r → r.killed = false → exec (.scrubComplete p) s = .next s) ∧
    (∀ r, Map.find s.presets p = some r → r.killed = true → s.pctlHeld = [] → Claims.happens s (.scrubComplete p) (fun t =>
      t.notices = s.notices ++ [{ r.notice with stat := 1 }] ∧ Map.find t.presets p = none ∧ t.polderSt p = 1 ∧
      (∀ k, s.cmds = [] → s.holdsCluster p (k / 4) = true → t.core k = (s.core k).cycled) ∧
      ((∀ h, (s.terp h).cache = []) → s.qpbase = 0 → s.cmds = [] → ∀ a, inRanges (s.memoryOf p) a = true →
        (a ≠ s.ptAddr p → t.readByte a = 0) ∧ a ∉ t.poison)))

/-- R277: a stage evaluation of a RUNNING region that is due raises the target of a stage by 1 where its input ring is full
and its own limit and the region's allow it, and then lowers it by 1, not below MINC, where a group of it waits for its
output ring; the stages come in ascending order, and the next evaluation is 65,536 ticks of the front end later (R6). -/
def Sys2Proof.Claims.StagesAreEvaluated : Prop :=
  ∀ (s : State) (rk : Nat),
    let r := s.region rk
    let now := s.islandTime (206 + 16 * r.terp)
    (r.st = .running → r.evalAt ≤ now → Claims.happens s (.stageEvaluation rk) (fun t =>
      let u := t.region rk
      u.evalAt = r.evalAt + 65536 ∧ u.stages.length = r.stages.length ∧ (∀ j, j ≠ rk → t.region j = s.region j) ∧
      t.cores = s.cores ∧ Claims.sameMemory s t ∧
      ∀ i < r.stages.length,
        let g := r.stages.getD i {}
        let sum := ((u.stages.take i ++ r.stages.drop i).map (·.target)).foldl (· + ·) 0
        let full : Prop := ∃ pa, ringAt s r g.inRing = some pa ∧ s.ringFull pa = true
        let short : Prop := ∃ pa, ringAt s r g.outRing = some pa ∧ blockedOn s rk i pa = true
        let more : Prop := full ∧ g.target < g.maxc ∧ sum < r.maxc
        (more → ¬ short → u.stages.getD i {} = { g with target := g.target + 1 }) ∧
        (¬ more → ¬ short → u.stages.getD i {} = g) ∧
        (more → short → u.stages.getD i {} = { g with target := max g.minc g.target }) ∧
        (¬ more → short → u.stages.getD i {} = { g with target := max g.minc (g.target - 1) }))) ∧
    ((r.st ≠ .running ∨ now < r.evalAt) → exec (.stageEvaluation rk) s = .next s)

/-- R283, R284, R15: the next ready position of a stage is placed on the core that R283 names: its sequencers stand at the
descriptor's entries with every register 0, its context names its place, and the remap table its core and bank; every other
context stands. The model's choices in it: notes/assumptions/65.md. -/
def Sys2Proof.Claims.GroupsArePlaced : Prop :=
  ∀ (s : State) (rk i k : Nat) (p : Returned) (b : Bool) (st : CtxState), s.wantsGroup rk i = true → s.regionRoom rk 0 = true →
    laterServed s rk i = false → s.inReset = false → (s.region rk).nextOf i = some p →
    s.coreFor rk (stageNeed s rk i) = some k → s.islandOn (coreIsland k) = true → s.slotFor k = some (b, st) →
    let r := s.region rk
    let d := (r.stages.getD i {}).gdesc
    let lc := r.freeLcore
    Claims.happens s (.groupPlace rk i) (fun t =>
      let c := t.ctx k b
      c.st = st ∧ (∀ x, ((c.seq x).pc = .ofNat 56 (s.feRead r.polder (d + 8 * streamCode x) 8)) ∧ (c.seq x).x = [] ∧
        (c.seq x).lv = [] ∧ (c.seq x).ib = [] ∧ (c.seq x).stopped = false) ∧
      c.w = [] ∧ c.masks = [] ∧ c.q = [] ∧ c.traps = [] ∧ c.nstat = 0 ∧ c.rarg = r.arg ∧ c.gidx = .ofNat 24 p.gidx ∧
      c.gcnt = .ofNat 24 (r.stages.getD p.stage {}).count ∧ c.stgn = .ofNat 4 p.stage ∧ c.lcore = .ofNat 16 lc ∧
      c.grun = (if p.grun = 65535 then 65535 else p.grun + 1) ∧ c.group = { region := rk, stage := p.stage, gidx := p.gidx } ∧
      c.snap = s.tide ∧ c.begin = (if r.returned.contains p then p.begin else s.tide) ∧ c.polder = r.polder ∧ c.tier = r.tier ∧
      Map.find (t.region rk).remap lc = some (2 * k + if b then 1 else 0) ∧ (t.region rk).st = .running ∧
      (∀ j x, (j, x) ≠ (k, b) → t.ctx j x = s.ctx j x) ∧ (t.core k).sp = (s.core k).sp ∧ t.tide = s.tide)

/-- R153, R282, R290: a group whose four sequencers have stopped and whose work is done retires: its versions commit, the
tide advances, RETG counts it, its bank is EMPTY and its remap entry is free; a core with a migration request takes no group
more until it cools. The model's choices in it: notes/assumptions/39.md. -/
def Sys2Proof.Claims.GroupsRetire : Prop :=
  ∀ (s : State) (k : Nat) (b : Bool),
    let bank := if b then 1 else 0
    let c := s.ctx k b
    let rk := c.group.region
    (s.retireReady k b = true → s.islandOn (coreIsland k) = true → s.guestHeld rk = false →
     (∀ st, (c.seq st).blockedAtAbort = false) → Claims.happens s (.groupRetire k bank) (fun t =>
      (t.ctx k b).st = .empty ∧ ((∀ f, (s.fep f).shadow = none) → (t.region rk).retg = (s.region rk).retg + 1) ∧ s.tide < t.tide ∧
      (Map.sorted s.vers = true → ∀ l vs, Map.find s.vers l = some vs → ∀ v ∈ vs, v.owner = some (.group c.oid) →
        ∃ us, Map.find t.vers l = some us ∧ { v with owner := none, tide := s.tide + 1 } ∈ us ∧
          ∀ u ∈ us, u.owner ≠ some (.group c.oid)) ∧
      (t.core k).excluded = ((s.core k).excluded || ((s.core k).migReq && !c.persist)) ∧
      (∀ e ∈ (t.region rk).remap, e.2 ≠ 2 * k + if b then 1 else 0) ∧
      (∀ j x, (j, x) ≠ (k, b) → t.ctx j x = s.ctx j x) ∧ (t.core k).sp = (s.core k).sp)) ∧
    ((s.retireReady k b = false ∨ s.islandOn (coreIsland k) = false ∨ s.guestHeld rk = true) →
      exec (.groupRetire k bank) s = .next s)

/-- R281, R287 to R289: at a YIELD boundary a preempted group's image is saved, its save area holding 64 KiB of no architectural
layout, and its bank becomes EMPTY; a saved position is
restored to a fitting core with its registers and scratchpad banks; a group on a core with a migration request moves to the
coolest fitting core, keeping its lcore, and goes on with the word after the YIELD, where it stays too when no core fits. The
model's choices in it: notes/assumptions/37.md, notes/assumptions/66.md, notes/assumptions/67.md. -/
def Sys2Proof.Claims.GroupsLeaveAndReturn : Prop :=
  ∀ (s : State) (k : Nat),
    let b := s.bank k
    let c := s.act k
    let rk := c.group.region
    let carries (x : Ctx) : Prop := x.group = c.group ∧ x.oid = c.oid ∧ x.begin = c.begin ∧ x.snap = c.snap ∧ x.seqC.pc = c.seqC.pc + 4 ∧
      (∀ st, (x.seq st).x = (c.seq st).x ∧ (x.seq st).lv = (c.seq st).lv ∧ (x.seq st).rb = (c.seq st).rb) ∧ x.seqL.pc = c.seqL.pc ∧
      x.seqE.pc = c.seqE.pc ∧ x.seqS.pc = c.seqS.pc ∧ x.masks = c.masks ∧ x.q = c.q ∧ x.tok = c.tok ∧ x.nstat = c.nstat ∧
      ∀ pos, allocated c.rects pos = true → Map.get 0 x.w pos = Map.get 0 c.w pos
    (s.atBoundary k = true → s.preempts c = true → s.imageHeld (s.region rk) c = false → Claims.happens s (.preempt k) (fun t =>
      (∃ v, t.saved = s.saved ++ [v] ∧ v.group = c.group ∧ carries v.ctx ∧
        ∀ off, inBanks c.bankSet off = true → Map.get 0 v.sp off = Map.get 0 (s.core k).sp off) ∧
      (t.ctx k b).st = .empty ∧ t.ctx k (!b) = s.ctx k (!b) ∧ Map.find (t.region rk).remap c.lcore.toNat = none ∧
      ((∀ e ∈ s.objs, ∀ w ∈ e.2.waiters, w.oid ≠ c.oid) → ∀ a, t.readByte a = (s.writeImage c).readByte a))) ∧
    (∀ a, let at_ := c.save + 65536 * c.group.gidx
      at_ % 65536 = 0 → (∀ pa, s.feAddr (s.region rk).polder at_ = some pa → s.doorbellOf pa = none ∧ (a < pa ∨ pa + 65536 ≤ a)) →
      (s.writeImage c).readByte a = s.readByte a) ∧
    (s.atBoundary k = true → s.preempts c = false → (s.core k).migReq = true →
      (s.bump.moveTarget k = none → Claims.happens s (.thermalMigration k) (fun t =>
        carries (t.act k) ∧ (t.act k).boundary = false ∧ Claims.sameMemory s t)) ∧
      (∀ j x st, s.bump.moveTarget k = some j → s.islandOn (coreIsland j) = true → s.slotFor j = some (x, st) → Claims.happens s (.thermalMigration k) (fun t =>
        carries (t.ctx j x) ∧ (t.ctx j x).st = st ∧ (t.ctx j x).lcore = c.lcore ∧ (t.ctx k b).st = .empty ∧
        (∀ off, Map.sorted (s.core k).sp = true → inBanks c.bankSet off = true →
          Map.get 0 (t.core j).sp off = Map.get 0 (s.core k).sp off) ∧
        Map.find (t.region rk).remap c.lcore.toNat = some (2 * j + if x then 1 else 0)))) ∧
    (∀ v g j x st, s.saved.find? (fun v => decide (v.ctx.group = g)) = some v →
      (∀ u ∈ s.saved, u.ctx.group.region = g.region → u.ctx.group.stage = g.stage → g.gidx ≤ u.ctx.group.gidx) →
      ((s.region g.region).st = .running ∨ (s.region g.region).st = .aborting) → s.regionRoom g.region 1 = true →
      s.imageHeld (s.region g.region) v.ctx = false →
      s.coreFor g.region { banks := v.ctx.bankSet, culs := v.ctx.culs } = some j → s.islandOn (coreIsland j) = true →
      s.slotFor j = some (x, st) →
      Claims.happens s (.groupRestore g.region g.stage g.gidx) (fun t =>
        let w := t.ctx j x
        t.saved = s.saved.erase v ∧ w.st = st ∧ w.group = g ∧ w.oid = v.ctx.oid ∧
        w.grun = (if v.ctx.grun = 65535 then 65535 else v.ctx.grun + 1) ∧ w.lcore = .ofNat 16 (s.region g.region).freeLcore ∧
        (∀ st, (w.seq st).x = (v.ctx.seq st).x ∧ (w.seq st).pc = (v.ctx.seq st).pc ∧ (w.seq st).lv = (v.ctx.seq st).lv) ∧
        w.w = v.ctx.w ∧ w.masks = v.ctx.masks ∧ w.q = v.ctx.q ∧
        (∀ off, Map.sorted v.sp = true → inBanks v.ctx.bankSet off = true → Map.get 0 (t.core j).sp off = Map.get 0 v.sp off) ∧
        Map.find (t.region g.region).remap (s.region g.region).freeLcore = some (2 * j + if x then 1 else 0) ∧
        Claims.sameMemory s t))

/-- R357, R366: a core whose sensor reaches TMIG has a migration request, and one whose sensor falls below TREL has none and is
excluded from nothing; the override of a terp forces the reading of one of its cores, whose own sensor then decides nothing; a
write of the override judges the core that it names, and the one that it leaves, by the readings that they then have, the forced one
or that of the core's own sensor at that step. The model's choices in it: notes/assumptions/6.md. -/
def Sys2Proof.Claims.HeatRequestsMigration : Prop :=
  ∀ (s : State) (k reading t : Nat) (v : BitVec 32),
    let tmig := (s.terp (k / 32)).tmig.toNat
    let trel := (s.terp (k / 32)).trel.toNat
    let forced : Prop := (s.terp (k / 32)).ovEn = true ∧ (s.terp (k / 32)).ovCore.toNat = k
    (k < 128 → ¬ forced → tmig ≤ reading → exec (.migrationRequest k reading) s =
      .next (s.updCore k (fun c => { c with migReq := true }))) ∧
    (k < 128 → ¬ forced → reading < trel → reading < tmig → exec (.thermalRelease k reading) s =
      .next (s.updCore k (fun c => { c with migReq := false, excluded := false }))) ∧
    (k < 128 → forced → exec (.migrationRequest k reading) s = .next s ∧ exec (.thermalRelease k reading) s = .next s) ∧
    (t < 4 → s.inReset = false →
      let j := v.toNat % 128
      let temp := v.toNat / 256 % 256
      let left := (s.terp t).ovCore.toNat
      let judged (u : State) (x n : Nat) : Prop :=
        ((s.terp t).tmig.toNat ≤ n → u.core x = { s.core x with migReq := true }) ∧
        (n < (s.terp t).tmig.toNat → n < (s.terp t).trel.toNat → u.core x = { s.core x with migReq := false, excluded := false }) ∧
        (n < (s.terp t).tmig.toNat → (s.terp t).trel.toNat ≤ n → u.core x = s.core x)
      (j / 32 ≠ t → exec (.sensovrWrite t v) s = .next (s.updTerp t (fun x => { x with ovErr := true }))) ∧
      (j / 32 = t → Claims.happens s (.sensovrWrite t v) (fun u =>
        (u.terp t).ovErr = false ∧ (u.terp t).ovEn = v.getLsbD 31 ∧ (u.terp t).ovTemp.toNat = temp ∧ (u.terp t).ovCore.toNat = j ∧
        (∃ n, judged u j n ∧ (v.getLsbD 31 = true → n = temp)) ∧
        (left ≠ j → left / 32 = t → ∃ n, judged u left n) ∧
        ∀ x, x ≠ j → (x ≠ left ∨ left / 32 ≠ t) → u.core x = s.core x)))

/-- R307, R312: once the markers of a move have reached their heads and no store to the old frame is buffered, the page, of 64 KiB
or of 2 MiB, is copied to a frame of the other tier, its leaf names that frame, the TLBs lose the page, and the old frame joins its
tier's list; with no frame free a cold page stays, and a command is suspended. Before that nothing happens; a move waits for memory
that takes no cycles, and at its command's sluices (R339, R351). The model's choices in it: notes/assumptions/50.md,
notes/assumptions/69.md. -/
def Sys2Proof.Claims.PagesMove : Prop :=
  ∀ (s : State) (id : Nat) (m : Move), Map.find s.moves id = some m →
    (s.markersDone id = false → exec (.pageMove id) s = .next s) ∧
    (∀ la l, s.markersDone id = true → movable s m = some (la, l) →
      let old := leafPa l 0
      let n := if m.lg then 2097152 else 65536
      let lo := if m.lg then la / 256 * 256 else la
      let size := if m.lg then 256 else 8
      let free := Map.get [] s.frames (frameList m.polder m.toT2)
      (frameBuffered s m.lg old = true → exec (.pageMove id) s = .next s) ∧
      (frameBuffered s m.lg old = false →
        (∀ new, takeFrame m.lg free = some new →
          (s.framesStopped m old new = true → exec (.pageMove id) s = .next s) ∧
          (s.framesStopped m old new = false → s.movePays m old = false → exec (.pageMove id) s = .next (s.moveWaits m old)) ∧
          (s.framesStopped m old new = false → s.movePays m old = true → s.Inv → new % n = 0 → new < 2 ^ 48 →
            (∀ e ∈ s.regions, s.haltReady e.1 = false) → Claims.happens s (.pageMove id) (fun t =>
              ((la < new ∨ new + n ≤ la) → t.readLE la 8 = l - old + new) ∧
              (∀ i < n, (new + i < lo ∨ lo + size ≤ new + i) → t.readByte (new + i) = s.readByte (old + i)) ∧
              (∀ a, (a < new ∨ new + n ≤ a) → (a < lo ∨ lo + size ≤ a) → t.readByte a = s.readByte a) ∧
              Map.get [] t.frames (frameList m.polder m.toT2) =
                (if m.lg then free.filter (fun f => decide (f / 2097152 ≠ new / 2097152)) else free.drop 1) ∧
              Map.get [] t.frames (frameList m.polder (!m.toT2)) = Map.get [] s.frames (frameList m.polder (!m.toT2)) ++
                (if m.lg then (List.range 32).map (fun i => old + 65536 * i) else [old]) ∧
              (∀ unit lg, Map.find t.tlb (tlbKey unit m.polder m.va lg) = none) ∧ Map.find t.moves id = none))) ∧
        (takeFrame m.lg free = none → (∀ e ∈ s.regions, s.haltReady e.1 = false) → Claims.happens s (.pageMove id) (fun t =>
          Claims.sameMemory s t ∧ t.frames = s.frames ∧ Map.find t.moves id = none ∧
          ∀ c x, m.cmd = some c → Map.find s.cmds c = some x → ∃ y, Map.find t.cmds c = some y ∧ y.susp = true))))

/-- R313: a scan of a polder whose page engine is on clears AC in the leaf of every resident T2 page, and the next scan is SCAN
times 65,536 ticks later. R311: a write of INVAL drops the TLB entries of its pages and puts its markers on the way, and one made
while BUSY is 1 is held. R315: LOWTIDE never decreases and takes the smallest snapshot of a live owner. R239, R321, R356: an
uncorrectable error marks its DRAM line, a MARGIN event where its island is undervolted, and a corrected one counts. The model's
choices in it: notes/assumptions/70.md. -/
def Sys2Proof.Claims.PageEnginesKeepHouse : Prop :=
  ∀ (s : State) (p t line : Nat) (v : BitVec 64),
    (let every := s.ptField p 12 4
     p < 16 → (s.polderSt p = 1 ∨ s.polderSt p = 2) → (s.ptField p 1 1).testBit 1 = true → every ≠ 0 →
       Map.get 0 s.scanAt p ≤ s.tick → Claims.happens s (.pageEngineScan p) (fun u =>
         (∀ e ∈ s.leaves p, scanned s p e.2 = true → leafBit (u.readLE e.2 8) 8 = false) ∧
         (∀ a, (∀ e ∈ s.leaves p, a < e.2 ∨ e.2 + 8 ≤ a) → u.readByte a = s.readByte a) ∧
         Map.get 0 u.scanAt p = s.tick + 65536 * every)) ∧
    (t < 4 → s.inReset = false →
      let q := bitsOf v.toNat 59 56
      let covers (key : Nat) : Bool := tlbCovers q (bitsOf v.toNat 55 16 * 65536) (bitsOf v.toNat 15 0 + 1) key
      ((s.terp t).inval = none → Claims.happens s (.hostInval t v) (fun u =>
        (u.terp t).inval = some s.nextId ∧ 
        Map.find u.invals s.nextId = some { terp := some t, old := s.tlb.filter (fun e => covers e.1) } ∧
        (∀ key, Map.find u.tlb key = if covers key then none else Map.find s.tlb key) ∧
        (∀ unit i, i ≤ bitsOf v.toNat 15 0 → bitsOf v.toNat 55 16 + i < 2 ^ 40 →
          Map.find u.tlb (tlbKey unit q ((bitsOf v.toNat 55 16 + i) * 65536) false) = none) ∧ Claims.sameMemory s u)) ∧
      ((s.terp t).inval ≠ none → exec (.hostInval t v) s = .next (s.updTerp t (fun x =>
        { x with invalHeld := x.invalHeld ++ [v] })))) ∧
    (t < 4 → exec (.lowtideUpdate t) s = .next (s.updTerp t (fun x => { x with lowtide := max x.lowtide s.lowTide })) ∧
      (∀ n ∈ s.liveSnaps, s.lowTide ≤ n) ∧ (s.lowTide ∈ s.liveSnaps ∨ s.liveSnaps = [])) ∧
    (let n := 192 + 16 * (line / 0xC00000000) + line / 0x180000000 % 8
     inDram line = true →
       Claims.happens s (.patrolScrub line .uncorrectable) (fun u =>
         u.poisoned line = true ∧ (∀ a, lineOf a ≠ lineOf line → u.poisoned a = s.poisoned a) ∧ Claims.sameMemory s u ∧
         ((s.island n).uvs = 0 → u.islands = s.islands ∧ u.notices = s.notices) ∧
         ((s.island n).uvs ≠ 0 → (u.island n).margin = true ∧ ∃ x, u.notices = s.notices ++ [x] ∧ x.cause = 0x80 ∧ x.island = n)) ∧
       let w := Claims.errorWindow s n
       ∃ m, exec (.patrolScrub line .corrected) s =
           .next (s.updIsland n (fun i => { i with ceWindow := w, ceCount := m })) ∧
         (w = (s.island n).ceWindow → m = (s.island n).ceCount + 1) ∧ (w ≠ (s.island n).ceWindow → m = 1)) ∧
    exec (.patrolScrub line .clean) s = .next s

/-- R316: the dredger makes the newest committed version at or below low tide the base of its line, with its poison mark, and
removes it and every older committed version from the chain. -/
def Sys2Proof.Claims.DredgersLowerTheBase : Prop :=
  ∀ (s : State) (line : Nat),
    let low := (s.terp (s.terpOfLine line)).lowtide
    (∀ v, newestUpTo low (s.chain line) = some v → Claims.happens s (.dredgerStep line) (fun t =>
      t.poisoned line = v.poison ∧ t.chain line = (s.chain line).filter (fun u => !(u.owner.isNone && decide (u.tide ≤ v.tide))) ∧
      (∀ l, l ≠ line → t.chain l = s.chain l) ∧ t.cores = s.cores ∧
      ((∀ u ∈ s.chain line, (s.region u.node).chain = []) → Claims.wrote s t line v.data))) ∧
    (newestUpTo low (s.chain line) = none → exec (.dredgerStep line) s = .next s) ∧
    (∀ v, newestUpTo low (s.chain line) = some v →
      v ∈ s.chain line ∧ v.owner = none ∧ v.tide ≤ low ∧ ∀ u ∈ s.chain line, u.owner = none → u.tide ≤ low → u.tide ≤ v.tide)

/-- R351: an island's power state is refused with PERR for code 3, and OFF while the island holds something; else it stands, and
an island that goes OFF loses its state: a core's, a front end's processors and cache, a link island's ports. DIVOK 0 is refused
with PERR; a divisor that it excludes hops, within 40 ticks, to the smallest permitted one above, or to the largest below. R355: a
droop begins at once or after the hop in progress. The model's choices in it: notes/assumptions/78.md. -/
def Sys2Proof.Claims.IslandsTakeTheirSettings : Prop :=
  ∀ (s : State) (n : Nat) (pst : BitVec 2) (divok : BitVec 15),
    let i := s.island n
    let refused (ins : Instr) : Prop := exec ins s = .next (s.updIsland n (fun i => { i with perr := true }))
    let now := match i.hop with
      | some (d, _) => d.toNat
      | none => i.div.toNat
    let free (d : Nat) : Prop := 2 ≤ d ∧ d ≤ 16 ∧ divok.getLsbD (d - 2) = true
    (n < 256 → s.inReset = false →
      ((pst = 3 ∨ (pst = 0 ∧ s.islandHolds n = true)) → refused (.islandPowerState n pst)) ∧
      (pst ≠ 3 → pst ≠ 0 → exec (.islandPowerState n pst) s = .next (s.updIsland n (fun i => { i with pst := pst, perr := false }))) ∧
      (s.islandHolds n = false → Claims.happens s (.islandPowerState n 0) (fun t =>
        t.island n = { i with pst := 0, perr := false } ∧
        (n < 192 → n % 6 < 4 → t.core (4 * (n / 6) + n % 6) = (s.core (4 * (n / 6) + n % 6)).cycled) ∧
        (192 ≤ n → let h := (n - 192) / 16
          (n % 16 = 14 → (t.terp h).cache = [] ∧ ∀ f, f / 8 = h → t.fep f = {}) ∧
          (n % 16 = 15 → (∀ d, d / 4 = h → t.port d = {}) ∧ (h = 0 → t.hostUp = false))) ∧
        ((n < 192 ∨ n % 16 ≠ 15) → Claims.sameMemory s t))) ∧
      (divok = 0 → refused (.islandDivisorPermit n divok)) ∧
      (divok ≠ 0 → free now →
        exec (.islandDivisorPermit n divok) s = .next (s.updIsland n (fun i => { i with divok := divok, perr := false }))) ∧
      (divok ≠ 0 → ¬ free now → ∃ d e, s.tick < e ∧ e ≤ s.tick + 40 ∧ free d.toNat ∧
        (now < d.toNat → ∀ x, now < x → x < d.toNat → ¬ free x) ∧
        (d.toNat < now → ∀ x, d.toNat < x → ¬ free x) ∧
        exec (.islandDivisorPermit n divok) s =
          .next (s.updIsland n (fun i => { i with divok := divok, hop := some (d, e), perr := false })))) ∧
    (n < 256 → i.hop = none → exec (.droopStart n) s = .next (s.updIsland n (fun i => { i with droop := true }))) ∧
    (n < 256 → i.hop ≠ none → exec (.droopStart n) s = .next (s.updIsland n (fun i => { i with droopHeld := true }))) ∧
    ((i.droop = true ∨ i.droopHeld = true) →
      exec (.droopEnd n) s = .next (s.updIsland n (fun i => { i with droop := false, droopHeld := false })))

/-- R320, R356: a window of 1 ms with fewer correctable errors than CETH lowers the supply by one step up to UVMAX, one with as
many raises it by one step, and nothing moves without UVEN; an uncorrectable error marks its place, and in an undervolted island
it stops the island's cycles, takes it to nominal voltage, counts the MARGIN event and notifies the host; the cycles resume
once nominal voltage is back. The model's choices in it: notes/assumptions/76.md, notes/assumptions/77.md. -/
def Sys2Proof.Claims.UndervoltingSteps : Prop :=
  ∀ (s : State) (n : Nat), n < 256 →
    let i := s.island n
    let found := if i.ceWindow = s.tick / 6600000 - 1 then i.ceCount else 0
    let event (i : Island) : Island :=
      { i with margin := true, uvs := 0, uven := false, mev := true, mcnt := .ofNat 8 (min 255 (i.mcnt.toNat + 1)) }
    (∀ e, siteIn s n e = true → (∀ pa, e ≠ .tier2 pa) →
      (i.uvs = 0 → exec (.undervoltWindow n false (some e)) s = .next (s.markSite false e)) ∧
      (i.uvs ≠ 0 → ∃ x : Notice, x.cause = 0x80 ∧ x.island = n ∧ exec (.undervoltWindow n false (some e)) s =
        .next (State.markSite { s.updIsland n event with notices := s.notices ++ [x] } true e))) ∧
    (∀ m k b sl, ∃ x ∈ ((s.markSite m (.w k b sl)).ctx k b).wPoison, markOf x = markOf sl) ∧
    (∀ m k l, ∃ x ∈ ((s.markSite m (.scratch k l)).core k).spPoison, markOf x = markOf l) ∧
    (∀ m k b qn j e, (Map.get [] (s.ctx k b).q qn)[j]? = some e → qn < 8 →
      ∃ x, (Map.get [] ((s.markSite m (.queue k b qn j)).ctx k b).q qn)[j]? = some x ∧ x.poison.isSome = true) ∧
    (∀ m k b yn j e, (Map.get [] (s.ctx k b).y yn)[j]? = some e → yn < 4 → e.ready = true →
      ∃ x, (Map.get [] ((s.markSite m (.queue k b (8 + yn) j)).ctx k b).y yn)[j]? = some x ∧ x.poison.isSome = true) ∧
    (∀ m cl j, ∃ x ∈ ((s.markSite m (.acs cl j)).cluster cl).acsPoison, markOf x = markOf j) ∧
    (∀ m cl pa, (s.markSite m (.basin cl pa true)).poisoned pa = true) ∧
    (∀ e, siteIn s n e = false → exec (.undervoltWindow n false (some e)) s = .next s) ∧
    exec (.undervoltWindow n false none) s = .next s ∧
    (∀ e, ∃ t, exec (.undervoltWindow n true none) s = .next t ∧
      exec (.undervoltWindow n true (some e)) s = exec (.undervoltWindow n false (some e)) t) ∧
    ((i.uven = false ∨ s.tick % 6600000 ≠ 0 ∨ i.windowAt = s.tick) → exec (.undervoltWindow n true none) s = .next s) ∧
    (i.uven = true → s.tick % 6600000 = 0 → i.windowAt ≠ s.tick → Claims.happens s (.undervoltWindow n true none) (fun t =>
      Claims.sameMemory s t ∧ t.cores = s.cores ∧
      (found < i.ceth.toNat → i.uvs.toNat < i.uvmax.toNat → t.island n = { i with windowAt := s.tick, uvs := i.uvs + 1 }) ∧
      (found < i.ceth.toNat → i.uvmax.toNat ≤ i.uvs.toNat → t.island n = { i with windowAt := s.tick }) ∧
      (i.ceth.toNat ≤ found → i.uvs ≠ 0 → t.island n = { i with windowAt := s.tick, uvs := i.uvs - 1 }) ∧
      (i.ceth.toNat ≤ found → i.uvs = 0 → t.island n = { i with windowAt := s.tick }))) ∧
    (i.margin = true → exec (.nominalVoltageRestored n) s = .next (s.updIsland n (fun i => { i with margin := false })))

/-- R352, R354: each 10 µs every tier is granted the lesser of its demand and its floor, and the surplus goes out in strict
order of tiers; ARB of every queue that no override paces is its share of the grants; an interval whose projection exceeds
the envelope is counted and reported, and the queues of the tiers above the override's are paced by it. The model's choices
in it: notes/assumptions/76.md, notes/assumptions/79.md. -/
def Sys2Proof.Claims.TheArbiterGrants : Prop :=
  ∀ s : State,
    let dem (t : Nat) : Nat := Config.tierDemand s.arbNo t
    let least (t : Nat) : Nat := min (dem t) (bitsOf s.arbfloor.toNat (16 * t + 15) (16 * t))
    let grant (t : Nat) : Nat := s.grants.getD t 0
    let exceeds : Prop := 1400 < Config.projected s.arbNo
    let paced (cl : Nat) : Prop := exceeds ∧ Config.overrideTier s.arbNo % 4 ≤ s.clusterTier cl ∧ s.clusterTier cl < 4
    let raised (cl : Nat) (old new : Pace) : Prop :=
      let f := Config.overrideFactor s.arbNo (s.clusterTier cl) + 1
      let up := min 65535 ((old.ceil.toNat * (65536 + f) + 65535) / 65536)
      new.arb.toNat = up ∧ new.overridden = decide (old.ceil.toNat < up)
    (∀ t < 4, least t ≤ grant t ∧ grant t ≤ dem t ∧ ∀ u < 4, t < u → grant t < dem t → grant u = least u) ∧
    (s.tick < s.arbAt → exec .arbiterInterval s = .next s) ∧
    (s.arbAt ≤ s.tick → Claims.happens s .arbiterInterval (fun t =>
      t.arbNo = s.arbNo + 1 ∧ t.arbAt = s.arbAt + 66000 ∧ t.cores = s.cores ∧ Claims.sameMemory s t ∧
      (∀ cl < 32,
        (¬ paced cl → (t.cluster cl).paceM.overridden = false ∧ (t.cluster cl).paceC.overridden = false ∧
          (t.cluster cl).paceM.arb.toNat = min 65535 (Config.arbGap s.arbNo cl 0 s.grants) ∧
          (t.cluster cl).paceC.arb.toNat = min 65535 (Config.arbGap s.arbNo cl 1 s.grants)) ∧
        (paced cl → raised cl (s.cluster cl).paceM (t.cluster cl).paceM ∧ raised cl (s.cluster cl).paceC (t.cluster cl).paceC)) ∧
      (exceeds → t.envcnt = s.envcnt + 1 ∧ ∃ n, t.notices = s.notices ++ [n] ∧ n.cause = 0x90 ∧
        ∀ cl < 32, ∀ p, ((t.cluster cl).paceM.overridden = true ∨ (t.cluster cl).paceC.overridden = true) →
          s.polderOfCluster cl = some p → n.polder ≤ p) ∧
      (¬ exceeds → t.envcnt = s.envcnt ∧ t.notices = s.notices)))

/-- R335, R338, R350: a unit whose sluice has let it pass, or whose owner has no curve of the class, arrives at a DRAM controller
or the fabric and takes as start tag the larger of the virtual time and its polder's finish tag, which then grows by 128 over the
weight; one that cannot pay takes its place in the line of its sluice; the server serves the polder with the smallest start tag, and a
polder whose weight is now 0 only where no other polder's unit waits, within it the units of owners with a curve in the order in
which they passed their sluices, the others after them in the order in which they came, and virtual time becomes the tag of the unit
served. The model's choices in it: notes/assumptions/80.md. -/
def Sys2Proof.Claims.ServersServeBySmallestTag : Prop :=
  ∀ (s : State) (sv : Server) (p o : Nat) (write : Bool), serverOk sv = true →
    let v := s.server sv
    let dram : Prop := ∃ k, sv = .dram k
    let V := v.v
    let F := Map.get (0, 1) v.f p
    let cs : List Charge := [{ cls := serverCls sv, last := write, bytes := 128 }]
    let passed (e : Passed) : Prop := e ∈ s.passed ∧ e.srv = sv ∧ e.polder = p ∧ e.owner = o
    let pays : Prop := (s.owner o).polder = p ∧ s.canPay o (.line sv write) cs = true
    (p < 16 → ((∃ e, passed e) ∨ s.curved o (serverCls sv) = false ∨ pays) →
      ∀ w, (dram → w = s.ptField p 8 2) → (¬ dram → w = s.ptField p 10 2) →
      Claims.happens s (.unitArrival sv p ⟨o, write⟩) (fun t =>
        let u := t.server sv
        (∃ x, u.waiting = v.waiting ++ [x] ∧ x.polder = p ∧ x.owner = o ∧ (w = 0 → x.tag = none) ∧
          ((∃ e, passed e) → ∃ e, passed e ∧ x.no = e.no) ∧
          (w ≠ 0 → ∃ g, x.tag = some g ∧ (V.1 * F.2 < F.1 * V.2 → g = F) ∧ (¬ V.1 * F.2 < F.1 * V.2 → g = V) ∧
            (Map.get (0, 1) u.f p).1 * (g.2 * w) = (g.1 * w + 128 * g.2) * (Map.get (0, 1) u.f p).2)) ∧
        u.v = v.v ∧ t.cores = s.cores ∧ Claims.sameMemory s t)) ∧
    (p < 16 → (∀ e, ¬ passed e) → s.curved o (serverCls sv) = true →
      ((s.owner o).polder ≠ p → exec (.unitArrival sv p ⟨o, write⟩) s = .next s) ∧
      ((s.owner o).polder = p → s.canPay o (.line sv write) cs = false →
        exec (.unitArrival sv p ⟨o, write⟩) s = .next (s.waitAtSluice o (.line sv write) cs))) ∧
    (v.waiting = [] → Claims.happens s (.unitService sv) (fun t => t.server sv = v ∧ Claims.sameMemory s t)) ∧
    (v.waiting ≠ [] → V.2 ≠ 0 → (∀ x ∈ v.waiting, ∀ g, x.tag = some g → g.2 ≠ 0) → ∀ weight : Nat → Nat,
      (dram → ∀ q, weight q = s.ptField q 8 2) → (¬ dram → ∀ q, weight q = s.ptField q 10 2) →
      let tag (x : UnitW) : Option (Nat × Nat) := if weight x.polder = 0 then none else some (x.tag.getD V)
      ∃ x ∈ v.waiting,
      (∃ m ∈ v.waiting, m.polder = x.polder ∧ ∀ y ∈ v.waiting, before tag y m = false) ∧
      (weight x.polder = 0 → ∀ y ∈ v.waiting, weight y.polder = 0) ∧
      (let sluiced (y : UnitW) : Prop := y ∈ v.waiting ∧ y.polder = x.polder ∧ s.curved y.owner (serverCls sv) = true
       ((∃ y, sluiced y) → sluiced x ∧ ∀ y, sluiced y → x.no ≤ y.no) ∧
       ((∀ y, ¬ sluiced y) → ∃ former later, v.waiting = former ++ x :: later ∧ ∀ y ∈ former, y.polder ≠ x.polder)) ∧
      Claims.happens s (.unitService sv) (fun t =>
        t.server sv = { v with v := (tag x).getD V, waiting := v.waiting.erase x } ∧ t.cores = s.cores ∧ Claims.sameMemory s t))

/-- No flit that came over a port stands in another's link buffer, forwarded and not acknowledged (R331). -/
def Sys2Proof.Claims.noneForwarded (s : State) (d : Nat) : Prop :=
  ∀ e ∈ s.ports, ∀ f ∈ e.2.out, ∀ o, f.fwd = some o → o.port ≠ d

/-- R325, R326, R334: TRAIN with EN sends a port that is OFF or in FAULT into TRAINING; its lanes lock and it is UP with fresh
sequences, full credit and empty buffers, or it is in FAULT where its latency would exceed a frozen one; without four locked
lanes it is in FAULT; EN cleared drains a port that is UP, and one whose flits and whose peer's are delivered and acknowledged
is OFF. -/
def Sys2Proof.Claims.PortsTrainAndDrain : Prop :=
  ∀ (s : State) (d delay pdev pport : Nat),
    let p := s.port d
    let q := 250 + 2 * delay
    let late : Prop := s.holdsDlk p.pol.toNat = true ∧ Map.get 0 s.tdlk p.pol.toNat < q
    let trained (t : State) (st : PortState) (late : Bool) (rply : BitVec 16) : Prop :=
      t.port d = { p with tlat := .ofNat 16 q, pdev := .ofNat 8 pdev, pport := .ofNat 4 pport, st := st, late := late,
                          rply := rply, out := [], seq := 0, credit := 64, rcmds := [], dead := [], buf := [], rseq := 0,
                          answers := [] }
    let drained : Prop := p.out = [] ∧ p.buf = [] ∧ Claims.noneForwarded s d
    (d < 16 → s.inReset = false →
      ((p.st = .off ∨ p.st = .fault) → Claims.happens s (.dlkTrain d) (fun t => t.port d =
        { p with en := true, late := false, st := .training, timeout := s.tick + 660000000 } ∧ Claims.sameMemory s t)) ∧
      (p.st ≠ .off → p.st ≠ .fault → Claims.happens s (.dlkTrain d) (fun t => t.port d = { p with en := true, late := false } ∧
        Claims.sameMemory s t)) ∧
      exec (.dlkDisable d) s = .next (s.updPort d (fun p =>
        { p with en := false, st := if p.st = .up then .draining else p.st }))) ∧
    (p.st = .training → s.tick ≤ p.timeout → Claims.happens s (.trainDone d delay pdev pport) (fun t =>
      (late → trained t .fault true p.rply) ∧ (¬ late → trained t .up false 0) ∧ Claims.sameMemory s t)) ∧
    (p.st = .training → exec (.trainTimeout d) s = .next (s.updPort d (fun p => { p with st := .fault }))) ∧
    (p.st ≠ .training → exec (.trainTimeout d) s = .next s) ∧
    (p.st = .draining → drained → Claims.happens s (.dlkDrained d) (fun t =>
      t.port d = { p with st := .off, rcmds := [], dead := [] } ∧ Claims.sameMemory s t)) ∧
    ((p.st ≠ .draining ∨ ¬ drained) → exec (.dlkDrained d) s = .next s)

/-- R326 to R328, R331: ACK takes its flit out of the link buffer: its command has one fewer outstanding, or ends where the peer
refused it, and the sender of a forwarded one is told; NAK replays the flit and every later one, and a second replay of one is
LOSS; CREDIT adds to the sender's credit, up to 64; IDLE does nothing; LOSS puts the port in FAULT with empty buffers, and the
commands that it leaves without an acknowledgement end. The model's choices in it: notes/assumptions/72.md,
notes/assumptions/74.md. -/
def Sys2Proof.Claims.AcknowledgementsMoveTheBuffer : Prop :=
  ∀ (s : State) (d n seq : Nat),
    let p := s.port d
    let live : Prop := p.st = .up ∨ p.st = .draining
    let later := p.out.filter (fun f => decide (seq ≤ f.seq))
    let noAcks : Prop := ∀ e ∈ s.fwd, e.2.acks = []
    let taken (t : State) : Prop := (t.port d).out = p.out.filter (fun f => f.seq != seq) ∧ (t.port d).st = p.st
    let ended (t : State) (c : Nat) : Prop := ∀ x, Map.find t.cmds c = some x → x.ending = .faulted
    let lost (t : State) : Prop := (t.port d).st = .fault ∧ (t.port d).out = [] ∧ (t.port d).buf = [] ∧
      (∀ j, j ≠ d → (∀ f ∈ p.out, ∀ o, f.fwd = some o → o.port ≠ j) →
        (∀ f ∈ (s.port j).out, ∀ o, f.fwd = some o → o.port ≠ d) → t.port j = s.port j) ∧
      ∀ f ∈ p.out, ∀ c, f.cmd = some c → ended t c
    exec (.idleFlit d) s = .next s ∧
    (live → Claims.happens s (.loss d) lost) ∧
    (¬ live → exec (.loss d) s = .next s) ∧
    (∀ f, p.out.find? (fun f => f.seq == seq) = some f → noAcks →
      (f.fwd = none → Claims.happens s (.ack d seq false) (fun t => taken t ∧ Claims.sameMemory s t ∧
        ∀ c x, f.cmd = some c → Map.find s.cmds c = some x → Map.find t.cmds c = some { x with unacked := x.unacked - 1 })) ∧
      (f.fwd = none → Claims.happens s (.ack d seq true) (fun t => taken t ∧ ∀ c, f.cmd = some c → ended t c)) ∧
      (∀ o refused, f.fwd = some o → o.port ≠ d → Claims.happens s (.ack d seq refused) (fun t => taken t ∧
        (t.port o.port).answers = (s.port o.port).answers ++ [.ack o.seq refused]))) ∧
    (later ≠ [] → (∀ f ∈ later, f.replayed = false) → Claims.happens s (.nak d seq) (fun t =>
      (t.port d).out = p.out.map (fun f => if seq ≤ f.seq then { f with replayed := true } else f) ∧
      (t.port d).rply.toNat = min 65535 (p.rply.toNat + later.length) ∧ (t.port d).st = p.st ∧ Claims.sameMemory s t)) ∧
    (live → (∃ f ∈ later, f.replayed = true) → Claims.happens s (.nak d seq) lost) ∧
    (later = [] → exec (.nak d seq) s = .next s) ∧
    (live → exec (.credit d n) s = .next (s.updPort d (fun p => { p with credit := min 64 (p.credit + n) }))) ∧
    (¬ live → exec (.credit d n) s = .next s)

namespace Sys2Proof.Claims

/-- A page of a polder that is plain, resident, writable and not privileged, whose leaf has AC set, maps a virtual address to a
physical one. -/
def plainAt (s : State) (polder va pa : Nat) : Prop :=
  ∃ la, s.leafAddr polder va = some la ∧
    let l := s.readLE la 8
    leafOk s l = true ∧ leafPolder l = polder ∧ leafBit l 1 = false ∧ leafBit l 2 = false ∧ leafBit l 3 = false ∧
    leafBit l 4 = false ∧ leafBit l 6 = false ∧ leafBit l 8 = true ∧
    pa = leafPa l va ∧ s.privPage pa = false ∧ s.doorbellOf pa = none ∧ s.poisoned pa = false

/-- A data flit as the receive buffer holds it. -/
def buffered (f : Flit) (kind rt : Nat) : InFlit :=
  { kind := kind, seq := f.seq, addr := f.addr, data := f.data, mask := f.mask, rt := rt, cmd := f.cmd, last := f.last }

/-- The flit that is expected next arrives, whole, on a port that is UP; what the port forwarded is acknowledged. -/
def expected (s : State) (d : Nat) (f : Flit) : Prop :=
  s.linkOn d = true ∧ (s.port d).st = .up ∧ f.bad = false ∧ f.seq = (s.port d).rseq ∧ noneForwarded s d

/-- The flit leaves the receive buffer, which frees its place, and is answered. -/
def answered (s t : State) (d : Nat) (f : Flit) (refused : Bool) : Prop :=
  (t.port d).answers = (s.port d).answers ++ [.credit 1, .ack f.seq refused] ∧ (t.port d).buf = [] ∧
  (t.port d).rseq = (s.port d).rseq + 1

end Sys2Proof.Claims

/-- R121, R221, R327: a flit that arrives on a port that is UP, with nothing before it in the buffer, writes the bytes that its
mask names, adds its elements, or writes or adds its signal value, at the virtual address it names in the port's polder, and is
acknowledged; a page that cannot be written refuses it, and what its command sends after it. The model's choices in it:
notes/assumptions/72.md, notes/assumptions/73.md, notes/assumptions/90.md. -/
def Sys2Proof.Claims.FlitsPerform : Prop :=
  ∀ (s : State) (d rt : Nat) (f : Flit) (add : Bool),
    let p := s.port d
    let pol := p.pol.toNat
    let fw : Instr := .flitWrite d f
    let fr : Instr := .flitReduce d f rt
    let fs : Instr := .signalFlit d f add
    Claims.expected s d f → p.buf = [] → s.fwdFor pol f.addr = none → Claims.nothingHeld s → s.vers = [] →
    (f.cmd ∉ p.dead →
      (∀ i b pa, maskRuns f.addr f.mask ((List.range f.data.length).zip f.data) = [(i, b)] →
        Claims.plainAt s pol (f.addr + i) pa →
        Claims.happens s fw (fun t => Claims.wrote s t pa b ∧ t.cores = s.cores ∧ Claims.answered s t d f false)) ∧
      (∀ i b rest, maskRuns f.addr f.mask ((List.range f.data.length).zip f.data) = (i, b) :: rest →
        s.leafAddr pol (f.addr + i) = none → Claims.happens s fw (fun t => Claims.sameMemory s t ∧
          Claims.answered s t d f true ∧ (f.last = false → f.cmd ∈ (t.port d).dead))) ∧
      (∀ e pa, groupsOf (if rt = 1 then 2 else 4) 128 f.data = [e] → Claims.plainAt s pol f.addr pa →
        Claims.happens s fr (fun t => t.cores = s.cores ∧ Claims.answered s t d f false ∧
          Claims.wrote s t pa (leBytes e.length (addElem rt (leOf (s.readBytes pa e.length)) (leOf e))))) ∧
      (∀ pa, Claims.plainAt s pol f.addr pa → Claims.happens s fs (fun t => t.cores = s.cores ∧
        Claims.answered s t d f false ∧
        Claims.wrote s t pa (leBytes 8 ((if add then leOf (s.readBytes pa 8) else 0) + leOf f.data))))) ∧
    (f.cmd ∈ p.dead → ∀ i ∈ [fw, fr, fs], Claims.happens s i (fun t => Claims.sameMemory s t ∧ t.vers = s.vers ∧
      Claims.answered s t d f true))

/-- R121, R326 to R328, R331: a flit whose CRC fails is answered by NAK; one that is not the next is dropped; a port that is not UP
refuses it, and what its command sends after it, while it drains only after every flit before it; else it enters the receive buffer
behind every earlier flit, where it stays while a flit of the port that went on is not acknowledged, and while a forwarding entry in
HOLD covers it; an entry in FORWARD sends it on. The model's choices in it: notes/assumptions/72.md, notes/assumptions/73.md. -/
def Sys2Proof.Claims.FlitsWaitOrAreRefused : Prop :=
  ∀ (s : State) (d rt : Nat) (f : Flit) (add : Bool),
    let p := s.port d
    let pol := p.pol.toNat
    let forms : List (Instr × InFlit) := [(.flitWrite d f, Claims.buffered f 1 0), (.flitReduce d f rt, Claims.buffered f 2 rt),
      (.signalFlit d f add, Claims.buffered f 3 (if add then 1 else 0))]
    let replies (i : Instr) (l : List Answer) : Prop := exec i s = .next (s.updPort d (fun p => { p with answers := p.answers ++ l }))
    let refuses (i : Instr) (l : List Answer) : Prop := Claims.happens s i (fun t =>
      (t.port d).answers = p.answers ++ l ∧ (t.port d).buf = p.buf ∧ (s.vers = [] → Claims.sameMemory s t) ∧
      (f.last = false → f.cmd ∈ (t.port d).dead))
    ∀ i h, (i, h) ∈ forms →
      let enters (t : State) : Prop := t.port d = { p with rseq := p.rseq + 1, buf := p.buf ++ [h] } ∧ Claims.sameMemory s t ∧
        t.vers = s.vers ∧ t.cores = s.cores
      (s.linkOn d = false → exec i s = .next s) ∧
      (s.linkOn d = true →
        ((p.st = .up ∨ p.st = .draining) → f.bad = true → replies i [.nak p.rseq]) ∧
        ((p.st = .up ∨ p.st = .draining) → f.bad = false → (f.seq ≠ p.rseq ∨ 64 ≤ p.buf.length) → exec i s = .next s) ∧
        (p.st = .draining → f.bad = false → f.seq = p.rseq → p.buf = [] → refuses i [.credit 1, .ack f.seq true]) ∧
        (p.st ≠ .up → p.st ≠ .draining → refuses i [.ack f.seq true])) ∧
      (s.linkOn d = true → f.bad = false → f.seq = p.rseq →
        (∀ g rest, p.buf = g :: rest → rest.length < 63 → (p.st = .up ∨ p.st = .draining) → exec i s =
          .next ((s.updPort d (fun p => { p with
            rseq := p.rseq + 1, buf := p.buf ++ [{ h with refuse := decide (p.st = .draining) }] })).serveLink d)) ∧
        (p.st = .up → p.buf = [] → s.fwdFor pol f.addr = none → f.cmd ∉ p.dead → ¬ Claims.noneForwarded s d →
          Claims.happens s i enters)) ∧
      (∀ j e, Claims.expected s d f → p.buf = [] → f.cmd ∉ p.dead → s.fwdFor pol f.addr = some (j, e) →
        let q := e.port.toNat
        let r := s.port q
        (e.st ≠ 2 → Claims.happens s i enters) ∧
        (e.st = 2 → q ≠ d → s.linkOn q = true → s.crossOn (d / 4) (q / 4) = true → r.st = .up → r.credit ≠ 0 →
          Claims.happens s i (fun t =>
          t.port q = { r with
            out := r.out ++ [{ seq := r.seq, kind := h.kind, addr := e.new.toNat + (f.addr - e.old.toNat), data := f.data,
                               mask := f.mask, rt := h.rt,
                               fwd := some { port := d, seq := f.seq, cmd := f.cmd, last := f.last } }],
            seq := r.seq + 1, credit := r.credit - 1 } ∧
          t.port d = { p with rseq := p.rseq + 1, answers := p.answers ++ [.credit 1] } ∧ Claims.sameMemory s t)))

/-- R121, R221, R327, R328, R331: flits perform at the address they name, or wait, go on or are refused. The model's choices in
it: notes/assumptions/72.md, notes/assumptions/73.md, notes/assumptions/90.md, notes/assumptions/114.md. -/
def Obligations.FlitsPerformAtTheirAddress : Prop := Claims.FlitsPerform ∧ Claims.FlitsWaitOrAreRefused

/-- R328, R331, R332: REMAPACK and FWDDONE take their place in the receive buffer like any flit: one that is damaged is sent again,
one out of its turn is dropped, and a port that drains refuses it. REMAPACK at the head is acknowledged, and at every active entry
that its range meets waits until all of these have forwarded and seen acknowledged all that came for them: FWDDONE goes out and they
are free; with no entry FWDDONE answers at once. A write of LRSW sets SWITCH and sends REMAPACK on the old port, or waits for credit,
and FWDDONE at the head gives BASE and PORT their new values and clears SWITCH. The host sets an entry to HOLD or FORWARD. The
model's choices in it: notes/assumptions/75.md. -/
def Sys2Proof.Claims.RemapsSwitch : Prop :=
  ∀ (s : State) (d len i : Nat) (f : Flit) (v : BitVec 64),
    let p := s.port d
    let live : Prop := s.linkOn d = true ∧ (p.st = .up ∨ p.st = .draining)
    let next : Prop := f.bad = false ∧ f.seq = p.rseq
    let hits (e : Fwd) : Prop := e.st ≠ 0 ∧ e.pol = p.pol ∧ e.old.toNat < f.addr + len ∧ f.addr < e.old.toNat + e.len.toNat
    let a := (d, f.addr, len)
    let done (l : List OutFlit) : Prop := ∃ g, l = p.out ++ [g] ∧ g.kind = 8 ∧ g.addr = f.addr ∧ g.data = leBytes 8 len ∧
      g.seq = p.seq
    let told (q : Port) : Prop := q.answers = p.answers ++ [.credit 1, .ack f.seq false] ∧ q.buf = [] ∧ q.rseq = p.rseq + 1
    (∀ e ∈ [(Instr.remapack d f len, 7), (.fwddone d f len, 8)],
      (s.linkOn d = false → exec e.1 s = .next s) ∧
      (s.linkOn d = true → ¬ live → exec e.1 s = .next (s.updPort d (fun p => { p with answers := p.answers ++ [.ack f.seq true] }))) ∧
      (live → f.bad = true → exec e.1 s = .next (s.updPort d (fun p => { p with answers := p.answers ++ [.nak p.rseq] }))) ∧
      (live → f.bad = false → (f.seq ≠ p.rseq ∨ 64 ≤ p.buf.length) → exec e.1 s = .next s) ∧
      (live → next → p.buf = [] → p.st = .draining → Claims.happens s e.1 (fun t => Claims.sameMemory s t ∧ t.port d =
        { p with rseq := p.rseq + 1, answers := p.answers ++ [.credit 1, .ack f.seq true] })) ∧
      (live → next → ∀ g rest, p.buf = g :: rest → rest.length < 63 → exec e.1 s = .next ((s.updPort d (fun p => { p with
        rseq := p.rseq + 1,
        buf := p.buf ++ [{ kind := e.2, seq := f.seq, addr := f.addr, mask := len, refuse := decide (p.st = .draining) }] })).serveLink d))) ∧
    (live → next → p.st = .up → p.buf = [] →
      ((∀ x ∈ s.fwd, ¬ hits x.2) → Claims.happens s (.remapack d f len) (fun t => Claims.sameMemory s t ∧ t.fwd = s.fwd ∧
        (p.credit = 0 → (t.port d).buf.length = 1 ∧ (t.port d).out = p.out ∧ (t.port d).answers = p.answers) ∧
        (p.credit ≠ 0 → done (t.port d).out ∧ told (t.port d) ∧ (t.port d).credit = p.credit - 1))) ∧
      (∀ n e, Map.find s.fwd n = some e → hits e → (∀ x ∈ s.fwd, x.2.acks = []) → s.fwd.Pairwise (fun x y => x.1 ≠ y.1) →
        Claims.happens s (.remapack d f len) (fun t => Claims.sameMemory s t ∧ told (t.port d) ∧
        let ready : Prop := p.credit ≠ 0 ∧ ∀ x ∈ s.fwd, hits x.2 → fwdQuiet s x.1 x.2 = true
        (ready → Map.get {} t.fwd n = { e with st := 0 } ∧ done (t.port d).out) ∧
        (¬ ready → Map.get {} t.fwd n = { e with acks := [a] } ∧ (t.port d).out = p.out))) ∧
      (∀ x, switching s d f.addr len = some x →
        let w := s.readLE x 8
        let n := s.readLE (x + 16) 8
        Claims.happens s (.fwddone d f len) (fun t =>
          let u := t.readLE x 8
          told (t.port d) ∧ bitsOf u 59 0 = bitsOf n 59 0 ∧ u.testBit 61 = false ∧ bitsOf u 60 60 = bitsOf w 60 60 ∧
          bitsOf u 63 62 = bitsOf w 63 62 ∧ ∀ y, (y < x ∨ x + 8 ≤ y) → t.readByte y = s.readByte y)) ∧
      (switching s d f.addr len = none → Claims.happens s (.fwddone d f len) (fun t => told (t.port d) ∧ Claims.sameMemory s t))) ∧
    (s.inReset = false → s.lrswWait = [] →
      let a := s.lrtbase.toNat + 32 * (v.toNat % 65536)
      let w := s.readLE a 8
      let o := bitsOf w 59 56
      let q := s.port o
      let sets (t : State) : Prop := t.lrswWait = [] ∧ t.readLE a 8 = (if w.testBit 61 then w else w + 2 ^ 61) ∧
        ∀ x, (x < a ∨ a + 8 ≤ x) → t.readByte x = s.readByte x
      (q.st ≠ .up → Claims.happens s (.lrswWrite v) (fun t => sets t ∧ t.ports = s.ports)) ∧
      (q.st = .up → q.credit ≠ 0 → s.linkOn o = true → Claims.happens s (.lrswWrite v) (fun t => sets t ∧
        ∃ f, (t.port o).out = q.out ++ [f] ∧ f.kind = 7 ∧ f.addr = bitsOf w 55 0 ∧ f.seq = q.seq ∧
          (t.port o).credit = q.credit - 1)) ∧
      (q.st = .up → (q.credit = 0 ∨ s.linkOn o = false) →
        exec (.lrswWrite v) s = .next { s with lrsw := .ofNat 16 v.toNat, lrswWait := [v.toNat % 65536] })) ∧
    (i < 64 → s.inReset = false → ∀ st : BitVec 2, (st = 1 ∨ st = 2) →
      Claims.happens s (.fwdStateWrite i st) (fun t => Map.get {} t.fwd i = { Map.get {} s.fwd i with st := st } ∧
        t.ports = s.ports ∧ Claims.sameMemory s t))

/-- R324: a tier-2 port that is lost poisons the lines of its range whose reads were not answered or whose writes were not
acknowledged, and its range answers no more; the access at the head of an issue buffer, the fetch and the command's next step that
awaited such a line are answered by a poisoned one. The model's choices in it: notes/assumptions/128.md. -/
def Sys2Proof.Claims.LostPortsPoisonTheirLines : Prop :=
  ∀ (s : State) (p : Nat) (rd wr : List Nat),
    let x : T2Port := Map.get {} s.t2 p
    let happens (q : State → Prop) : Prop := Claims.happens s (.t2PortLost p rd wr) q
    let awaited (y : Xlat) : Prop := y.dem = false ∧ lineOf y.pa ∈ rd ∧ s.t2PortOf (lineOf y.pa) = some p
    (p < 12 → x.up = true →
      happens (fun t =>
        Map.get {} t.t2 p = { x with lost := true, up := false } ∧
        (∀ j, j ≠ p → Map.get ({} : T2Port) t.t2 j = Map.get {} s.t2 j) ∧
        (∀ l ∈ rd ++ wr, s.t2PortOf l = some p → t.poisoned l = true) ∧
        (∀ a, s.poisoned a = true → t.poisoned a = true) ∧
        (∀ a, s.poisoned a = false → t.poisoned a = true → ∃ l ∈ rd ++ wr, s.t2PortOf l = some p ∧ lineOf l = lineOf a) ∧
        Claims.sameMemory s t) ∧
      (∀ k b st e rest va y, ((s.ctx k b).seq st).ib = e :: rest → va ∈ ibReads e.op → inWindow va = false →
        s.translate (s.viaIb k b st) va .read = .ok y → awaited y →
        happens (fun t => ((t.ctx k b).seq st).ib = { e with lost := true } :: rest)) ∧
      (∀ k st y, (s.act k).st = .running → (s.seq k st).stopped = false → s.fetchesMemory k st = true →
        s.translate (s.viaIssue k (s.bank k)) (s.seq k st).pc.toNat .read = .ok y → awaited y →
        happens (fun t => (t.seq k st).lost = true)) ∧
      (∀ id c r va y, Map.find s.cmds id = some c → c.started = true → r ∈ (stepPlan s c).reads → va ∈ (spanLines r).map (·.1) →
        inWindow va = false → s.translate (s.viaCmd c) va .read = .ok y → awaited y →
        happens (fun t => ∃ d, Map.find t.cmds id = some d ∧ lineOf va ∈ d.lost))) ∧
    ((12 ≤ p ∨ x.up = false) → exec (.t2PortLost p rd wr) s = .next s)

/-- R336, R342, R343: the levee engine takes a declaration of an owner of its polder into evaluation, and then settles it: it puts
the path with its bound in force, or leaves the owner as it was, and writes the verdict record in the same step, unless the
command is killed or its page is held. The model's choices in it: notes/assumptions/53.md, notes/assumptions/55.md. -/
def Sys2Proof.Claims.DeclarationsAreJudged : Prop :=
  ∀ (s : State) (own polder id bound : Nat) (path : List PStep) (rest : List LevReq) (c : Cmd),
    let o := s.owner own
    let enters : Prop := o.polder = polder ∧ (o.st = .free ∨ o.st = .admitted)
    s.levQ = .declare id own polder path bound :: rest →
    (enters → exec .leveeEvaluate s =
      .next (s.updOwner own (fun e => { e with st := .evaluating, prior := o.st }))) ∧
    (¬ enters → s.levHeld = [] → s.pctlHeld = [] → Map.find s.cmds id = some c → c.id = id →
      let f : Flow := { own := own, polder := polder, path := path }
      let e := verdictOn (State.nextSeq { s.bump with levQ := rest }).setTdlk own polder path bound
      let status := if e.reason = 0 then 0 else 3
      Claims.happens s .leveeEvaluate (fun t => t.levQ = rest ∧ t.levSeq = s.levSeq + 1 ∧
        (e.reason = 0 → (t.owner own).st = .admitted ∧ (t.owner own).pub = bound ∧ (t.owner own).cur = curOf e f ∧
          (t.owner own).path.map (fun k => (k.cls, k.sigma, k.rho)) = path.map (fun k => (k.cls, k.sigma, k.rho))) ∧
        (e.reason ≠ 0 → (t.owner own).pub = o.pub ∧ (t.owner own).path = o.path ∧
          (o.st = .evaluating → o.polder = polder → (t.owner own).st = o.prior)) ∧
        ((c.killed = true ∨ rangeMoving s c (c.w 2, 288) = true) → Claims.noMirror s →
          ∃ r, r.length = 288 ∧ Map.find t.cmds id = some { c with status := status, wait := none, record := r }) ∧
        (∀ k b, c.opc = 15 → c.killed = false → s.findOid c.oid = some (k, b) → s.islandOn (coreIsland k) = true →
          (∀ v ∈ s.saved, v.ctx.oid ≠ c.oid) → c.w 2 + 288 ≤ 2 ^ 64 →
          (∀ p ∈ spanLines (c.w 2, 288), inWindow p.1 = true ∧ bankFault (s.ctx k b).bankSet (p.1 % 2 ^ 20) p.2 = none) →
          let at_ (i n : Nat) : Nat := leOf ((List.range n).map (fun j => Map.get 0 (t.core k).sp (c.w 2 % 2 ^ 20 + i + j)))
          Map.find t.cmds id = some { c with status := status, wait := none, record := [], ending := .stepped } ∧
          at_ 0 1 = (if e.reason = 0 then 0 else 1) ∧ at_ 1 1 = e.reason % 256 ∧ at_ 2 2 = e.named.getD own % 65536 ∧
          at_ 4 1 = e.cls % 256 ∧ at_ 5 1 = e.rounds % 256 ∧ at_ 6 2 = 0 ∧ at_ 8 4 = e.excess % 2 ^ 32 ∧
          at_ 12 4 = (if e.computed then curOf e f else 2 ^ 32 - 1) % 2 ^ 32 ∧ at_ 16 8 = (s.levSeq + 1) % 2 ^ 64 ∧ at_ 24 8 = 0 ∧
          ∀ j < 16,
            at_ (32 + 16 * j) 8 = (if e.computed then (path[j]?.map (fun p => Map.get 0 e.d (nodeKey polder p.cls))).getD 0 else 0)
              % 2 ^ 64 ∧
            at_ (40 + 16 * j) 8 = (if e.computed then (bursts e.db polder none path).getD j 0 else 0) % 2 ^ 64)))

/-- R336, R342, R345, R348: a host request waits in the levee engine's queue, or is held while LEVREQ is BUSY. The engine settles
the first request: ASSIGN and REVOKE change an owner in the states that admit them and are refused otherwise; WEIGHT writes the
weight where no bound breaks; START turns the polder on where no bound breaks. SEQ counts every settled request. The model's choices
in it: notes/assumptions/53.md, notes/assumptions/55.md. -/
def Sys2Proof.Claims.LeveeRequestsAreSettled : Prop :=
  ∀ (s : State) (own polder cls wgt : Nat),
    let asks (i : Instr) (r q : LevReq) : Prop :=
      (s.levBusy = false → exec i s = .next { s with levQ := s.levQ ++ [q] }) ∧
      (s.levBusy = true → exec i s = .next { s with levHeld := s.levHeld ++ [r] })
    let u (r : List LevReq) : State := State.nextSeq { s.bump with levQ := r }
    let o := s.owner own
    (s.inReset = false → own < 1024 → polder < 16 → cls < 8 → wgt < 65536 →
      asks (.revoke own) (.revoke own) (.revoke own) ∧
      asks (.assign own polder) (.assign own polder) (if o.st = .evaluating then .late own else .assign own polder) ∧
      ((cls = clsDram ∨ cls = clsFab) → asks (.weight polder cls wgt) (.weight polder cls wgt) (.weight polder cls wgt)) ∧
      (cls ≠ clsDram → cls ≠ clsFab → asks (.weight polder cls wgt) .malformed .malformed)) ∧
    (s.levQ = [] → exec .leveeEvaluate s = .next s) ∧
    (∀ rest, s.levHeld = [] → s.pctlHeld = [] →
      let keeps (t : State) : Prop := (t.owner own).st = o.st ∧ (t.owner own).polder = o.polder ∧ (t.owner own).pub = o.pub
      let settles (p : State → Prop) : Prop := Claims.happens s .leveeEvaluate (fun t =>
        t.levQ = rest ∧ t.levSeq = s.levSeq + 1 ∧ t.cores = s.cores ∧ p t)
      let refused : Prop := settles (fun t => t.levRes = 1 ∧ t.levNamed = .ofNat 10 own ∧ keeps t)
      (s.levQ = .assign own polder :: rest →
        ((o.st = .unassigned ∨ o.st = .free) → settles (fun t => t.levRes = 0 ∧ (t.owner own).st = .free ∧ (t.owner own).polder = polder)) ∧
        ((o.st = .evaluating ∨ o.st = .admitted) → refused)) ∧
      (s.levQ = .late own :: rest → refused) ∧
      (s.levQ = .revoke own :: rest →
        (o.st = .admitted → settles (fun t => t.levRes = 0 ∧ (t.owner own).st = .free ∧ (t.owner own).path = [] ∧ (t.owner own).pub = 0)) ∧
        (o.st ≠ .admitted → refused)) ∧
      (s.levQ = .weight polder cls wgt :: rest → wgt < 65536 →
        let off := if cls = clsDram then 8 else 10
        (∀ v, (u rest).weigh { ovr := some (polder, cls, wgt) } = .ok v → settles (fun t => t.levRes = 0 ∧
          (Claims.noMirror s → t.ptField polder off 2 = wgt ∧
            ∀ a, (a < s.ptAddr polder + off ∨ s.ptAddr polder + off + 2 ≤ a) → t.readByte a = s.readByte a))) ∧
        (∀ a b c, (u rest).weigh { ovr := some (polder, cls, wgt) } = .error (a, b, c) → settles (fun t => t.levRes = 1 ∧
          t.levReason = .ofNat 8 a ∧ t.levNamed = .ofNat 10 b ∧ (Claims.noMirror s → Claims.sameMemory s t)))) ∧
      (s.levQ = .malformed :: rest → Claims.happens s .leveeEvaluate (fun t =>
        t.levQ = rest ∧ t.levRes = 2 ∧ t.levSeq = s.levSeq ∧ t.owners = s.owners ∧ Claims.sameMemory s t))) ∧
    (s.levQ = [.start polder] → s.levHeld = [] → s.pctlHeld = [] →
      (∀ v, (u []).weigh { on := some polder } = .ok v → Claims.happens s .leveeEvaluate (fun t =>
        t.pctlBusy = false ∧ t.pctlErr = false ∧ (Claims.noMirror s → t.polderSt polder = 1 ∧
          ∀ k, s.holdsCluster polder (k / 4) = true → t.core k = (s.core k).cycled))) ∧
      (∀ a b c, (u []).weigh { on := some polder } = .error (a, b, c) → Claims.happens s .leveeEvaluate (fun t =>
        t.pctlBusy = false ∧ t.pctlErr = true ∧ t.levReason = .ofNat 8 a ∧ (Claims.noMirror s → Claims.sameMemory s t))))

/-- R336, R342, R343, R345, R348: requests of the levee engine, and its verdicts. The model's choices in it:
notes/assumptions/53.md, notes/assumptions/55.md, notes/assumptions/62.md. -/
def Obligations.LeveeRequestsAreSettled : Prop :=
  Claims.LeveeRequestsAreSettled ∧ Claims.DeclarationsAreJudged

/-- R7, R8, R243, R347, R352, R353, R357, R362: a write of a register of a front-end block takes the fields that software may
write: the base registers, ARBFLOOR within the envelope, THERM with TREL below TMIG, the notice ring while it is empty, CONS
of its index, and HOST of a queue's PACE. The offsets of the three queue base registers are the model's
(notes/assumptions/14.md). The model's choices in it: notes/assumptions/14.md. -/
def Sys2Proof.Claims.RegisterWritesTakeEffect : Prop :=
  ∀ (s : State) (t : Nat) (v : BitVec 64), t < 4 → s.inReset = false →
    let n := v.toNat
    let base : BitVec 48 := .ofNat 48 (n / 65536 % 2 ^ 32 * 65536)
    let field (k : Nat) : Nat := n / 2 ^ (16 * k) % 65536
    let writes (off : Nat) (u : State) : Prop := exec (.registerWrite t off v) s = .next u
    let asks (off : Nat) (i : Instr) : Prop := exec (.registerWrite t off v) s = exec i s
    let tmig := n % 256
    let trel := n / 256 % 256
    writes 0x0000 { s with qgbase := base } ∧ writes 0x0008 { s with qpbase := base } ∧ writes 0x0010 { s with qdbase := base } ∧
    (t = 0 → writes 0x0060 { s with lrtbase := base } ∧ asks 0x0068 (.lrswWrite v) ∧ writes 0x0080 { s with ptbase := base } ∧
      (let kind := n / 2 ^ 54 % 4
       let own := n / 2 ^ 32 % 1024
       let pol := n / 2 ^ 48 % 16
       (kind = 0 → asks 0x0070 (.revoke own)) ∧ (kind = 1 → asks 0x0070 (.assign own pol)) ∧
       (kind = 2 → asks 0x0070 (.weight pol (n / 2 ^ 45 % 8) (n / 65536 % 65536))) ∧
       (kind = 3 → s.levBusy = false → writes 0x0070 { s with levQ := s.levQ ++ [.malformed] })) ∧
      (let op := n / 16 % 8
       let pol := n % 16
       (op = 0 → asks 0x0088 (.polderStart pol)) ∧ (op = 1 → asks 0x0088 (.polderStop pol)) ∧ (op = 2 → asks 0x0088 (.sliceend pol)) ∧
       (op = 3 → asks 0x0088 (.slicestart pol)) ∧ (op = 4 → asks 0x0088 (.polderReset pol)) ∧
       (5 ≤ op → Claims.pctlFree s pol → writes 0x0088 { s with pctlErr := true })) ∧
      (field 0 + field 1 + field 2 + field 3 ≤ 1400 → writes 0x0090 { s with arbfloor := v }) ∧
      (1400 < field 0 + field 1 + field 2 + field 3 → writes 0x0090 s) ∧
      writes 0x00A8 { s with nrCons := .ofNat 32 (n / 2 ^ 32) } ∧
      (s.nrProd ≠ s.nrCons → writes 0x00A0 s) ∧
      (s.nrProd = s.nrCons → writes 0x00A0 { s with
        nringBase := .ofNat 52 (n / 4096),
        nringLog2 := if 4 ≤ n % 16 ∧ n % 16 ≤ 12 then .ofNat 4 (n % 16) else 4 })) ∧
    (trel < tmig → Claims.happens s (.registerWrite t 0x0098 v) (fun u => Claims.sameMemory s u ∧
      u.terp t = { s.terp t with tmig := .ofNat 8 n, trel := .ofNat 8 (n / 256) } ∧ (∀ j, j ≠ t → u.terp j = s.terp j) ∧
      ∀ k, let co := s.core k
        (k / 32 ≠ t → u.core k = co) ∧
        (k / 32 = t → ∃ r, (s.overridden k = true → r = (s.terp t).ovTemp.toNat) ∧
          (tmig ≤ r → u.core k = { co with migReq := true }) ∧
          (r < trel → u.core k = { co with migReq := false, excluded := false }) ∧
          (trel ≤ r → r < tmig → u.core k = co)))) ∧
    (tmig ≤ trel → writes 0x0098 s) ∧
    (∀ i < 4, let d := 4 * t + i
      let p := s.port d
      (p.st ≠ .off → n % 4 = 3 → asks (0x0100 + 8 * i) (.dlkTrain d)) ∧
      (p.st ≠ .off → n % 4 = 0 → asks (0x0100 + 8 * i) (.dlkDisable d)) ∧
      (p.st = .off → Claims.happens s (.registerWrite t (0x0100 + 8 * i) v) (fun u =>
        (u.port d).pol = .ofNat 4 (n / 65536) ∧ (u.port d).en = decide (n % 2 = 1) ∧
        ((u.port d).st = .training ↔ n % 4 = 3)))) ∧
    (∀ i < 8, writes (0x0600 + 16 * i) (s.updCluster (8 * t + i) (fun c => { c with paceM := { c.paceM with host := .ofNat 16 n } })) ∧
      writes (0x0608 + 16 * i) (s.updCluster (8 * t + i) (fun c => { c with paceC := { c.paceC with host := .ofNat 16 n } })))

/-- R24: the package takes a configuration image whose signature verifies under the root key and whose rollback counter is no
lower than the enclave's, with the tier-2 ranges that its bytes assign, the last one named for a port, and firmware images of which
the same holds, whose bytes are put into the front-end processors; with any other image it stays in reset, and the identity keys and
the certificate stay. Every register is at its reset value. The model's choices in it: notes/assumptions/3.md,
notes/assumptions/4.md, notes/assumptions/116.md. -/
def Sys2Proof.Claims.PackageResetsTakeAnImage : Prop :=
  ∀ (s : State) (img : ConfigImage),
    let fresh : State := { State.reset with agenda := s.agenda, fresh := s.fresh, nextId := s.nextId, hostMem := s.hostMem,
                                            hostUp := s.hostUp, identity := s.identity, certificate := s.certificate }
    let good (i : SignedImage) : Prop :=
      Config.verify Config.rootKey i.signature (Config.digest 64 i.file) = true ∧ Config.rollback ≤ Config.imageCounter i.file
    let allGood : Prop := good img.config ∧ ∀ f ∈ img.firmware, good f
    let ranges := Config.imageRanges img.config.file
    let code := img.firmware.flatMap (fun f => Config.imageCode f.file)
    exec (.packageReset none) s = .next { fresh with inReset := true } ∧
    (¬ allGood → exec (.packageReset (some img)) s = .next { fresh with inReset := true }) ∧
    (allGood → Claims.happens s (.packageReset (some img)) (fun t => t = { fresh with t2 := t.t2, feps := t.feps } ∧
      (∀ n i, Map.get 0 (t.fep n).mem i =
        (((code.filter (fun e => decide (n < 32 ∧ e.1 = n ∧ e.2.1 ≤ i ∧ i < e.2.1 + e.2.2.length))).getLast?).map
          (fun e => e.2.2.getD (i - e.2.1) 0)).getD 0) ∧
      (∀ n, t.fep n = { mem := (t.fep n).mem }) ∧
      ∀ p, Map.find t.t2 p =
        ((ranges.filter (fun e => decide (e.1 = p ∧ p < 12 ∧ 0x10000000000 ≤ e.2.1 ∧
            e.2.1 + e.2.2 * 1048576 ≤ 0x30000000000))).getLast?).map
          (fun e => { base := e.2.1, sizeMiB := e.2.2, up := decide (e.2.2 ≠ 0) })))

/-- R19, R309, R347, R365: the host's bytes reach the physical addresses they name, but for ZCNT and the weights of a polder that
is not OFF, which stay, and stop the machine at one that does not exist; an object whose slot they overwrite is gone; they wait for
memory that takes no cycles; the host's frames join a polder's list. The model's choices in it: notes/assumptions/81.md. -/
def Sys2Proof.Claims.HostWritesReachMemory : Prop :=
  ∀ (s : State) (pa p : Nat) (data : List Byte) (tier2 : Bool) (l : List Nat), s.inReset = false →
    let exists_ (pa n : Nat) : Prop := ∀ a, pa ≤ a → a < pa + n → s.paOk a = true
    let plain : Prop := s.qdbase = 0 ∧ s.poison = [] ∧ Claims.nothingHeld s
    let table := s.ptbase.toNat
    let framed : Prop := p < 16 ∧ ∀ f ∈ l, f % 65536 = 0 ∧ s.paOk f = true ∧ (inDram f = true ↔ tier2 = false)
    (exists_ pa data.length → plain →
      (pa + data.length ≤ table ∨ table + 4096 ≤ pa → Claims.happens s (.hostMemoryWrite (.bytes pa data)) (fun t =>
        Claims.wrote s t pa data ∧ ((∀ a, (s.obj a).arrivals = []) → t.cores = s.cores) ∧
        ∀ a, pa ≤ a → a < pa + data.length → Map.find t.objs (lineOf a) = none)) ∧
      (p < 16 → table + 256 * p + 48 ≤ pa → pa + data.length ≤ table + 256 * p + 56 →
        Claims.happens s (.hostMemoryWrite (.bytes pa data)) (fun t => Claims.sameMemory s t)) ∧
      (p < 16 → s.polderSt p ≠ 0 → table + 256 * p + 8 ≤ pa → pa + data.length ≤ table + 256 * p + 12 →
        Claims.happens s (.hostMemoryWrite (.bytes pa data)) (fun t => Claims.sameMemory s t))) ∧
    (∀ a, pa ≤ a → a < pa + data.length → s.paOk a = false → exists_ pa (a - pa) →
      exec (.hostMemoryWrite (.bytes pa data)) s = .fault (.physicalHole a)) ∧
    (exists_ pa data.length → data ≠ [] → s.paStopped 32 pa = true → exec (.hostMemoryWrite (.bytes pa data)) s = .next s) ∧
    (framed → Claims.happens s (.hostMemoryWrite (.frames p tier2 l)) (fun t =>
      let old := Map.get [] s.frames (frameList p tier2)
      Map.get [] t.frames (frameList p tier2) = old ++ l.filter (fun f => !old.contains f) ∧
      (∀ j, j ≠ frameList p tier2 → Map.get [] t.frames j = Map.get [] s.frames j) ∧ Claims.sameMemory s t)) ∧
    (¬ framed → exec (.hostMemoryWrite (.frames p tier2 l)) s = .next s)

/-- R53, R292: an image is placed only if it is well-formed, its signature, where it has one, verifies, a polder that asks for one
has enrolled its key, and its relocations hold; else no section of it goes to memory. The model's choices in it:
notes/assumptions/81.md, notes/assumptions/82.md. -/
def Sys2Proof.Claims.ImagesAreVerifiedAndPlaced : Prop :=
  ∀ (s : State) (p : Nat) (img : ImageFile), p < 16 → s.inReset = false →
    let required : Prop := (s.ptField p 1 1).testBit 0 = true
    let verified : Prop := ∀ key sig, sigOf img.file = some (key, sig) →
      Config.verify key sig (messageOf img.file) = true ∧ (required → enrolled s p key = true)
    let signed : Prop := verified ∧ (required → sigOf img.file ≠ none)
    let relocated := Sys2Proof.Machine.loaded img img.maps
    let ends (v : Nat) : Prop := exec (.imageLoad p img) s = .next { s with loadEnd := v }
    (wellFormed img.file = false → ends 3) ∧
    (wellFormed img.file = true → ¬ signed → ends 2) ∧
    (wellFormed img.file = true → signed → relocated = none → ends 3) ∧
    (wellFormed img.file = true → signed → ∀ va b pa, relocated = some [(va, b)] → objectsOf img = [] →
      b ≠ [] → va % 128 + b.length ≤ 128 → s.feAddr p va = some pa → s.qdbase = 0 → s.poison = [] →
      (pa + b.length ≤ s.ptbase.toNat ∨ s.ptbase.toNat + 4096 ≤ pa) →
      Claims.happens s (.imageLoad p img) (fun t => Claims.wrote s t pa b ∧ t.loadEnd = 1 ∧
        ((∀ a, (s.obj a).arrivals = []) → t.cores = s.cores)))

namespace Sys2Proof.Claims

/-- Parcels as they lie in memory: each little-endian, the first lowest (R34, R56). -/
def parcels (l : List Nat) : List Byte := l.flatMap (leBytes 4)

/-- Words that the spec writes out with what they stand for, as parcels: R129, R130, R138, R139, R147, R151, R152, R279, R293, R317,
the worked encodings of chapters 03, 04, 07, 08, 10 and 20 to 22. -/
def words : List (List Nat × Instr) :=
  let w (row slc wid str : Nat) : WOp :=
    { row := .ofNat 10 row, slc := .ofNat 7 slc, wid := .ofNat 2 wid, dir := .r, str := .ofNat 3 str, rb := false }
  let v (ty : Ty) : VCtl := { g := noGuard, pred := 0, ty := ty }
  [([0x00021304], .add noGuard 3 1 2), ([0xFFFF4408], .addi 4 4 (-1)), ([0x00010908], .addi 9 0 1),
   ([0x0090142C], .ld .z64 4 1 0 0), ([0x00196628], .extu noGuard 6 6 9), ([0xFFD22134], .blt 1 2 (-3)),
   ([0x002B0034], .bnt 2), ([0x22005640], .loopReg 1 4 5 6), ([0x20400344], .lend 1 2 false 0 0 3),
   ([0x001C6044], .lend 0 0 true 6 6 0), ([0x00020148], .give noGuard 1 2), ([0x00110048], .take noGuard 0 1),
   ([0x0000CD60], .bqput noGuard 13 12), ([0x00100250], .pushb noGuard 2), ([0x00630154], .csrr 1 0x63),
   ([0x10625054], .csrw 0x62 5), ([0x10000058], .halt), ([0x20000058], .stop), ([0x30000058], .yield), ([0x40000058], .abort),
   ([0x00010064], .vrnd .rtz), ([0x00194501], .rwaitf noGuard 5 4 9), ([0x00121501], .rwaitf noGuard 5 1 2),
   ([0x00727601], .crecv noGuard 6 7 2), ([0x00301305], .barr noGuard 3 1), ([0x00431405], .bwait noGuard 4 1 3),
   ([0x00101209], .acq noGuard 2 1), ([0x00201009], .rel noGuard 1), ([0x0000120D], .xbeg noGuard 2 1),
   ([0x0010020D], .xend noGuard 2), ([0x0020000D], .xabt noGuard), ([0x0030020D], .xst noGuard 2),
   ([0x07000202, 0x00090410, 0x04000A04], .vadd (v .s16) (w 7 4 2 0) (w 9 0 2 0) (w 10 0 2 0)),
   ([0x28000A0E, 0x000C0400, 0x24001404], .vfma (v .h) (w 40 0 2 0) (w 12 0 2 0) (w 20 0 2 1)),
   ([0x03001A8A, 0x000C0000, 0x0403FA04], .vclt { g := noGuard, pred := 1, ty := .h } 3 (w 12 0 2 0) (w 1018 0 2 0)),
   ([0x14000C6E, 0x000C0600, 0x00000A04], .vcvt (v .f) (w 20 0 3 0) (w 12 0 2 0) .h),
   ([0x040000EA, 0x0C0A0000, 0x00000400],
     .wspill noGuard { bank := 4, off := 0, xs := 0 } { row := 10, slc := 3, rb := false } 4),
   ([0x00000013, 0, 0, 0, 0, 0], .mlease noGuard), ([0x00000017, 0, 0, 0, 0, 0], .mfree noGuard),
   ([0x0000002B, 0, 0, 0, 0, 0], .mwait noGuard), ([0x0001000F, 0, 0, 0, 0, 0], .mrnd noGuard .rtz),
   ([0x807F9503, 0x81001002, 0, 0, 0, 0], .mma
     { g := noGuard, ty := .h, act := 2, acc := true, mm1 := 127, a := .sp { bank := 5, row := 0, step := 1 }, bbuf := false,
       bld := true, brow := 64, btr := false, gen := 0, tri := false, tdiag := 0, tfill := 0, grow := 0, gsz := 0, zpa := false,
       zpb := false, sca := { bank := 0, off := 0 }, scb := { bank := 0, off := 0 } }),
   ([0x000F0683, 0x00801001, 0, 0x80006800, 0x00182001, 0], .mma
     { g := noGuard, ty := .qa4, act := 0, acc := false, mm1 := 15, a := .sp { bank := 2, row := 0, step := 1 }, bbuf := true,
       bld := false, brow := 0, btr := false, gen := 0, tri := false, tdiag := 0, tfill := 0, grow := 0, gsz := 1, zpa := true,
       zpb := true, sca := { bank := 6, off := 0 }, scb := { bank := 6, off := 1024 } })]

/-- The instruction is one of a front-end processor (R256). -/
def ofFep : Instr → Bool
  | .rfetch .. | .bfx .. | .swait .. | .dispatch .. => true
  | _ => false

end Sys2Proof.Claims

/-- The words that the spec writes out decode to what it says they stand for. -/
def Obligations.TheSpecsWordsDecode : Prop :=
  (∀ e ∈ Claims.words, (decode (Claims.parcels e.1)).toOption = some (e.2, []) ∧ e.2.wf = true) ∧
  decodeFep 0x00C5850B = some (.rfetch 10 11 12) ∧ decodeFep 0x00C5950B = some (.bfx 10 11 12) ∧
  decodeFep 0x00C5A50B = some (.swait 10 11 12) ∧ decodeFep 0x00C5B50B = some (.dispatch 10 11 12)

/-- R58, R76 to R78, R256: words that name nothing, and words with a non-zero reserved field, are refused: the unassigned OPs
of the three classes, a branch with an unassigned CND, a TY of 15, a reserved register field, and every other Xnim word. A
word shorter than its class asks for is refused. -/
def Obligations.ReservedWordsAreRefused : Prop :=
  ∀ (w : Nat) (bytes rest : List Byte),
    let refused (b : List Byte) : Prop := ∃ e, decode b = .error e
    (bytes.length < wordLen (leOf (bytes.take 1)) → refused bytes) ∧
    (w < 2 ^ 32 → w % 4 = 0 → (w / 4 % 64 = 0 ∨ 0x1A ≤ w / 4 % 64) → refused (leBytes 4 w ++ rest)) ∧
    (w < 2 ^ 32 → w % 256 = 0x34 → 13 ≤ w / 2 ^ 16 % 16 → refused (leBytes 4 w ++ rest)) ∧
    (w < 2 ^ 32 → w % 256 = 0x04 → 21 ≤ w / 2 ^ 20 % 64 → refused (leBytes 4 w ++ rest)) ∧
    (w < 2 ^ 32 → w % 256 = 0x58 → 8 ≤ w / 2 ^ 28 → refused (leBytes 4 w ++ rest)) ∧
    (w < 2 ^ 32 → w % 256 = 0x58 → w / 2 ^ 28 = 0 → w ≠ 0x58 → refused (leBytes 4 w ++ rest)) ∧
    (w < 2 ^ 96 → w % 4 = 2 → (w / 4 % 64 ∈ [0x34, 0x35, 0x36, 0x37, 0x3E, 0x3F]) → refused (leBytes 12 w ++ rest)) ∧
    (w < 2 ^ 96 → w % 4 = 2 → w / 4 % 64 ≤ 0x24 → w / 256 % 16 = 15 → refused (leBytes 12 w ++ rest)) ∧
    (w < 2 ^ 192 → w % 4 = 3 → 0x0B ≤ w / 4 % 32 → refused (leBytes 24 w ++ rest)) ∧
    (w < 2 ^ 192 → w % 4 = 3 → w / 4 % 32 ≤ 0x0A → 2 ^ 151 ≤ w → refused (leBytes 24 w ++ rest)) ∧
    (w < 2 ^ 32 → w % 128 = 0x0B → (4 ≤ w / 2 ^ 12 % 8 ∨ w / 2 ^ 25 ≠ 0) → decodeFep w = none) ∧
    (w < 2 ^ 32 → w % 128 ≠ 0x0B → decodeFep w = none)

/-- The decoder reads back what the encoder writes: every well-formed instruction of a core, with whatever follows its word,
and every word of a front-end processor. -/
def Sys2Proof.Claims.DecodeReadsWhatEncodeWrites : Prop :=
  ∀ (i : Instr) (w : Nat) (rest : List Byte), encode i = some w →
    (Claims.ofFep i = false → i.wf = true → w < 256 ^ encodedLen i ∧ decode (wordBytes w ++ rest) = .ok (i, rest)) ∧
    (Claims.ofFep i = true → w < 2 ^ 32 ∧ decodeFep w = some i)

/-- The encoder writes back what the decoder reads: no bit of a word that decodes is lost, so two words never decode alike.
-/
def Sys2Proof.Claims.EncodeWritesWhatDecodeReads : Prop :=
  (∀ (bytes rest : List Byte) (i : Instr), decode bytes = .ok (i, rest) →
    ∃ w, encode i = some w ∧ bytes = wordBytes w ++ rest) ∧
  (∀ (w : Nat) (i : Instr), w < 2 ^ 32 → decodeFep w = some i → encode i = some w)

/-- The values that the spec states for reset: registers of the front ends, the notice ring, the islands and their PACE
registers, the levee engine and the ports; a core stands with empty contexts and its CLKDIV fields clear. The model's choices in
it: notes/assumptions/4.md. -/
def Obligations.ResetHoldsTheStatedValues : Prop :=
  let s := State.reset
  (∀ t, (s.terp t).tmig = 95 ∧ (s.terp t).trel = 90 ∧ (s.terp t).lowtide = 0 ∧ (s.terp t).ovEn = false ∧
    (s.terp t).qsyncBusy = false ∧ (s.terp t).resumeErr = false ∧ (s.terp t).inval = none) ∧
  s.arbfloor = 0 ∧ s.envcnt = 0 ∧ s.nringBase = 0 ∧ s.nringLog2 = 4 ∧ s.nrProd = 0 ∧ s.nrCons = 0 ∧
  s.pctlBusy = false ∧ s.pctlErr = false ∧ s.levRes = 0 ∧ s.levReason = 0 ∧ s.levSeq = 0 ∧
  (∀ i, (s.island i).divok = 0x7FFF ∧ (s.island i).div = 2 ∧ (s.island i).pst = 1 ∧ (s.island i).uvs = 0 ∧ (s.island i).uvmax = 0 ∧
    (s.island i).uven = false ∧ (s.island i).mcnt = 0 ∧ (s.island i).mev = false ∧ (s.island i).perr = false) ∧
  (∀ c, (s.cluster c).paceM = { host := 0, arb := 0, ceil := 0xFFFF } ∧ (s.cluster c).paceC = { host := 0, arb := 0, ceil := 0xFFFF }) ∧
  (∀ d, (s.port d).st = .off ∧ (s.port d).en = false) ∧
  (∀ o, (s.owner o).st = .unassigned) ∧ (∀ r, (s.region r).st = .free) ∧ (∀ n, (s.fep n).xnimq = 0) ∧
  (∀ k, (s.core k).deny = false ∧ (s.core k).isl = 0) ∧
  (∀ k b, (s.ctx k b).st = .empty ∧ (s.ctx k b).wf = 0x200 ∧ (s.ctx k b).nstat = 0 ∧ (s.ctx k b).vmode = .rne ∧
    ∀ st r, ((s.ctx k b).seq st).get r = 0) ∧
  (∀ k n, Map.get 15 (s.core k).bfmt n = 0xF)

/-- The form that every step keeps holds at reset. -/
def Obligations.ResetMeetsTheInvariant : Prop := State.reset.Inv

/-- Every step, whatever part of the machine moves, keeps memory in its one form: rising addresses, and no byte listed that
an unlisted address reads as. -/
def Obligations.StepsKeepTheInvariant : Prop := ∀ s t : State, s.Inv → step s = .next t → t.Inv

/-- What a step does with the part whose turn it is (R56 to R58, R101, R125, R256, R258): a sequencer that may issue runs the
word its pc names, decoded, as `exec` does, with the places of its loops' LENDs as the bodies can then be read (R138); a word that
does not decode, has an illegal value, or stands where a LEND must stand
raises ILLEGAL_ENC; a fetch that faults raises its fault, and one that a lost port answered POISON (R324); an event that nothing holds runs as `exec` does. Outside a loop
nothing is kept of the word. The model's choices in it: notes/assumptions/8.md, notes/assumptions/15.md,
notes/assumptions/95.md, notes/assumptions/113.md. -/
def Obligations.AStepRunsTheDecodedInstruction : Prop :=
  ∀ (s : State) (rest : List Turn), s.nrWritten = none →
    (∀ (k : Nat) (st : Stream), s.agenda = .seq k st :: rest →
      let u := { s with agenda := rest, cur := (k, st) }
      let goes : Prop := k < 128 ∧ u.canIssue k st = true ∧ (u.myCtx.started = true ∨ u.lineUp u.myCtx = false)
      let ready : Prop := goes ∧ u.me.lost = false ∧ u.fetchHeld k st 4 = false
      ((128 ≤ k ∨ u.canIssue k st = false) → step s = .next u) ∧
      (goes → u.me.lost = true → step s = .next ((u.updMe (fun q => { q with lost := false })).raiseAt .poison u.me.pc.toNat 0 0)) ∧
      (goes → u.me.lost = false → u.fetchHeld k st 4 = true → step s = .next u) ∧
      (∀ c, ready → u.fetch k st = .error c → ∃ d, (c ≠ .poison → d = 0) ∧ (d = 0 ∨ d = 0x80) ∧
        step s = .next (u.raiseAt c u.me.pc.toNat d 0)) ∧
      (∀ b, ready → u.fetch k st = .ok b → b ≠ [] → u.fetchHeld k st b.length = false →
        let w := (u.fetchWalk k st b.length).bodyEnds k st
        (∀ e, decode b = .error e → step s = .next (w.trap .illegalEnc)) ∧
        (∀ i tail, decode b = .ok (i, tail) →
          (i.wf = true → misplaced w.me i = false →
            step s = exec i (w.remember k st (b.take (b.length - tail.length))) ∧
            (u.me.inLoop = false → step s = exec i w)) ∧
          ((i.wf = false ∨ misplaced w.me i = true) → step s = .next (w.trap .illegalEnc))))) ∧
    (∀ (n : Nat), s.agenda = .fep n :: rest → n < 32 → s.inReset = false →
      let u := { s with agenda := rest, curFep := n }
      let w := fepWord (u.fep n)
      let csr : Prop := w % 128 = 0x73 ∧ w / 2 ^ 20 % 4096 = 0x7C0 ∧ w / 4096 % 4 ≠ 0
      (s.islandOn (frontIsland (n / 8)) = false → step s = .next u) ∧
      (s.islandOn (frontIsland (n / 8)) = true →
        (∀ i, decodeFep w = some i → step s = exec i u) ∧
        (decodeFep w = none → w % 128 = 0x0B → step s = .next (u.fepTrap n 2 w)) ∧
        (decodeFep w = none → csr → w / 4096 % 8 = 1 → ∃ t, step s = .next t ∧
          let f := s.fep n
          let xd : BitVec 5 := .ofNat 5 (w / 128)
          t.fep n = { f.set xd (.ofNat 64 f.xnimq.toNat) with
            pc := f.pc + 4, xnimq := .ofNat 20 (f.get (.ofNat 5 (w / 2 ^ 15))).toNat }) ∧
        (decodeFep w = none → w % 128 ≠ 0x0B → ¬ csr → w ≠ 0x30200073 → step s = .refused (.fepBaseWord w)))) ∧
    (∀ (i : Instr), s.agenda = .event i :: rest → encode i = none →
      let u := { s with agenda := rest }
      (u.eventHeld i = false → step s = exec i u) ∧ (u.eventHeld i = true → step s = .next u))

/-- R129 to R132: the alu, immediate and bit-field words write their result to x[XD], and only to it. -/
def Obligations.ScalarWordsWriteTheirResult : Prop :=
  Claims.AluWordsWriteTheirResult ∧ Claims.ImmediateWordsWriteTheirResult ∧ Claims.BitFieldWordsWriteTheirResult

/-- R128, R135: a branch on registers, on the flag word or on a branch queue moves the pc to its target or to the next word.
The model's choices in it: notes/assumptions/13.md. -/
def Obligations.BranchesMoveThePc : Prop :=
  Claims.RegisterBranchesMoveThePc ∧ Claims.FlagBranchesMoveThePc ∧ Claims.QueueBranchesPopAnOutcome

/-- R136, R137: jumps link and go; one that leaves the body of an active loop raises ILLEGAL_ENC. The model's choices in it:
notes/assumptions/13.md. -/
def Obligations.JumpsMoveThePc : Prop :=
  Claims.JumpsLinkAndGo ∧ Claims.JumpOutOfTheBodyTraps

/-- R138 to R140, R142, R144, R279: loop opens its level, lend closes an iteration or the loop, leaves it by an outcome, a cut
or under the abort line, and rbset sets the rotating base. The model's choices in it: notes/assumptions/38.md. -/
def Obligations.LoopWordsRunTheirLevel : Prop :=
  Claims.LoopWordsOpenTheirLevel ∧ Claims.LendClosesAnIteration ∧ Claims.BreakingLendPutsItsOutcome ∧
  Claims.FollowingLendsLeaveByOutcomeOrCut ∧ Claims.LendsUnderTheAbortLineStop ∧ Claims.RbsetSetsTheRotatingBase

/-- R147, R61: the token words move tokens and bqput an outcome; a word on a queue that its stream may not use so raises
QUEUE_MISUSE. The model's choices in it: notes/assumptions/23.md, notes/assumptions/34.md, notes/assumptions/36.md. -/
def Obligations.QueueWordsMoveTokens : Prop :=
  Claims.TokenWordsMoveTokens ∧ Claims.QueueMisuseTraps ∧ Claims.BqputPutsAnOutcome

/-- R71, R148, R149: the queue words load entries, push rows of the W file, store landed entries and drop them. The model's
choices in it: notes/assumptions/104.md. -/
def Obligations.QueueMoversMoveEntries : Prop :=
  Claims.QueueLoadsEnterTheIssueBuffer ∧ Claims.QueueRowsPushWRows ∧ Claims.QueueStoresPopLandedEntries

/-- R127, R151: the csr words read every register and write those that software may write, as their access says. The model's
choices in it: notes/assumptions/32.md. -/
def Obligations.ControlRegistersReadAndWrite : Prop :=
  Claims.CsrReadsReturnTheRegister ∧ Claims.CsrWritesReachTheRegister ∧ Claims.CsrWritesKeepTheirAccess

/-- R152 to R154, R279: stop, halt, yield and abort. The model's choices in it: notes/assumptions/37.md,
notes/assumptions/38.md. -/
def Obligations.SequencersStopYieldAndAbort : Prop :=
  Claims.StopAndHaltEndTheirSequencer ∧ Claims.YieldOffersTheGroupBoundary ∧ Claims.AbortAssertsTheRegionsLine

/-- R57, R58, R76, R155: a false slot only passes by; a word outside its streams, or with a guard on a level that is not active,
traps. The model's choices in it: notes/assumptions/16.md. -/
def Obligations.GuardsAndStreamsDecideTheSlot : Prop :=
  Claims.FalseSlotsOnlyPassBy ∧ Claims.IllegalStreamsAndGuardsTrap

/-- R294, R297 to R303, R318, R319: the object words that may wait at issue, and the transaction words that act there. The
model's choices in it: notes/assumptions/10.md, notes/assumptions/21.md, notes/assumptions/38.md, notes/assumptions/87.md,
notes/assumptions/89.md, notes/assumptions/121.md. -/
def Obligations.ObjectWordsWaitAtIssue : Prop :=
  Claims.RingWaitsTakeTheirSlots ∧ Claims.BarrierWordsArriveAndWait ∧ Claims.PassingWaitersPerformInOneStep ∧
  Claims.CulvertWordsReceive ∧ Claims.TransactionWordsSeeTheTransaction

/-- R103 to R107, R112, R115 to R117, R295 to R301, R318: the head of an issue buffer performs, whichever word it is of, and a
store buffer drains to memory, oldest first. The model's choices in it: notes/assumptions/10.md, notes/assumptions/11.md,
notes/assumptions/28.md, notes/assumptions/38.md, notes/assumptions/87.md, notes/assumptions/89.md, notes/assumptions/94.md,
notes/assumptions/98.md, notes/assumptions/128.md. -/
def Obligations.AccessesPerformInOrder : Prop :=
  Claims.AccessesPerformAtTheHead ∧ Claims.VersionedPagesPerformAtTheHead ∧ Claims.QueuedWordsPerformAtTheHead ∧
  Claims.ObjectWordsPerformAtTheHead ∧ Claims.StoreBuffersDrainInOrder

/-- R157 to R166: the lane words and the conversions compute every active lane. The model's choices in it:
notes/assumptions/19.md, notes/assumptions/22.md, notes/assumptions/25.md, notes/assumptions/26.md, notes/assumptions/27.md.
-/
def Obligations.VectorWordsComputeTheirLanes : Prop :=
  Claims.LaneWordsComputeTheirLanes ∧ Claims.ConversionWordsConvertTheirLanes

/-- R174 to R177: reductions write element zero, and the accumulator words reach the accumulator store. The model's choices in
it: notes/assumptions/6.md, notes/assumptions/22.md, notes/assumptions/25.md, notes/assumptions/107.md,
notes/assumptions/108.md. -/
def Obligations.ReductionsAndAccumulatorWords : Prop :=
  Claims.ReductionsWriteElementZero ∧ Claims.AccumulatorWordsReachTheStore

/-- R178 to R182: wspill and wfill move slices; defer and drain keep their records. The model's choices in it:
notes/assumptions/22.md, notes/assumptions/25.md, notes/assumptions/29.md. -/
def Obligations.SlicesAndRecordsMove : Prop :=
  Claims.SpillAndFillMoveSlices ∧ Claims.BackwaterWordsKeepTheirRecords

/-- R183, R190 to R192: the heads of a matrix order act, and terms go round the cluster. -/
def Obligations.MatrixOrdersAct : Prop :=
  Claims.OrderHeadsAct ∧ Claims.TermsGoRoundTheCluster

/-- R96 to R98, R188, R193, R195, R196: the array starts the head word, reads its rows of A, and a tile step accumulates its
products, of integers, of floating formats or of quantised groups, triangular and with a generated B too. The model's choices in
it: notes/assumptions/6.md, notes/assumptions/20.md, notes/assumptions/27.md, notes/assumptions/109.md. -/
def Obligations.TheArrayRunsItsWord : Prop :=
  Claims.ArrayStartsTheHeadWord ∧ Claims.TheArrayReadsItsRows ∧ Claims.TileStepsAccumulate

/-- R231 to R234, R270: a trap that waits drains its context, and its record is written as the context stops. The model's
choices in it: notes/assumptions/40.md, notes/assumptions/111.md. -/
def Obligations.TrapsAreTaken : Prop :=
  Claims.WaitingTrapsDrainTheContext ∧ Claims.TrapsWriteTheirRecordAndStop

/-- R237 to R241: a swap exchanges the banks; freezes and hops end. The model's choices in it: notes/assumptions/2.md,
notes/assumptions/41.md, notes/assumptions/112.md. -/
def Obligations.BanksFreezesAndHops : Prop :=
  Claims.SwapsExchangeTheBanks ∧ Claims.FreezesAndHopsEnd

/-- R208, R209: an engine takes the next command in turn, and a step is paid for or waits. The model's choices in it:
notes/assumptions/17.md, notes/assumptions/44.md, notes/assumptions/45.md, notes/assumptions/46.md. -/
def Obligations.EnginesServeTheirCommands : Prop :=
  Claims.EnginesTakeTheNextCommand ∧ Claims.StepsPayOrWait

/-- R215 to R218: gathers and scatters follow their index, and an accum reads and writes in one step. The model's choices in it:
notes/assumptions/45.md, notes/assumptions/48.md. -/
def Obligations.IndexedAndAccumulatingCommandsStep : Prop :=
  Claims.IndexedCommandsFollowTheirIndex ∧ Claims.AccumReadsAndWritesInOneStep

/-- R247, R249, R251: doorbells move the tail, and QSYNC writes an entry back. The model's choices in it:
notes/assumptions/18.md, notes/assumptions/57.md, notes/assumptions/61.md. -/
def Obligations.QueuesTakeTheirTail : Prop :=
  Claims.DoorbellsMoveTheTail ∧ Claims.QueueSyncsWriteBack

/-- R255 to R262: the Xnim words, and the activation of the operator that they make pending. The model's choices in it:
notes/assumptions/15.md, notes/assumptions/52.md, notes/assumptions/56.md, notes/assumptions/57.md, notes/assumptions/59.md. -/
def Obligations.OperatorsReachTheirLauncher : Prop :=
  Claims.OperatorsActivate ∧ Claims.FrontEndWordsHaveTheirEffect

/-- R277, R283, R284: stages are evaluated, and their groups are placed. The model's choices in it: notes/assumptions/65.md,
notes/assumptions/102.md. -/
def Obligations.StagesPlaceTheirGroups : Prop :=
  Claims.StagesAreEvaluated ∧ Claims.GroupsArePlaced

/-- R153, R282, R287 to R290, R357, R366: groups retire, are saved, restored and moved, and heat asks for it. The model's
choices in it: notes/assumptions/6.md, notes/assumptions/37.md, notes/assumptions/39.md, notes/assumptions/66.md,
notes/assumptions/67.md, notes/assumptions/68.md, notes/assumptions/119.md. -/
def Obligations.GroupsLeaveTheirCore : Prop :=
  Claims.GroupsRetire ∧ Claims.GroupsLeaveAndReturn ∧ Claims.HeatRequestsMigration

/-- R311 to R316, R321: pages move, the page engine scans, and the dredger lowers the base. The model's choices in it:
notes/assumptions/50.md, notes/assumptions/69.md, notes/assumptions/70.md. -/
def Obligations.PagesAndVersionsAreKept : Prop :=
  Claims.PagesMove ∧ Claims.PageEnginesKeepHouse ∧ Claims.DredgersLowerTheBase

/-- R351, R355, R356: islands take their settings, and undervolting steps. The model's choices in it: notes/assumptions/62.md,
notes/assumptions/76.md, notes/assumptions/77.md, notes/assumptions/78.md, notes/assumptions/113.md, notes/assumptions/115.md.
-/
def Obligations.IslandsChangeTheirPower : Prop :=
  Claims.IslandsTakeTheirSettings ∧ Claims.UndervoltingSteps

/-- R335, R350, R352, R354: the arbiter grants, and the servers serve by the smallest tag. The model's choices in it:
notes/assumptions/76.md, notes/assumptions/79.md, notes/assumptions/80.md, notes/assumptions/120.md. -/
def Obligations.SharesAreHandedOut : Prop :=
  Claims.TheArbiterGrants ∧ Claims.ServersServeBySmallestTag

/-- R325 to R328: ports train and drain, and acknowledgements move their buffer. The model's choices in it:
notes/assumptions/72.md, notes/assumptions/73.md, notes/assumptions/74.md, notes/assumptions/114.md. -/
def Obligations.PortsCarryTheirBuffer : Prop :=
  Claims.PortsTrainAndDrain ∧ Claims.AcknowledgementsMoveTheBuffer

/-- R324, R331, R332: remaps switch, and a lost tier-2 port poisons its lines. The model's choices in it:
notes/assumptions/75.md, notes/assumptions/114.md. -/
def Obligations.RemapsAndLostPorts : Prop :=
  Claims.RemapsSwitch ∧ Claims.LostPortsPoisonTheirLines

/-- R7, R8, R19, R24, R53, R309, R365: registers, reset, memory and images. The model's choices in it: notes/assumptions/3.md,
notes/assumptions/4.md, notes/assumptions/14.md, notes/assumptions/64.md, notes/assumptions/81.md, notes/assumptions/82.md,
notes/assumptions/92.md, notes/assumptions/93.md, notes/assumptions/116.md, notes/assumptions/117.md, notes/assumptions/118.md.
-/
def Obligations.TheHostWritesThePackage : Prop :=
  Claims.RegisterWritesTakeEffect ∧ Claims.PackageResetsTakeAnImage ∧ Claims.HostWritesReachMemory ∧
  Claims.ImagesAreVerifiedAndPlaced

/-- Decode and encode agree in both directions, for every well-formed instruction and for every word that decodes. -/
def Obligations.EncodingsRoundTrip : Prop :=
  Claims.DecodeReadsWhatEncodeWrites ∧ Claims.EncodeWritesWhatDecodeReads
end

