-- ==== Sys2Proof/Laws/Map.lean ====
section
/-! SUPPORT. The laws of sparse maps: reads after writes, and the canonical form that every write keeps. -/

namespace Sys2Proof.Map

variable {α : Type}

@[simp] theorem get_put_self (d : α) (m : Map α) (k : Nat) (v : α) : get d (put m k v) k = v := by
  induction m with
  | nil => simp [put, get]
  | cons e t ih => simp only [put]; split <;> (try split) <;> simp_all [get]

@[simp] theorem get_put_ne (d : α) (m : Map α) {k j : Nat} (v : α) (h : j ≠ k) : get d (put m k v) j = get d m j := by
  induction m with
  | nil => simp [put, get, Ne.symm h]
  | cons e t ih => have h' := Ne.symm h; simp only [put]; split <;> (try split) <;> simp_all [get]

@[simp] theorem find_put_self (m : Map α) (k : Nat) (v : α) : find (put m k v) k = some v := by
  induction m with
  | nil => simp [put, find]
  | cons e t ih => simp only [put]; split <;> (try split) <;> simp_all [find]

@[simp] theorem find_put_ne (m : Map α) {k j : Nat} (v : α) (h : j ≠ k) : find (put m k v) j = find m j := by
  induction m with
  | nil => simp [put, find, Ne.symm h]
  | cons e t ih => have h' := Ne.symm h; simp only [put]; split <;> (try split) <;> simp_all [find]

@[simp] theorem get_del_self (d : α) (m : Map α) (k : Nat) : get d (del m k) k = d := by
  induction m with
  | nil => rfl
  | cons e t ih =>
    simp only [del, List.filter_cons] at *
    split <;> simp_all [get]

@[simp] theorem get_del_ne (d : α) (m : Map α) {k j : Nat} (h : j ≠ k) : get d (del m k) j = get d m j := by
  induction m with
  | nil => rfl
  | cons e t ih =>
    simp only [del, List.filter_cons] at *
    split
    · simp_all [get]
    · simp_all [get]; omega

@[simp] theorem get_set_self [DecidableEq α] (d : α) (m : Map α) (k : Nat) (v : α) : get d (set d m k v) k = v := by
  unfold set; split <;> simp_all

@[simp] theorem get_set_ne [DecidableEq α] (d : α) (m : Map α) {k j : Nat} (v : α) (h : j ≠ k) :
    get d (set d m k v) j = get d m j := by
  unfold set; split <;> simp [h]

/-- A value listed is the value read. -/
theorem get_of_find (d : α) {m : Map α} {k : Nat} {v : α} (h : find m k = some v) : get d m k = v := by
  induction m with
  | nil => simp [find] at h
  | cons e t ih => simp only [find, get] at *; split <;> simp_all

/-! The canonical form. -/

/-- Every key of the map lies above a bound. -/
def above (lo : Nat) (m : Map α) : Prop := ∀ e ∈ m, lo < e.1

theorem sorted_cons (e : Nat × α) (m : Map α) : sorted (e :: m) = true ↔ above e.1 m ∧ sorted m = true := by
  induction m generalizing e with
  | nil => simp [sorted, above]
  | cons a t ih =>
    simp only [sorted, Bool.and_eq_true, decide_eq_true_eq, above, List.mem_cons]
    constructor
    · rintro ⟨h, hs⟩
      refine ⟨?_, hs⟩
      rintro x (rfl | hx)
      · exact h
      · exact Nat.lt_trans h ((ih a).1 hs |>.1 x hx)
    · rintro ⟨h, hs⟩
      exact ⟨h a (Or.inl rfl), hs⟩

theorem mem_put {m : Map α} {k : Nat} {v : α} {e : Nat × α} (h : e ∈ put m k v) : e = (k, v) ∨ e ∈ m := by
  induction m with
  | nil => simpa [put] using h
  | cons a t ih =>
    simp only [put] at h
    split at h
    · rcases List.mem_cons.1 h with rfl | h
      · exact Or.inl rfl
      · exact Or.inr (List.mem_cons_of_mem _ h)
    · split at h
      · rcases List.mem_cons.1 h with rfl | h
        · exact Or.inl rfl
        · exact Or.inr h
      · rcases List.mem_cons.1 h with rfl | h
        · exact Or.inr (List.mem_cons_self ..)
        · exact (ih h).imp id (List.mem_cons_of_mem _)

theorem sorted_put {m : Map α} (k : Nat) (v : α) (h : sorted m = true) : sorted (put m k v) = true := by
  induction m with
  | nil => rfl
  | cons a t ih =>
    obtain ⟨ha, ht⟩ := (sorted_cons a t).1 h
    simp only [put]
    split
    · next hk => exact (sorted_cons ..).2 ⟨by simpa [← hk] using ha, ht⟩
    · split
      · next hk hlt =>
        refine (sorted_cons ..).2 ⟨fun e he => ?_, h⟩
        rcases List.mem_cons.1 he with rfl | he
        · exact hlt
        · exact Nat.lt_trans hlt (ha e he)
      · next hk hlt =>
        refine (sorted_cons ..).2 ⟨fun e he => ?_, ih ht⟩
        rcases mem_put he with rfl | he
        · simp at hk hlt ⊢; omega
        · exact ha e he

theorem sorted_filter {m : Map α} (p : Nat × α → Bool) (h : sorted m = true) : sorted (m.filter p) = true := by
  induction m with
  | nil => rfl
  | cons a t ih =>
    obtain ⟨ha, ht⟩ := (sorted_cons a t).1 h
    simp only [List.filter_cons]
    split
    · exact (sorted_cons ..).2 ⟨fun e he => ha e (List.mem_filter.1 he).1, ih ht⟩
    · exact ih ht

/-- A filter of a map in canonical form is in canonical form. -/
theorem wf_filter [DecidableEq α] {d : α} {m : Map α} (p : Nat × α → Bool) (h : wf d m = true) : wf d (m.filter p) = true := by
  simp only [wf, Bool.and_eq_true, List.all_eq_true] at *
  exact ⟨sorted_filter p h.1, fun e he => h.2 e (List.mem_filter.1 he).1⟩

/-- A write keeps the canonical form. -/
theorem wf_set [DecidableEq α] {d : α} {m : Map α} (k : Nat) (v : α) (h : wf d m = true) : wf d (set d m k v) = true := by
  unfold set
  split
  · exact wf_filter _ h
  · next hv =>
    simp only [wf, Bool.and_eq_true, List.all_eq_true, decide_eq_true_eq] at *
    refine ⟨sorted_put k v h.1, fun e he => ?_⟩
    rcases mem_put he with rfl | he
    · exact hv
    · exact h.2 e he

end Sys2Proof.Map
end

