-- ==== Sys2Proof/Laws/State.lean ====
section
/-! SUPPORT. What each update of the state leaves alone and what it writes: one lemma per field per update. -/

namespace Sys2Proof.Machine

/-! `setCore` writes cores alone. -/

@[simp] theorem State.setCore_agenda (s : State) (k : Nat) (c : Core) : (s.setCore k c).agenda = s.agenda := rfl
@[simp] theorem State.setCore_cur (s : State) (k : Nat) (c : Core) : (s.setCore k c).cur = s.cur := rfl
@[simp] theorem State.setCore_curFep (s : State) (k : Nat) (c : Core) : (s.setCore k c).curFep = s.curFep := rfl
@[simp] theorem State.setCore_fresh (s : State) (k : Nat) (c : Core) : (s.setCore k c).fresh = s.fresh := rfl
@[simp] theorem State.setCore_nextId (s : State) (k : Nat) (c : Core) : (s.setCore k c).nextId = s.nextId := rfl
@[simp] theorem State.setCore_tick (s : State) (k : Nat) (c : Core) : (s.setCore k c).tick = s.tick := rfl
@[simp] theorem State.setCore_clusters (s : State) (k : Nat) (c : Core) : (s.setCore k c).clusters = s.clusters := rfl
@[simp] theorem State.setCore_terps (s : State) (k : Nat) (c : Core) : (s.setCore k c).terps = s.terps := rfl
@[simp] theorem State.setCore_feps (s : State) (k : Nat) (c : Core) : (s.setCore k c).feps = s.feps := rfl
@[simp] theorem State.setCore_mem (s : State) (k : Nat) (c : Core) : (s.setCore k c).mem = s.mem := rfl
@[simp] theorem State.setCore_poison (s : State) (k : Nat) (c : Core) : (s.setCore k c).poison = s.poison := rfl
@[simp] theorem State.setCore_vers (s : State) (k : Nat) (c : Core) : (s.setCore k c).vers = s.vers := rfl
@[simp] theorem State.setCore_pool (s : State) (k : Nat) (c : Core) : (s.setCore k c).pool = s.pool := rfl
@[simp] theorem State.setCore_tide (s : State) (k : Nat) (c : Core) : (s.setCore k c).tide = s.tide := rfl
@[simp] theorem State.setCore_cmds (s : State) (k : Nat) (c : Core) : (s.setCore k c).cmds = s.cmds := rfl
@[simp] theorem State.setCore_objs (s : State) (k : Nat) (c : Core) : (s.setCore k c).objs = s.objs := rfl
@[simp] theorem State.setCore_regions (s : State) (k : Nat) (c : Core) : (s.setCore k c).regions = s.regions := rfl
@[simp] theorem State.setCore_saved (s : State) (k : Nat) (c : Core) : (s.setCore k c).saved = s.saved := rfl
@[simp] theorem State.setCore_qlive (s : State) (k : Nat) (c : Core) : (s.setCore k c).qlive = s.qlive := rfl
@[simp] theorem State.setCore_tlb (s : State) (k : Nat) (c : Core) : (s.setCore k c).tlb = s.tlb := rfl
@[simp] theorem State.setCore_invals (s : State) (k : Nat) (c : Core) : (s.setCore k c).invals = s.invals := rfl
@[simp] theorem State.setCore_moves (s : State) (k : Nat) (c : Core) : (s.setCore k c).moves = s.moves := rfl
@[simp] theorem State.setCore_frames (s : State) (k : Nat) (c : Core) : (s.setCore k c).frames = s.frames := rfl
@[simp] theorem State.setCore_cold (s : State) (k : Nat) (c : Core) : (s.setCore k c).cold = s.cold := rfl
@[simp] theorem State.setCore_scanAt (s : State) (k : Nat) (c : Core) : (s.setCore k c).scanAt = s.scanAt := rfl
@[simp] theorem State.setCore_qgbase (s : State) (k : Nat) (c : Core) : (s.setCore k c).qgbase = s.qgbase := rfl
@[simp] theorem State.setCore_qpbase (s : State) (k : Nat) (c : Core) : (s.setCore k c).qpbase = s.qpbase := rfl
@[simp] theorem State.setCore_qdbase (s : State) (k : Nat) (c : Core) : (s.setCore k c).qdbase = s.qdbase := rfl
@[simp] theorem State.setCore_ptbase (s : State) (k : Nat) (c : Core) : (s.setCore k c).ptbase = s.ptbase := rfl
@[simp] theorem State.setCore_lrtbase (s : State) (k : Nat) (c : Core) : (s.setCore k c).lrtbase = s.lrtbase := rfl
@[simp] theorem State.setCore_lrsw (s : State) (k : Nat) (c : Core) : (s.setCore k c).lrsw = s.lrsw := rfl
@[simp] theorem State.setCore_lrswWait (s : State) (k : Nat) (c : Core) : (s.setCore k c).lrswWait = s.lrswWait := rfl
@[simp] theorem State.setCore_fwd (s : State) (k : Nat) (c : Core) : (s.setCore k c).fwd = s.fwd := rfl
@[simp] theorem State.setCore_arbfloor (s : State) (k : Nat) (c : Core) : (s.setCore k c).arbfloor = s.arbfloor := rfl
@[simp] theorem State.setCore_envcnt (s : State) (k : Nat) (c : Core) : (s.setCore k c).envcnt = s.envcnt := rfl
@[simp] theorem State.setCore_arbNo (s : State) (k : Nat) (c : Core) : (s.setCore k c).arbNo = s.arbNo := rfl
@[simp] theorem State.setCore_arbAt (s : State) (k : Nat) (c : Core) : (s.setCore k c).arbAt = s.arbAt := rfl
@[simp] theorem State.setCore_nringBase (s : State) (k : Nat) (c : Core) : (s.setCore k c).nringBase = s.nringBase := rfl
@[simp] theorem State.setCore_nringLog2 (s : State) (k : Nat) (c : Core) : (s.setCore k c).nringLog2 = s.nringLog2 := rfl
@[simp] theorem State.setCore_nrCons (s : State) (k : Nat) (c : Core) : (s.setCore k c).nrCons = s.nrCons := rfl
@[simp] theorem State.setCore_nrProd (s : State) (k : Nat) (c : Core) : (s.setCore k c).nrProd = s.nrProd := rfl
@[simp] theorem State.setCore_nrWritten (s : State) (k : Nat) (c : Core) : (s.setCore k c).nrWritten = s.nrWritten := rfl
@[simp] theorem State.setCore_notices (s : State) (k : Nat) (c : Core) : (s.setCore k c).notices = s.notices := rfl
@[simp] theorem State.setCore_hostMem (s : State) (k : Nat) (c : Core) : (s.setCore k c).hostMem = s.hostMem := rfl
@[simp] theorem State.setCore_hostUp (s : State) (k : Nat) (c : Core) : (s.setCore k c).hostUp = s.hostUp := rfl
@[simp] theorem State.setCore_pctlBusy (s : State) (k : Nat) (c : Core) : (s.setCore k c).pctlBusy = s.pctlBusy := rfl
@[simp] theorem State.setCore_pctlErr (s : State) (k : Nat) (c : Core) : (s.setCore k c).pctlErr = s.pctlErr := rfl
@[simp] theorem State.setCore_pctlHeld (s : State) (k : Nat) (c : Core) : (s.setCore k c).pctlHeld = s.pctlHeld := rfl
@[simp] theorem State.setCore_owners (s : State) (k : Nat) (c : Core) : (s.setCore k c).owners = s.owners := rfl
@[simp] theorem State.setCore_levQ (s : State) (k : Nat) (c : Core) : (s.setCore k c).levQ = s.levQ := rfl
@[simp] theorem State.setCore_levHeld (s : State) (k : Nat) (c : Core) : (s.setCore k c).levHeld = s.levHeld := rfl
@[simp] theorem State.setCore_levRes (s : State) (k : Nat) (c : Core) : (s.setCore k c).levRes = s.levRes := rfl
@[simp] theorem State.setCore_levReason (s : State) (k : Nat) (c : Core) : (s.setCore k c).levReason = s.levReason := rfl
@[simp] theorem State.setCore_levNamed (s : State) (k : Nat) (c : Core) : (s.setCore k c).levNamed = s.levNamed := rfl
@[simp] theorem State.setCore_levExcess (s : State) (k : Nat) (c : Core) : (s.setCore k c).levExcess = s.levExcess := rfl
@[simp] theorem State.setCore_levSeq (s : State) (k : Nat) (c : Core) : (s.setCore k c).levSeq = s.levSeq := rfl
@[simp] theorem State.setCore_tdlk (s : State) (k : Nat) (c : Core) : (s.setCore k c).tdlk = s.tdlk := rfl
@[simp] theorem State.setCore_ports (s : State) (k : Nat) (c : Core) : (s.setCore k c).ports = s.ports := rfl
@[simp] theorem State.setCore_t2 (s : State) (k : Nat) (c : Core) : (s.setCore k c).t2 = s.t2 := rfl
@[simp] theorem State.setCore_islands (s : State) (k : Nat) (c : Core) : (s.setCore k c).islands = s.islands := rfl
@[simp] theorem State.setCore_dram (s : State) (k : Nat) (c : Core) : (s.setCore k c).dram = s.dram := rfl
@[simp] theorem State.setCore_fab (s : State) (k : Nat) (c : Core) : (s.setCore k c).fab = s.fab := rfl
@[simp] theorem State.setCore_passed (s : State) (k : Nat) (c : Core) : (s.setCore k c).passed = s.passed := rfl
@[simp] theorem State.setCore_presets (s : State) (k : Nat) (c : Core) : (s.setCore k c).presets = s.presets := rfl
@[simp] theorem State.setCore_brkArmed (s : State) (k : Nat) (c : Core) : (s.setCore k c).brkArmed = s.brkArmed := rfl
@[simp] theorem State.setCore_inReset (s : State) (k : Nat) (c : Core) : (s.setCore k c).inReset = s.inReset := rfl
@[simp] theorem State.setCore_identity (s : State) (k : Nat) (c : Core) : (s.setCore k c).identity = s.identity := rfl
@[simp] theorem State.setCore_certificate (s : State) (k : Nat) (c : Core) : (s.setCore k c).certificate = s.certificate := rfl
@[simp] theorem State.setCore_loadEnd (s : State) (k : Nat) (c : Core) : (s.setCore k c).loadEnd = s.loadEnd := rfl

/-! `updCore` writes cores alone. -/

@[simp] theorem State.updCore_agenda (s : State) (k : Nat) (f : Core → Core) : (s.updCore k f).agenda = s.agenda := rfl
@[simp] theorem State.updCore_cur (s : State) (k : Nat) (f : Core → Core) : (s.updCore k f).cur = s.cur := rfl
@[simp] theorem State.updCore_curFep (s : State) (k : Nat) (f : Core → Core) : (s.updCore k f).curFep = s.curFep := rfl
@[simp] theorem State.updCore_fresh (s : State) (k : Nat) (f : Core → Core) : (s.updCore k f).fresh = s.fresh := rfl
@[simp] theorem State.updCore_nextId (s : State) (k : Nat) (f : Core → Core) : (s.updCore k f).nextId = s.nextId := rfl
@[simp] theorem State.updCore_tick (s : State) (k : Nat) (f : Core → Core) : (s.updCore k f).tick = s.tick := rfl
@[simp] theorem State.updCore_clusters (s : State) (k : Nat) (f : Core → Core) : (s.updCore k f).clusters = s.clusters := rfl
@[simp] theorem State.updCore_terps (s : State) (k : Nat) (f : Core → Core) : (s.updCore k f).terps = s.terps := rfl
@[simp] theorem State.updCore_feps (s : State) (k : Nat) (f : Core → Core) : (s.updCore k f).feps = s.feps := rfl
@[simp] theorem State.updCore_mem (s : State) (k : Nat) (f : Core → Core) : (s.updCore k f).mem = s.mem := rfl
@[simp] theorem State.updCore_poison (s : State) (k : Nat) (f : Core → Core) : (s.updCore k f).poison = s.poison := rfl
@[simp] theorem State.updCore_vers (s : State) (k : Nat) (f : Core → Core) : (s.updCore k f).vers = s.vers := rfl
@[simp] theorem State.updCore_pool (s : State) (k : Nat) (f : Core → Core) : (s.updCore k f).pool = s.pool := rfl
@[simp] theorem State.updCore_tide (s : State) (k : Nat) (f : Core → Core) : (s.updCore k f).tide = s.tide := rfl
@[simp] theorem State.updCore_cmds (s : State) (k : Nat) (f : Core → Core) : (s.updCore k f).cmds = s.cmds := rfl
@[simp] theorem State.updCore_objs (s : State) (k : Nat) (f : Core → Core) : (s.updCore k f).objs = s.objs := rfl
@[simp] theorem State.updCore_regions (s : State) (k : Nat) (f : Core → Core) : (s.updCore k f).regions = s.regions := rfl
@[simp] theorem State.updCore_saved (s : State) (k : Nat) (f : Core → Core) : (s.updCore k f).saved = s.saved := rfl
@[simp] theorem State.updCore_qlive (s : State) (k : Nat) (f : Core → Core) : (s.updCore k f).qlive = s.qlive := rfl
@[simp] theorem State.updCore_tlb (s : State) (k : Nat) (f : Core → Core) : (s.updCore k f).tlb = s.tlb := rfl
@[simp] theorem State.updCore_invals (s : State) (k : Nat) (f : Core → Core) : (s.updCore k f).invals = s.invals := rfl
@[simp] theorem State.updCore_moves (s : State) (k : Nat) (f : Core → Core) : (s.updCore k f).moves = s.moves := rfl
@[simp] theorem State.updCore_frames (s : State) (k : Nat) (f : Core → Core) : (s.updCore k f).frames = s.frames := rfl
@[simp] theorem State.updCore_cold (s : State) (k : Nat) (f : Core → Core) : (s.updCore k f).cold = s.cold := rfl
@[simp] theorem State.updCore_scanAt (s : State) (k : Nat) (f : Core → Core) : (s.updCore k f).scanAt = s.scanAt := rfl
@[simp] theorem State.updCore_qgbase (s : State) (k : Nat) (f : Core → Core) : (s.updCore k f).qgbase = s.qgbase := rfl
@[simp] theorem State.updCore_qpbase (s : State) (k : Nat) (f : Core → Core) : (s.updCore k f).qpbase = s.qpbase := rfl
@[simp] theorem State.updCore_qdbase (s : State) (k : Nat) (f : Core → Core) : (s.updCore k f).qdbase = s.qdbase := rfl
@[simp] theorem State.updCore_ptbase (s : State) (k : Nat) (f : Core → Core) : (s.updCore k f).ptbase = s.ptbase := rfl
@[simp] theorem State.updCore_lrtbase (s : State) (k : Nat) (f : Core → Core) : (s.updCore k f).lrtbase = s.lrtbase := rfl
@[simp] theorem State.updCore_lrsw (s : State) (k : Nat) (f : Core → Core) : (s.updCore k f).lrsw = s.lrsw := rfl
@[simp] theorem State.updCore_lrswWait (s : State) (k : Nat) (f : Core → Core) : (s.updCore k f).lrswWait = s.lrswWait := rfl
@[simp] theorem State.updCore_fwd (s : State) (k : Nat) (f : Core → Core) : (s.updCore k f).fwd = s.fwd := rfl
@[simp] theorem State.updCore_arbfloor (s : State) (k : Nat) (f : Core → Core) : (s.updCore k f).arbfloor = s.arbfloor := rfl
@[simp] theorem State.updCore_envcnt (s : State) (k : Nat) (f : Core → Core) : (s.updCore k f).envcnt = s.envcnt := rfl
@[simp] theorem State.updCore_arbNo (s : State) (k : Nat) (f : Core → Core) : (s.updCore k f).arbNo = s.arbNo := rfl
@[simp] theorem State.updCore_arbAt (s : State) (k : Nat) (f : Core → Core) : (s.updCore k f).arbAt = s.arbAt := rfl
@[simp] theorem State.updCore_nringBase (s : State) (k : Nat) (f : Core → Core) : (s.updCore k f).nringBase = s.nringBase := rfl
@[simp] theorem State.updCore_nringLog2 (s : State) (k : Nat) (f : Core → Core) : (s.updCore k f).nringLog2 = s.nringLog2 := rfl
@[simp] theorem State.updCore_nrCons (s : State) (k : Nat) (f : Core → Core) : (s.updCore k f).nrCons = s.nrCons := rfl
@[simp] theorem State.updCore_nrProd (s : State) (k : Nat) (f : Core → Core) : (s.updCore k f).nrProd = s.nrProd := rfl
@[simp] theorem State.updCore_nrWritten (s : State) (k : Nat) (f : Core → Core) : (s.updCore k f).nrWritten = s.nrWritten := rfl
@[simp] theorem State.updCore_notices (s : State) (k : Nat) (f : Core → Core) : (s.updCore k f).notices = s.notices := rfl
@[simp] theorem State.updCore_hostMem (s : State) (k : Nat) (f : Core → Core) : (s.updCore k f).hostMem = s.hostMem := rfl
@[simp] theorem State.updCore_hostUp (s : State) (k : Nat) (f : Core → Core) : (s.updCore k f).hostUp = s.hostUp := rfl
@[simp] theorem State.updCore_pctlBusy (s : State) (k : Nat) (f : Core → Core) : (s.updCore k f).pctlBusy = s.pctlBusy := rfl
@[simp] theorem State.updCore_pctlErr (s : State) (k : Nat) (f : Core → Core) : (s.updCore k f).pctlErr = s.pctlErr := rfl
@[simp] theorem State.updCore_pctlHeld (s : State) (k : Nat) (f : Core → Core) : (s.updCore k f).pctlHeld = s.pctlHeld := rfl
@[simp] theorem State.updCore_owners (s : State) (k : Nat) (f : Core → Core) : (s.updCore k f).owners = s.owners := rfl
@[simp] theorem State.updCore_levQ (s : State) (k : Nat) (f : Core → Core) : (s.updCore k f).levQ = s.levQ := rfl
@[simp] theorem State.updCore_levHeld (s : State) (k : Nat) (f : Core → Core) : (s.updCore k f).levHeld = s.levHeld := rfl
@[simp] theorem State.updCore_levRes (s : State) (k : Nat) (f : Core → Core) : (s.updCore k f).levRes = s.levRes := rfl
@[simp] theorem State.updCore_levReason (s : State) (k : Nat) (f : Core → Core) : (s.updCore k f).levReason = s.levReason := rfl
@[simp] theorem State.updCore_levNamed (s : State) (k : Nat) (f : Core → Core) : (s.updCore k f).levNamed = s.levNamed := rfl
@[simp] theorem State.updCore_levExcess (s : State) (k : Nat) (f : Core → Core) : (s.updCore k f).levExcess = s.levExcess := rfl
@[simp] theorem State.updCore_levSeq (s : State) (k : Nat) (f : Core → Core) : (s.updCore k f).levSeq = s.levSeq := rfl
@[simp] theorem State.updCore_tdlk (s : State) (k : Nat) (f : Core → Core) : (s.updCore k f).tdlk = s.tdlk := rfl
@[simp] theorem State.updCore_ports (s : State) (k : Nat) (f : Core → Core) : (s.updCore k f).ports = s.ports := rfl
@[simp] theorem State.updCore_t2 (s : State) (k : Nat) (f : Core → Core) : (s.updCore k f).t2 = s.t2 := rfl
@[simp] theorem State.updCore_islands (s : State) (k : Nat) (f : Core → Core) : (s.updCore k f).islands = s.islands := rfl
@[simp] theorem State.updCore_dram (s : State) (k : Nat) (f : Core → Core) : (s.updCore k f).dram = s.dram := rfl
@[simp] theorem State.updCore_fab (s : State) (k : Nat) (f : Core → Core) : (s.updCore k f).fab = s.fab := rfl
@[simp] theorem State.updCore_passed (s : State) (k : Nat) (f : Core → Core) : (s.updCore k f).passed = s.passed := rfl
@[simp] theorem State.updCore_presets (s : State) (k : Nat) (f : Core → Core) : (s.updCore k f).presets = s.presets := rfl
@[simp] theorem State.updCore_brkArmed (s : State) (k : Nat) (f : Core → Core) : (s.updCore k f).brkArmed = s.brkArmed := rfl
@[simp] theorem State.updCore_inReset (s : State) (k : Nat) (f : Core → Core) : (s.updCore k f).inReset = s.inReset := rfl
@[simp] theorem State.updCore_identity (s : State) (k : Nat) (f : Core → Core) : (s.updCore k f).identity = s.identity := rfl
@[simp] theorem State.updCore_certificate (s : State) (k : Nat) (f : Core → Core) : (s.updCore k f).certificate = s.certificate := rfl
@[simp] theorem State.updCore_loadEnd (s : State) (k : Nat) (f : Core → Core) : (s.updCore k f).loadEnd = s.loadEnd := rfl

/-! `setCtx` writes cores alone. -/

@[simp] theorem State.setCtx_agenda (s : State) (k : Nat) (b : Bool) (x : Ctx) : (s.setCtx k b x).agenda = s.agenda := rfl
@[simp] theorem State.setCtx_cur (s : State) (k : Nat) (b : Bool) (x : Ctx) : (s.setCtx k b x).cur = s.cur := rfl
@[simp] theorem State.setCtx_curFep (s : State) (k : Nat) (b : Bool) (x : Ctx) : (s.setCtx k b x).curFep = s.curFep := rfl
@[simp] theorem State.setCtx_fresh (s : State) (k : Nat) (b : Bool) (x : Ctx) : (s.setCtx k b x).fresh = s.fresh := rfl
@[simp] theorem State.setCtx_nextId (s : State) (k : Nat) (b : Bool) (x : Ctx) : (s.setCtx k b x).nextId = s.nextId := rfl
@[simp] theorem State.setCtx_tick (s : State) (k : Nat) (b : Bool) (x : Ctx) : (s.setCtx k b x).tick = s.tick := rfl
@[simp] theorem State.setCtx_clusters (s : State) (k : Nat) (b : Bool) (x : Ctx) : (s.setCtx k b x).clusters = s.clusters := rfl
@[simp] theorem State.setCtx_terps (s : State) (k : Nat) (b : Bool) (x : Ctx) : (s.setCtx k b x).terps = s.terps := rfl
@[simp] theorem State.setCtx_feps (s : State) (k : Nat) (b : Bool) (x : Ctx) : (s.setCtx k b x).feps = s.feps := rfl
@[simp] theorem State.setCtx_mem (s : State) (k : Nat) (b : Bool) (x : Ctx) : (s.setCtx k b x).mem = s.mem := rfl
@[simp] theorem State.setCtx_poison (s : State) (k : Nat) (b : Bool) (x : Ctx) : (s.setCtx k b x).poison = s.poison := rfl
@[simp] theorem State.setCtx_vers (s : State) (k : Nat) (b : Bool) (x : Ctx) : (s.setCtx k b x).vers = s.vers := rfl
@[simp] theorem State.setCtx_pool (s : State) (k : Nat) (b : Bool) (x : Ctx) : (s.setCtx k b x).pool = s.pool := rfl
@[simp] theorem State.setCtx_tide (s : State) (k : Nat) (b : Bool) (x : Ctx) : (s.setCtx k b x).tide = s.tide := rfl
@[simp] theorem State.setCtx_cmds (s : State) (k : Nat) (b : Bool) (x : Ctx) : (s.setCtx k b x).cmds = s.cmds := rfl
@[simp] theorem State.setCtx_objs (s : State) (k : Nat) (b : Bool) (x : Ctx) : (s.setCtx k b x).objs = s.objs := rfl
@[simp] theorem State.setCtx_regions (s : State) (k : Nat) (b : Bool) (x : Ctx) : (s.setCtx k b x).regions = s.regions := rfl
@[simp] theorem State.setCtx_saved (s : State) (k : Nat) (b : Bool) (x : Ctx) : (s.setCtx k b x).saved = s.saved := rfl
@[simp] theorem State.setCtx_qlive (s : State) (k : Nat) (b : Bool) (x : Ctx) : (s.setCtx k b x).qlive = s.qlive := rfl
@[simp] theorem State.setCtx_tlb (s : State) (k : Nat) (b : Bool) (x : Ctx) : (s.setCtx k b x).tlb = s.tlb := rfl
@[simp] theorem State.setCtx_invals (s : State) (k : Nat) (b : Bool) (x : Ctx) : (s.setCtx k b x).invals = s.invals := rfl
@[simp] theorem State.setCtx_moves (s : State) (k : Nat) (b : Bool) (x : Ctx) : (s.setCtx k b x).moves = s.moves := rfl
@[simp] theorem State.setCtx_frames (s : State) (k : Nat) (b : Bool) (x : Ctx) : (s.setCtx k b x).frames = s.frames := rfl
@[simp] theorem State.setCtx_cold (s : State) (k : Nat) (b : Bool) (x : Ctx) : (s.setCtx k b x).cold = s.cold := rfl
@[simp] theorem State.setCtx_scanAt (s : State) (k : Nat) (b : Bool) (x : Ctx) : (s.setCtx k b x).scanAt = s.scanAt := rfl
@[simp] theorem State.setCtx_qgbase (s : State) (k : Nat) (b : Bool) (x : Ctx) : (s.setCtx k b x).qgbase = s.qgbase := rfl
@[simp] theorem State.setCtx_qpbase (s : State) (k : Nat) (b : Bool) (x : Ctx) : (s.setCtx k b x).qpbase = s.qpbase := rfl
@[simp] theorem State.setCtx_qdbase (s : State) (k : Nat) (b : Bool) (x : Ctx) : (s.setCtx k b x).qdbase = s.qdbase := rfl
@[simp] theorem State.setCtx_ptbase (s : State) (k : Nat) (b : Bool) (x : Ctx) : (s.setCtx k b x).ptbase = s.ptbase := rfl
@[simp] theorem State.setCtx_lrtbase (s : State) (k : Nat) (b : Bool) (x : Ctx) : (s.setCtx k b x).lrtbase = s.lrtbase := rfl
@[simp] theorem State.setCtx_lrsw (s : State) (k : Nat) (b : Bool) (x : Ctx) : (s.setCtx k b x).lrsw = s.lrsw := rfl
@[simp] theorem State.setCtx_lrswWait (s : State) (k : Nat) (b : Bool) (x : Ctx) : (s.setCtx k b x).lrswWait = s.lrswWait := rfl
@[simp] theorem State.setCtx_fwd (s : State) (k : Nat) (b : Bool) (x : Ctx) : (s.setCtx k b x).fwd = s.fwd := rfl
@[simp] theorem State.setCtx_arbfloor (s : State) (k : Nat) (b : Bool) (x : Ctx) : (s.setCtx k b x).arbfloor = s.arbfloor := rfl
@[simp] theorem State.setCtx_envcnt (s : State) (k : Nat) (b : Bool) (x : Ctx) : (s.setCtx k b x).envcnt = s.envcnt := rfl
@[simp] theorem State.setCtx_arbNo (s : State) (k : Nat) (b : Bool) (x : Ctx) : (s.setCtx k b x).arbNo = s.arbNo := rfl
@[simp] theorem State.setCtx_arbAt (s : State) (k : Nat) (b : Bool) (x : Ctx) : (s.setCtx k b x).arbAt = s.arbAt := rfl
@[simp] theorem State.setCtx_nringBase (s : State) (k : Nat) (b : Bool) (x : Ctx) : (s.setCtx k b x).nringBase = s.nringBase := rfl
@[simp] theorem State.setCtx_nringLog2 (s : State) (k : Nat) (b : Bool) (x : Ctx) : (s.setCtx k b x).nringLog2 = s.nringLog2 := rfl
@[simp] theorem State.setCtx_nrCons (s : State) (k : Nat) (b : Bool) (x : Ctx) : (s.setCtx k b x).nrCons = s.nrCons := rfl
@[simp] theorem State.setCtx_nrProd (s : State) (k : Nat) (b : Bool) (x : Ctx) : (s.setCtx k b x).nrProd = s.nrProd := rfl
@[simp] theorem State.setCtx_nrWritten (s : State) (k : Nat) (b : Bool) (x : Ctx) : (s.setCtx k b x).nrWritten = s.nrWritten := rfl
@[simp] theorem State.setCtx_notices (s : State) (k : Nat) (b : Bool) (x : Ctx) : (s.setCtx k b x).notices = s.notices := rfl
@[simp] theorem State.setCtx_hostMem (s : State) (k : Nat) (b : Bool) (x : Ctx) : (s.setCtx k b x).hostMem = s.hostMem := rfl
@[simp] theorem State.setCtx_hostUp (s : State) (k : Nat) (b : Bool) (x : Ctx) : (s.setCtx k b x).hostUp = s.hostUp := rfl
@[simp] theorem State.setCtx_pctlBusy (s : State) (k : Nat) (b : Bool) (x : Ctx) : (s.setCtx k b x).pctlBusy = s.pctlBusy := rfl
@[simp] theorem State.setCtx_pctlErr (s : State) (k : Nat) (b : Bool) (x : Ctx) : (s.setCtx k b x).pctlErr = s.pctlErr := rfl
@[simp] theorem State.setCtx_pctlHeld (s : State) (k : Nat) (b : Bool) (x : Ctx) : (s.setCtx k b x).pctlHeld = s.pctlHeld := rfl
@[simp] theorem State.setCtx_owners (s : State) (k : Nat) (b : Bool) (x : Ctx) : (s.setCtx k b x).owners = s.owners := rfl
@[simp] theorem State.setCtx_levQ (s : State) (k : Nat) (b : Bool) (x : Ctx) : (s.setCtx k b x).levQ = s.levQ := rfl
@[simp] theorem State.setCtx_levHeld (s : State) (k : Nat) (b : Bool) (x : Ctx) : (s.setCtx k b x).levHeld = s.levHeld := rfl
@[simp] theorem State.setCtx_levRes (s : State) (k : Nat) (b : Bool) (x : Ctx) : (s.setCtx k b x).levRes = s.levRes := rfl
@[simp] theorem State.setCtx_levReason (s : State) (k : Nat) (b : Bool) (x : Ctx) : (s.setCtx k b x).levReason = s.levReason := rfl
@[simp] theorem State.setCtx_levNamed (s : State) (k : Nat) (b : Bool) (x : Ctx) : (s.setCtx k b x).levNamed = s.levNamed := rfl
@[simp] theorem State.setCtx_levExcess (s : State) (k : Nat) (b : Bool) (x : Ctx) : (s.setCtx k b x).levExcess = s.levExcess := rfl
@[simp] theorem State.setCtx_levSeq (s : State) (k : Nat) (b : Bool) (x : Ctx) : (s.setCtx k b x).levSeq = s.levSeq := rfl
@[simp] theorem State.setCtx_tdlk (s : State) (k : Nat) (b : Bool) (x : Ctx) : (s.setCtx k b x).tdlk = s.tdlk := rfl
@[simp] theorem State.setCtx_ports (s : State) (k : Nat) (b : Bool) (x : Ctx) : (s.setCtx k b x).ports = s.ports := rfl
@[simp] theorem State.setCtx_t2 (s : State) (k : Nat) (b : Bool) (x : Ctx) : (s.setCtx k b x).t2 = s.t2 := rfl
@[simp] theorem State.setCtx_islands (s : State) (k : Nat) (b : Bool) (x : Ctx) : (s.setCtx k b x).islands = s.islands := rfl
@[simp] theorem State.setCtx_dram (s : State) (k : Nat) (b : Bool) (x : Ctx) : (s.setCtx k b x).dram = s.dram := rfl
@[simp] theorem State.setCtx_fab (s : State) (k : Nat) (b : Bool) (x : Ctx) : (s.setCtx k b x).fab = s.fab := rfl
@[simp] theorem State.setCtx_passed (s : State) (k : Nat) (b : Bool) (x : Ctx) : (s.setCtx k b x).passed = s.passed := rfl
@[simp] theorem State.setCtx_presets (s : State) (k : Nat) (b : Bool) (x : Ctx) : (s.setCtx k b x).presets = s.presets := rfl
@[simp] theorem State.setCtx_brkArmed (s : State) (k : Nat) (b : Bool) (x : Ctx) : (s.setCtx k b x).brkArmed = s.brkArmed := rfl
@[simp] theorem State.setCtx_inReset (s : State) (k : Nat) (b : Bool) (x : Ctx) : (s.setCtx k b x).inReset = s.inReset := rfl
@[simp] theorem State.setCtx_identity (s : State) (k : Nat) (b : Bool) (x : Ctx) : (s.setCtx k b x).identity = s.identity := rfl
@[simp] theorem State.setCtx_certificate (s : State) (k : Nat) (b : Bool) (x : Ctx) : (s.setCtx k b x).certificate = s.certificate := rfl
@[simp] theorem State.setCtx_loadEnd (s : State) (k : Nat) (b : Bool) (x : Ctx) : (s.setCtx k b x).loadEnd = s.loadEnd := rfl

/-! `updCtx` writes cores alone. -/

@[simp] theorem State.updCtx_agenda (s : State) (k : Nat) (b : Bool) (f : Ctx → Ctx) : (s.updCtx k b f).agenda = s.agenda := rfl
@[simp] theorem State.updCtx_cur (s : State) (k : Nat) (b : Bool) (f : Ctx → Ctx) : (s.updCtx k b f).cur = s.cur := rfl
@[simp] theorem State.updCtx_curFep (s : State) (k : Nat) (b : Bool) (f : Ctx → Ctx) : (s.updCtx k b f).curFep = s.curFep := rfl
@[simp] theorem State.updCtx_fresh (s : State) (k : Nat) (b : Bool) (f : Ctx → Ctx) : (s.updCtx k b f).fresh = s.fresh := rfl
@[simp] theorem State.updCtx_nextId (s : State) (k : Nat) (b : Bool) (f : Ctx → Ctx) : (s.updCtx k b f).nextId = s.nextId := rfl
@[simp] theorem State.updCtx_tick (s : State) (k : Nat) (b : Bool) (f : Ctx → Ctx) : (s.updCtx k b f).tick = s.tick := rfl
@[simp] theorem State.updCtx_clusters (s : State) (k : Nat) (b : Bool) (f : Ctx → Ctx) : (s.updCtx k b f).clusters = s.clusters := rfl
@[simp] theorem State.updCtx_terps (s : State) (k : Nat) (b : Bool) (f : Ctx → Ctx) : (s.updCtx k b f).terps = s.terps := rfl
@[simp] theorem State.updCtx_feps (s : State) (k : Nat) (b : Bool) (f : Ctx → Ctx) : (s.updCtx k b f).feps = s.feps := rfl
@[simp] theorem State.updCtx_mem (s : State) (k : Nat) (b : Bool) (f : Ctx → Ctx) : (s.updCtx k b f).mem = s.mem := rfl
@[simp] theorem State.updCtx_poison (s : State) (k : Nat) (b : Bool) (f : Ctx → Ctx) : (s.updCtx k b f).poison = s.poison := rfl
@[simp] theorem State.updCtx_vers (s : State) (k : Nat) (b : Bool) (f : Ctx → Ctx) : (s.updCtx k b f).vers = s.vers := rfl
@[simp] theorem State.updCtx_pool (s : State) (k : Nat) (b : Bool) (f : Ctx → Ctx) : (s.updCtx k b f).pool = s.pool := rfl
@[simp] theorem State.updCtx_tide (s : State) (k : Nat) (b : Bool) (f : Ctx → Ctx) : (s.updCtx k b f).tide = s.tide := rfl
@[simp] theorem State.updCtx_cmds (s : State) (k : Nat) (b : Bool) (f : Ctx → Ctx) : (s.updCtx k b f).cmds = s.cmds := rfl
@[simp] theorem State.updCtx_objs (s : State) (k : Nat) (b : Bool) (f : Ctx → Ctx) : (s.updCtx k b f).objs = s.objs := rfl
@[simp] theorem State.updCtx_regions (s : State) (k : Nat) (b : Bool) (f : Ctx → Ctx) : (s.updCtx k b f).regions = s.regions := rfl
@[simp] theorem State.updCtx_saved (s : State) (k : Nat) (b : Bool) (f : Ctx → Ctx) : (s.updCtx k b f).saved = s.saved := rfl
@[simp] theorem State.updCtx_qlive (s : State) (k : Nat) (b : Bool) (f : Ctx → Ctx) : (s.updCtx k b f).qlive = s.qlive := rfl
@[simp] theorem State.updCtx_tlb (s : State) (k : Nat) (b : Bool) (f : Ctx → Ctx) : (s.updCtx k b f).tlb = s.tlb := rfl
@[simp] theorem State.updCtx_invals (s : State) (k : Nat) (b : Bool) (f : Ctx → Ctx) : (s.updCtx k b f).invals = s.invals := rfl
@[simp] theorem State.updCtx_moves (s : State) (k : Nat) (b : Bool) (f : Ctx → Ctx) : (s.updCtx k b f).moves = s.moves := rfl
@[simp] theorem State.updCtx_frames (s : State) (k : Nat) (b : Bool) (f : Ctx → Ctx) : (s.updCtx k b f).frames = s.frames := rfl
@[simp] theorem State.updCtx_cold (s : State) (k : Nat) (b : Bool) (f : Ctx → Ctx) : (s.updCtx k b f).cold = s.cold := rfl
@[simp] theorem State.updCtx_scanAt (s : State) (k : Nat) (b : Bool) (f : Ctx → Ctx) : (s.updCtx k b f).scanAt = s.scanAt := rfl
@[simp] theorem State.updCtx_qgbase (s : State) (k : Nat) (b : Bool) (f : Ctx → Ctx) : (s.updCtx k b f).qgbase = s.qgbase := rfl
@[simp] theorem State.updCtx_qpbase (s : State) (k : Nat) (b : Bool) (f : Ctx → Ctx) : (s.updCtx k b f).qpbase = s.qpbase := rfl
@[simp] theorem State.updCtx_qdbase (s : State) (k : Nat) (b : Bool) (f : Ctx → Ctx) : (s.updCtx k b f).qdbase = s.qdbase := rfl
@[simp] theorem State.updCtx_ptbase (s : State) (k : Nat) (b : Bool) (f : Ctx → Ctx) : (s.updCtx k b f).ptbase = s.ptbase := rfl
@[simp] theorem State.updCtx_lrtbase (s : State) (k : Nat) (b : Bool) (f : Ctx → Ctx) : (s.updCtx k b f).lrtbase = s.lrtbase := rfl
@[simp] theorem State.updCtx_lrsw (s : State) (k : Nat) (b : Bool) (f : Ctx → Ctx) : (s.updCtx k b f).lrsw = s.lrsw := rfl
@[simp] theorem State.updCtx_lrswWait (s : State) (k : Nat) (b : Bool) (f : Ctx → Ctx) : (s.updCtx k b f).lrswWait = s.lrswWait := rfl
@[simp] theorem State.updCtx_fwd (s : State) (k : Nat) (b : Bool) (f : Ctx → Ctx) : (s.updCtx k b f).fwd = s.fwd := rfl
@[simp] theorem State.updCtx_arbfloor (s : State) (k : Nat) (b : Bool) (f : Ctx → Ctx) : (s.updCtx k b f).arbfloor = s.arbfloor := rfl
@[simp] theorem State.updCtx_envcnt (s : State) (k : Nat) (b : Bool) (f : Ctx → Ctx) : (s.updCtx k b f).envcnt = s.envcnt := rfl
@[simp] theorem State.updCtx_arbNo (s : State) (k : Nat) (b : Bool) (f : Ctx → Ctx) : (s.updCtx k b f).arbNo = s.arbNo := rfl
@[simp] theorem State.updCtx_arbAt (s : State) (k : Nat) (b : Bool) (f : Ctx → Ctx) : (s.updCtx k b f).arbAt = s.arbAt := rfl
@[simp] theorem State.updCtx_nringBase (s : State) (k : Nat) (b : Bool) (f : Ctx → Ctx) : (s.updCtx k b f).nringBase = s.nringBase := rfl
@[simp] theorem State.updCtx_nringLog2 (s : State) (k : Nat) (b : Bool) (f : Ctx → Ctx) : (s.updCtx k b f).nringLog2 = s.nringLog2 := rfl
@[simp] theorem State.updCtx_nrCons (s : State) (k : Nat) (b : Bool) (f : Ctx → Ctx) : (s.updCtx k b f).nrCons = s.nrCons := rfl
@[simp] theorem State.updCtx_nrProd (s : State) (k : Nat) (b : Bool) (f : Ctx → Ctx) : (s.updCtx k b f).nrProd = s.nrProd := rfl
@[simp] theorem State.updCtx_nrWritten (s : State) (k : Nat) (b : Bool) (f : Ctx → Ctx) : (s.updCtx k b f).nrWritten = s.nrWritten := rfl
@[simp] theorem State.updCtx_notices (s : State) (k : Nat) (b : Bool) (f : Ctx → Ctx) : (s.updCtx k b f).notices = s.notices := rfl
@[simp] theorem State.updCtx_hostMem (s : State) (k : Nat) (b : Bool) (f : Ctx → Ctx) : (s.updCtx k b f).hostMem = s.hostMem := rfl
@[simp] theorem State.updCtx_hostUp (s : State) (k : Nat) (b : Bool) (f : Ctx → Ctx) : (s.updCtx k b f).hostUp = s.hostUp := rfl
@[simp] theorem State.updCtx_pctlBusy (s : State) (k : Nat) (b : Bool) (f : Ctx → Ctx) : (s.updCtx k b f).pctlBusy = s.pctlBusy := rfl
@[simp] theorem State.updCtx_pctlErr (s : State) (k : Nat) (b : Bool) (f : Ctx → Ctx) : (s.updCtx k b f).pctlErr = s.pctlErr := rfl
@[simp] theorem State.updCtx_pctlHeld (s : State) (k : Nat) (b : Bool) (f : Ctx → Ctx) : (s.updCtx k b f).pctlHeld = s.pctlHeld := rfl
@[simp] theorem State.updCtx_owners (s : State) (k : Nat) (b : Bool) (f : Ctx → Ctx) : (s.updCtx k b f).owners = s.owners := rfl
@[simp] theorem State.updCtx_levQ (s : State) (k : Nat) (b : Bool) (f : Ctx → Ctx) : (s.updCtx k b f).levQ = s.levQ := rfl
@[simp] theorem State.updCtx_levHeld (s : State) (k : Nat) (b : Bool) (f : Ctx → Ctx) : (s.updCtx k b f).levHeld = s.levHeld := rfl
@[simp] theorem State.updCtx_levRes (s : State) (k : Nat) (b : Bool) (f : Ctx → Ctx) : (s.updCtx k b f).levRes = s.levRes := rfl
@[simp] theorem State.updCtx_levReason (s : State) (k : Nat) (b : Bool) (f : Ctx → Ctx) : (s.updCtx k b f).levReason = s.levReason := rfl
@[simp] theorem State.updCtx_levNamed (s : State) (k : Nat) (b : Bool) (f : Ctx → Ctx) : (s.updCtx k b f).levNamed = s.levNamed := rfl
@[simp] theorem State.updCtx_levExcess (s : State) (k : Nat) (b : Bool) (f : Ctx → Ctx) : (s.updCtx k b f).levExcess = s.levExcess := rfl
@[simp] theorem State.updCtx_levSeq (s : State) (k : Nat) (b : Bool) (f : Ctx → Ctx) : (s.updCtx k b f).levSeq = s.levSeq := rfl
@[simp] theorem State.updCtx_tdlk (s : State) (k : Nat) (b : Bool) (f : Ctx → Ctx) : (s.updCtx k b f).tdlk = s.tdlk := rfl
@[simp] theorem State.updCtx_ports (s : State) (k : Nat) (b : Bool) (f : Ctx → Ctx) : (s.updCtx k b f).ports = s.ports := rfl
@[simp] theorem State.updCtx_t2 (s : State) (k : Nat) (b : Bool) (f : Ctx → Ctx) : (s.updCtx k b f).t2 = s.t2 := rfl
@[simp] theorem State.updCtx_islands (s : State) (k : Nat) (b : Bool) (f : Ctx → Ctx) : (s.updCtx k b f).islands = s.islands := rfl
@[simp] theorem State.updCtx_dram (s : State) (k : Nat) (b : Bool) (f : Ctx → Ctx) : (s.updCtx k b f).dram = s.dram := rfl
@[simp] theorem State.updCtx_fab (s : State) (k : Nat) (b : Bool) (f : Ctx → Ctx) : (s.updCtx k b f).fab = s.fab := rfl
@[simp] theorem State.updCtx_passed (s : State) (k : Nat) (b : Bool) (f : Ctx → Ctx) : (s.updCtx k b f).passed = s.passed := rfl
@[simp] theorem State.updCtx_presets (s : State) (k : Nat) (b : Bool) (f : Ctx → Ctx) : (s.updCtx k b f).presets = s.presets := rfl
@[simp] theorem State.updCtx_brkArmed (s : State) (k : Nat) (b : Bool) (f : Ctx → Ctx) : (s.updCtx k b f).brkArmed = s.brkArmed := rfl
@[simp] theorem State.updCtx_inReset (s : State) (k : Nat) (b : Bool) (f : Ctx → Ctx) : (s.updCtx k b f).inReset = s.inReset := rfl
@[simp] theorem State.updCtx_identity (s : State) (k : Nat) (b : Bool) (f : Ctx → Ctx) : (s.updCtx k b f).identity = s.identity := rfl
@[simp] theorem State.updCtx_certificate (s : State) (k : Nat) (b : Bool) (f : Ctx → Ctx) : (s.updCtx k b f).certificate = s.certificate := rfl
@[simp] theorem State.updCtx_loadEnd (s : State) (k : Nat) (b : Bool) (f : Ctx → Ctx) : (s.updCtx k b f).loadEnd = s.loadEnd := rfl

/-! `updAct` writes cores alone. -/

@[simp] theorem State.updAct_agenda (s : State) (k : Nat) (f : Ctx → Ctx) : (s.updAct k f).agenda = s.agenda := rfl
@[simp] theorem State.updAct_cur (s : State) (k : Nat) (f : Ctx → Ctx) : (s.updAct k f).cur = s.cur := rfl
@[simp] theorem State.updAct_curFep (s : State) (k : Nat) (f : Ctx → Ctx) : (s.updAct k f).curFep = s.curFep := rfl
@[simp] theorem State.updAct_fresh (s : State) (k : Nat) (f : Ctx → Ctx) : (s.updAct k f).fresh = s.fresh := rfl
@[simp] theorem State.updAct_nextId (s : State) (k : Nat) (f : Ctx → Ctx) : (s.updAct k f).nextId = s.nextId := rfl
@[simp] theorem State.updAct_tick (s : State) (k : Nat) (f : Ctx → Ctx) : (s.updAct k f).tick = s.tick := rfl
@[simp] theorem State.updAct_clusters (s : State) (k : Nat) (f : Ctx → Ctx) : (s.updAct k f).clusters = s.clusters := rfl
@[simp] theorem State.updAct_terps (s : State) (k : Nat) (f : Ctx → Ctx) : (s.updAct k f).terps = s.terps := rfl
@[simp] theorem State.updAct_feps (s : State) (k : Nat) (f : Ctx → Ctx) : (s.updAct k f).feps = s.feps := rfl
@[simp] theorem State.updAct_mem (s : State) (k : Nat) (f : Ctx → Ctx) : (s.updAct k f).mem = s.mem := rfl
@[simp] theorem State.updAct_poison (s : State) (k : Nat) (f : Ctx → Ctx) : (s.updAct k f).poison = s.poison := rfl
@[simp] theorem State.updAct_vers (s : State) (k : Nat) (f : Ctx → Ctx) : (s.updAct k f).vers = s.vers := rfl
@[simp] theorem State.updAct_pool (s : State) (k : Nat) (f : Ctx → Ctx) : (s.updAct k f).pool = s.pool := rfl
@[simp] theorem State.updAct_tide (s : State) (k : Nat) (f : Ctx → Ctx) : (s.updAct k f).tide = s.tide := rfl
@[simp] theorem State.updAct_cmds (s : State) (k : Nat) (f : Ctx → Ctx) : (s.updAct k f).cmds = s.cmds := rfl
@[simp] theorem State.updAct_objs (s : State) (k : Nat) (f : Ctx → Ctx) : (s.updAct k f).objs = s.objs := rfl
@[simp] theorem State.updAct_regions (s : State) (k : Nat) (f : Ctx → Ctx) : (s.updAct k f).regions = s.regions := rfl
@[simp] theorem State.updAct_saved (s : State) (k : Nat) (f : Ctx → Ctx) : (s.updAct k f).saved = s.saved := rfl
@[simp] theorem State.updAct_qlive (s : State) (k : Nat) (f : Ctx → Ctx) : (s.updAct k f).qlive = s.qlive := rfl
@[simp] theorem State.updAct_tlb (s : State) (k : Nat) (f : Ctx → Ctx) : (s.updAct k f).tlb = s.tlb := rfl
@[simp] theorem State.updAct_invals (s : State) (k : Nat) (f : Ctx → Ctx) : (s.updAct k f).invals = s.invals := rfl
@[simp] theorem State.updAct_moves (s : State) (k : Nat) (f : Ctx → Ctx) : (s.updAct k f).moves = s.moves := rfl
@[simp] theorem State.updAct_frames (s : State) (k : Nat) (f : Ctx → Ctx) : (s.updAct k f).frames = s.frames := rfl
@[simp] theorem State.updAct_cold (s : State) (k : Nat) (f : Ctx → Ctx) : (s.updAct k f).cold = s.cold := rfl
@[simp] theorem State.updAct_scanAt (s : State) (k : Nat) (f : Ctx → Ctx) : (s.updAct k f).scanAt = s.scanAt := rfl
@[simp] theorem State.updAct_qgbase (s : State) (k : Nat) (f : Ctx → Ctx) : (s.updAct k f).qgbase = s.qgbase := rfl
@[simp] theorem State.updAct_qpbase (s : State) (k : Nat) (f : Ctx → Ctx) : (s.updAct k f).qpbase = s.qpbase := rfl
@[simp] theorem State.updAct_qdbase (s : State) (k : Nat) (f : Ctx → Ctx) : (s.updAct k f).qdbase = s.qdbase := rfl
@[simp] theorem State.updAct_ptbase (s : State) (k : Nat) (f : Ctx → Ctx) : (s.updAct k f).ptbase = s.ptbase := rfl
@[simp] theorem State.updAct_lrtbase (s : State) (k : Nat) (f : Ctx → Ctx) : (s.updAct k f).lrtbase = s.lrtbase := rfl
@[simp] theorem State.updAct_lrsw (s : State) (k : Nat) (f : Ctx → Ctx) : (s.updAct k f).lrsw = s.lrsw := rfl
@[simp] theorem State.updAct_lrswWait (s : State) (k : Nat) (f : Ctx → Ctx) : (s.updAct k f).lrswWait = s.lrswWait := rfl
@[simp] theorem State.updAct_fwd (s : State) (k : Nat) (f : Ctx → Ctx) : (s.updAct k f).fwd = s.fwd := rfl
@[simp] theorem State.updAct_arbfloor (s : State) (k : Nat) (f : Ctx → Ctx) : (s.updAct k f).arbfloor = s.arbfloor := rfl
@[simp] theorem State.updAct_envcnt (s : State) (k : Nat) (f : Ctx → Ctx) : (s.updAct k f).envcnt = s.envcnt := rfl
@[simp] theorem State.updAct_arbNo (s : State) (k : Nat) (f : Ctx → Ctx) : (s.updAct k f).arbNo = s.arbNo := rfl
@[simp] theorem State.updAct_arbAt (s : State) (k : Nat) (f : Ctx → Ctx) : (s.updAct k f).arbAt = s.arbAt := rfl
@[simp] theorem State.updAct_nringBase (s : State) (k : Nat) (f : Ctx → Ctx) : (s.updAct k f).nringBase = s.nringBase := rfl
@[simp] theorem State.updAct_nringLog2 (s : State) (k : Nat) (f : Ctx → Ctx) : (s.updAct k f).nringLog2 = s.nringLog2 := rfl
@[simp] theorem State.updAct_nrCons (s : State) (k : Nat) (f : Ctx → Ctx) : (s.updAct k f).nrCons = s.nrCons := rfl
@[simp] theorem State.updAct_nrProd (s : State) (k : Nat) (f : Ctx → Ctx) : (s.updAct k f).nrProd = s.nrProd := rfl
@[simp] theorem State.updAct_nrWritten (s : State) (k : Nat) (f : Ctx → Ctx) : (s.updAct k f).nrWritten = s.nrWritten := rfl
@[simp] theorem State.updAct_notices (s : State) (k : Nat) (f : Ctx → Ctx) : (s.updAct k f).notices = s.notices := rfl
@[simp] theorem State.updAct_hostMem (s : State) (k : Nat) (f : Ctx → Ctx) : (s.updAct k f).hostMem = s.hostMem := rfl
@[simp] theorem State.updAct_hostUp (s : State) (k : Nat) (f : Ctx → Ctx) : (s.updAct k f).hostUp = s.hostUp := rfl
@[simp] theorem State.updAct_pctlBusy (s : State) (k : Nat) (f : Ctx → Ctx) : (s.updAct k f).pctlBusy = s.pctlBusy := rfl
@[simp] theorem State.updAct_pctlErr (s : State) (k : Nat) (f : Ctx → Ctx) : (s.updAct k f).pctlErr = s.pctlErr := rfl
@[simp] theorem State.updAct_pctlHeld (s : State) (k : Nat) (f : Ctx → Ctx) : (s.updAct k f).pctlHeld = s.pctlHeld := rfl
@[simp] theorem State.updAct_owners (s : State) (k : Nat) (f : Ctx → Ctx) : (s.updAct k f).owners = s.owners := rfl
@[simp] theorem State.updAct_levQ (s : State) (k : Nat) (f : Ctx → Ctx) : (s.updAct k f).levQ = s.levQ := rfl
@[simp] theorem State.updAct_levHeld (s : State) (k : Nat) (f : Ctx → Ctx) : (s.updAct k f).levHeld = s.levHeld := rfl
@[simp] theorem State.updAct_levRes (s : State) (k : Nat) (f : Ctx → Ctx) : (s.updAct k f).levRes = s.levRes := rfl
@[simp] theorem State.updAct_levReason (s : State) (k : Nat) (f : Ctx → Ctx) : (s.updAct k f).levReason = s.levReason := rfl
@[simp] theorem State.updAct_levNamed (s : State) (k : Nat) (f : Ctx → Ctx) : (s.updAct k f).levNamed = s.levNamed := rfl
@[simp] theorem State.updAct_levExcess (s : State) (k : Nat) (f : Ctx → Ctx) : (s.updAct k f).levExcess = s.levExcess := rfl
@[simp] theorem State.updAct_levSeq (s : State) (k : Nat) (f : Ctx → Ctx) : (s.updAct k f).levSeq = s.levSeq := rfl
@[simp] theorem State.updAct_tdlk (s : State) (k : Nat) (f : Ctx → Ctx) : (s.updAct k f).tdlk = s.tdlk := rfl
@[simp] theorem State.updAct_ports (s : State) (k : Nat) (f : Ctx → Ctx) : (s.updAct k f).ports = s.ports := rfl
@[simp] theorem State.updAct_t2 (s : State) (k : Nat) (f : Ctx → Ctx) : (s.updAct k f).t2 = s.t2 := rfl
@[simp] theorem State.updAct_islands (s : State) (k : Nat) (f : Ctx → Ctx) : (s.updAct k f).islands = s.islands := rfl
@[simp] theorem State.updAct_dram (s : State) (k : Nat) (f : Ctx → Ctx) : (s.updAct k f).dram = s.dram := rfl
@[simp] theorem State.updAct_fab (s : State) (k : Nat) (f : Ctx → Ctx) : (s.updAct k f).fab = s.fab := rfl
@[simp] theorem State.updAct_passed (s : State) (k : Nat) (f : Ctx → Ctx) : (s.updAct k f).passed = s.passed := rfl
@[simp] theorem State.updAct_presets (s : State) (k : Nat) (f : Ctx → Ctx) : (s.updAct k f).presets = s.presets := rfl
@[simp] theorem State.updAct_brkArmed (s : State) (k : Nat) (f : Ctx → Ctx) : (s.updAct k f).brkArmed = s.brkArmed := rfl
@[simp] theorem State.updAct_inReset (s : State) (k : Nat) (f : Ctx → Ctx) : (s.updAct k f).inReset = s.inReset := rfl
@[simp] theorem State.updAct_identity (s : State) (k : Nat) (f : Ctx → Ctx) : (s.updAct k f).identity = s.identity := rfl
@[simp] theorem State.updAct_certificate (s : State) (k : Nat) (f : Ctx → Ctx) : (s.updAct k f).certificate = s.certificate := rfl
@[simp] theorem State.updAct_loadEnd (s : State) (k : Nat) (f : Ctx → Ctx) : (s.updAct k f).loadEnd = s.loadEnd := rfl

/-! `updSeq` writes cores alone. -/

@[simp] theorem State.updSeq_agenda (s : State) (k : Nat) (st : Stream) (f : Seq → Seq) : (s.updSeq k st f).agenda = s.agenda := rfl
@[simp] theorem State.updSeq_cur (s : State) (k : Nat) (st : Stream) (f : Seq → Seq) : (s.updSeq k st f).cur = s.cur := rfl
@[simp] theorem State.updSeq_curFep (s : State) (k : Nat) (st : Stream) (f : Seq → Seq) : (s.updSeq k st f).curFep = s.curFep := rfl
@[simp] theorem State.updSeq_fresh (s : State) (k : Nat) (st : Stream) (f : Seq → Seq) : (s.updSeq k st f).fresh = s.fresh := rfl
@[simp] theorem State.updSeq_nextId (s : State) (k : Nat) (st : Stream) (f : Seq → Seq) : (s.updSeq k st f).nextId = s.nextId := rfl
@[simp] theorem State.updSeq_tick (s : State) (k : Nat) (st : Stream) (f : Seq → Seq) : (s.updSeq k st f).tick = s.tick := rfl
@[simp] theorem State.updSeq_clusters (s : State) (k : Nat) (st : Stream) (f : Seq → Seq) : (s.updSeq k st f).clusters = s.clusters := rfl
@[simp] theorem State.updSeq_terps (s : State) (k : Nat) (st : Stream) (f : Seq → Seq) : (s.updSeq k st f).terps = s.terps := rfl
@[simp] theorem State.updSeq_feps (s : State) (k : Nat) (st : Stream) (f : Seq → Seq) : (s.updSeq k st f).feps = s.feps := rfl
@[simp] theorem State.updSeq_mem (s : State) (k : Nat) (st : Stream) (f : Seq → Seq) : (s.updSeq k st f).mem = s.mem := rfl
@[simp] theorem State.updSeq_poison (s : State) (k : Nat) (st : Stream) (f : Seq → Seq) : (s.updSeq k st f).poison = s.poison := rfl
@[simp] theorem State.updSeq_vers (s : State) (k : Nat) (st : Stream) (f : Seq → Seq) : (s.updSeq k st f).vers = s.vers := rfl
@[simp] theorem State.updSeq_pool (s : State) (k : Nat) (st : Stream) (f : Seq → Seq) : (s.updSeq k st f).pool = s.pool := rfl
@[simp] theorem State.updSeq_tide (s : State) (k : Nat) (st : Stream) (f : Seq → Seq) : (s.updSeq k st f).tide = s.tide := rfl
@[simp] theorem State.updSeq_cmds (s : State) (k : Nat) (st : Stream) (f : Seq → Seq) : (s.updSeq k st f).cmds = s.cmds := rfl
@[simp] theorem State.updSeq_objs (s : State) (k : Nat) (st : Stream) (f : Seq → Seq) : (s.updSeq k st f).objs = s.objs := rfl
@[simp] theorem State.updSeq_regions (s : State) (k : Nat) (st : Stream) (f : Seq → Seq) : (s.updSeq k st f).regions = s.regions := rfl
@[simp] theorem State.updSeq_saved (s : State) (k : Nat) (st : Stream) (f : Seq → Seq) : (s.updSeq k st f).saved = s.saved := rfl
@[simp] theorem State.updSeq_qlive (s : State) (k : Nat) (st : Stream) (f : Seq → Seq) : (s.updSeq k st f).qlive = s.qlive := rfl
@[simp] theorem State.updSeq_tlb (s : State) (k : Nat) (st : Stream) (f : Seq → Seq) : (s.updSeq k st f).tlb = s.tlb := rfl
@[simp] theorem State.updSeq_invals (s : State) (k : Nat) (st : Stream) (f : Seq → Seq) : (s.updSeq k st f).invals = s.invals := rfl
@[simp] theorem State.updSeq_moves (s : State) (k : Nat) (st : Stream) (f : Seq → Seq) : (s.updSeq k st f).moves = s.moves := rfl
@[simp] theorem State.updSeq_frames (s : State) (k : Nat) (st : Stream) (f : Seq → Seq) : (s.updSeq k st f).frames = s.frames := rfl
@[simp] theorem State.updSeq_cold (s : State) (k : Nat) (st : Stream) (f : Seq → Seq) : (s.updSeq k st f).cold = s.cold := rfl
@[simp] theorem State.updSeq_scanAt (s : State) (k : Nat) (st : Stream) (f : Seq → Seq) : (s.updSeq k st f).scanAt = s.scanAt := rfl
@[simp] theorem State.updSeq_qgbase (s : State) (k : Nat) (st : Stream) (f : Seq → Seq) : (s.updSeq k st f).qgbase = s.qgbase := rfl
@[simp] theorem State.updSeq_qpbase (s : State) (k : Nat) (st : Stream) (f : Seq → Seq) : (s.updSeq k st f).qpbase = s.qpbase := rfl
@[simp] theorem State.updSeq_qdbase (s : State) (k : Nat) (st : Stream) (f : Seq → Seq) : (s.updSeq k st f).qdbase = s.qdbase := rfl
@[simp] theorem State.updSeq_ptbase (s : State) (k : Nat) (st : Stream) (f : Seq → Seq) : (s.updSeq k st f).ptbase = s.ptbase := rfl
@[simp] theorem State.updSeq_lrtbase (s : State) (k : Nat) (st : Stream) (f : Seq → Seq) : (s.updSeq k st f).lrtbase = s.lrtbase := rfl
@[simp] theorem State.updSeq_lrsw (s : State) (k : Nat) (st : Stream) (f : Seq → Seq) : (s.updSeq k st f).lrsw = s.lrsw := rfl
@[simp] theorem State.updSeq_lrswWait (s : State) (k : Nat) (st : Stream) (f : Seq → Seq) : (s.updSeq k st f).lrswWait = s.lrswWait := rfl
@[simp] theorem State.updSeq_fwd (s : State) (k : Nat) (st : Stream) (f : Seq → Seq) : (s.updSeq k st f).fwd = s.fwd := rfl
@[simp] theorem State.updSeq_arbfloor (s : State) (k : Nat) (st : Stream) (f : Seq → Seq) : (s.updSeq k st f).arbfloor = s.arbfloor := rfl
@[simp] theorem State.updSeq_envcnt (s : State) (k : Nat) (st : Stream) (f : Seq → Seq) : (s.updSeq k st f).envcnt = s.envcnt := rfl
@[simp] theorem State.updSeq_arbNo (s : State) (k : Nat) (st : Stream) (f : Seq → Seq) : (s.updSeq k st f).arbNo = s.arbNo := rfl
@[simp] theorem State.updSeq_arbAt (s : State) (k : Nat) (st : Stream) (f : Seq → Seq) : (s.updSeq k st f).arbAt = s.arbAt := rfl
@[simp] theorem State.updSeq_nringBase (s : State) (k : Nat) (st : Stream) (f : Seq → Seq) : (s.updSeq k st f).nringBase = s.nringBase := rfl
@[simp] theorem State.updSeq_nringLog2 (s : State) (k : Nat) (st : Stream) (f : Seq → Seq) : (s.updSeq k st f).nringLog2 = s.nringLog2 := rfl
@[simp] theorem State.updSeq_nrCons (s : State) (k : Nat) (st : Stream) (f : Seq → Seq) : (s.updSeq k st f).nrCons = s.nrCons := rfl
@[simp] theorem State.updSeq_nrProd (s : State) (k : Nat) (st : Stream) (f : Seq → Seq) : (s.updSeq k st f).nrProd = s.nrProd := rfl
@[simp] theorem State.updSeq_nrWritten (s : State) (k : Nat) (st : Stream) (f : Seq → Seq) : (s.updSeq k st f).nrWritten = s.nrWritten := rfl
@[simp] theorem State.updSeq_notices (s : State) (k : Nat) (st : Stream) (f : Seq → Seq) : (s.updSeq k st f).notices = s.notices := rfl
@[simp] theorem State.updSeq_hostMem (s : State) (k : Nat) (st : Stream) (f : Seq → Seq) : (s.updSeq k st f).hostMem = s.hostMem := rfl
@[simp] theorem State.updSeq_hostUp (s : State) (k : Nat) (st : Stream) (f : Seq → Seq) : (s.updSeq k st f).hostUp = s.hostUp := rfl
@[simp] theorem State.updSeq_pctlBusy (s : State) (k : Nat) (st : Stream) (f : Seq → Seq) : (s.updSeq k st f).pctlBusy = s.pctlBusy := rfl
@[simp] theorem State.updSeq_pctlErr (s : State) (k : Nat) (st : Stream) (f : Seq → Seq) : (s.updSeq k st f).pctlErr = s.pctlErr := rfl
@[simp] theorem State.updSeq_pctlHeld (s : State) (k : Nat) (st : Stream) (f : Seq → Seq) : (s.updSeq k st f).pctlHeld = s.pctlHeld := rfl
@[simp] theorem State.updSeq_owners (s : State) (k : Nat) (st : Stream) (f : Seq → Seq) : (s.updSeq k st f).owners = s.owners := rfl
@[simp] theorem State.updSeq_levQ (s : State) (k : Nat) (st : Stream) (f : Seq → Seq) : (s.updSeq k st f).levQ = s.levQ := rfl
@[simp] theorem State.updSeq_levHeld (s : State) (k : Nat) (st : Stream) (f : Seq → Seq) : (s.updSeq k st f).levHeld = s.levHeld := rfl
@[simp] theorem State.updSeq_levRes (s : State) (k : Nat) (st : Stream) (f : Seq → Seq) : (s.updSeq k st f).levRes = s.levRes := rfl
@[simp] theorem State.updSeq_levReason (s : State) (k : Nat) (st : Stream) (f : Seq → Seq) : (s.updSeq k st f).levReason = s.levReason := rfl
@[simp] theorem State.updSeq_levNamed (s : State) (k : Nat) (st : Stream) (f : Seq → Seq) : (s.updSeq k st f).levNamed = s.levNamed := rfl
@[simp] theorem State.updSeq_levExcess (s : State) (k : Nat) (st : Stream) (f : Seq → Seq) : (s.updSeq k st f).levExcess = s.levExcess := rfl
@[simp] theorem State.updSeq_levSeq (s : State) (k : Nat) (st : Stream) (f : Seq → Seq) : (s.updSeq k st f).levSeq = s.levSeq := rfl
@[simp] theorem State.updSeq_tdlk (s : State) (k : Nat) (st : Stream) (f : Seq → Seq) : (s.updSeq k st f).tdlk = s.tdlk := rfl
@[simp] theorem State.updSeq_ports (s : State) (k : Nat) (st : Stream) (f : Seq → Seq) : (s.updSeq k st f).ports = s.ports := rfl
@[simp] theorem State.updSeq_t2 (s : State) (k : Nat) (st : Stream) (f : Seq → Seq) : (s.updSeq k st f).t2 = s.t2 := rfl
@[simp] theorem State.updSeq_islands (s : State) (k : Nat) (st : Stream) (f : Seq → Seq) : (s.updSeq k st f).islands = s.islands := rfl
@[simp] theorem State.updSeq_dram (s : State) (k : Nat) (st : Stream) (f : Seq → Seq) : (s.updSeq k st f).dram = s.dram := rfl
@[simp] theorem State.updSeq_fab (s : State) (k : Nat) (st : Stream) (f : Seq → Seq) : (s.updSeq k st f).fab = s.fab := rfl
@[simp] theorem State.updSeq_passed (s : State) (k : Nat) (st : Stream) (f : Seq → Seq) : (s.updSeq k st f).passed = s.passed := rfl
@[simp] theorem State.updSeq_presets (s : State) (k : Nat) (st : Stream) (f : Seq → Seq) : (s.updSeq k st f).presets = s.presets := rfl
@[simp] theorem State.updSeq_brkArmed (s : State) (k : Nat) (st : Stream) (f : Seq → Seq) : (s.updSeq k st f).brkArmed = s.brkArmed := rfl
@[simp] theorem State.updSeq_inReset (s : State) (k : Nat) (st : Stream) (f : Seq → Seq) : (s.updSeq k st f).inReset = s.inReset := rfl
@[simp] theorem State.updSeq_identity (s : State) (k : Nat) (st : Stream) (f : Seq → Seq) : (s.updSeq k st f).identity = s.identity := rfl
@[simp] theorem State.updSeq_certificate (s : State) (k : Nat) (st : Stream) (f : Seq → Seq) : (s.updSeq k st f).certificate = s.certificate := rfl
@[simp] theorem State.updSeq_loadEnd (s : State) (k : Nat) (st : Stream) (f : Seq → Seq) : (s.updSeq k st f).loadEnd = s.loadEnd := rfl

/-! `setX` writes cores alone. -/

@[simp] theorem State.setX_agenda (s : State) (r : XReg) (v : Word) : (s.setX r v).agenda = s.agenda := rfl
@[simp] theorem State.setX_cur (s : State) (r : XReg) (v : Word) : (s.setX r v).cur = s.cur := rfl
@[simp] theorem State.setX_curFep (s : State) (r : XReg) (v : Word) : (s.setX r v).curFep = s.curFep := rfl
@[simp] theorem State.setX_fresh (s : State) (r : XReg) (v : Word) : (s.setX r v).fresh = s.fresh := rfl
@[simp] theorem State.setX_nextId (s : State) (r : XReg) (v : Word) : (s.setX r v).nextId = s.nextId := rfl
@[simp] theorem State.setX_tick (s : State) (r : XReg) (v : Word) : (s.setX r v).tick = s.tick := rfl
@[simp] theorem State.setX_clusters (s : State) (r : XReg) (v : Word) : (s.setX r v).clusters = s.clusters := rfl
@[simp] theorem State.setX_terps (s : State) (r : XReg) (v : Word) : (s.setX r v).terps = s.terps := rfl
@[simp] theorem State.setX_feps (s : State) (r : XReg) (v : Word) : (s.setX r v).feps = s.feps := rfl
@[simp] theorem State.setX_mem (s : State) (r : XReg) (v : Word) : (s.setX r v).mem = s.mem := rfl
@[simp] theorem State.setX_poison (s : State) (r : XReg) (v : Word) : (s.setX r v).poison = s.poison := rfl
@[simp] theorem State.setX_vers (s : State) (r : XReg) (v : Word) : (s.setX r v).vers = s.vers := rfl
@[simp] theorem State.setX_pool (s : State) (r : XReg) (v : Word) : (s.setX r v).pool = s.pool := rfl
@[simp] theorem State.setX_tide (s : State) (r : XReg) (v : Word) : (s.setX r v).tide = s.tide := rfl
@[simp] theorem State.setX_cmds (s : State) (r : XReg) (v : Word) : (s.setX r v).cmds = s.cmds := rfl
@[simp] theorem State.setX_objs (s : State) (r : XReg) (v : Word) : (s.setX r v).objs = s.objs := rfl
@[simp] theorem State.setX_regions (s : State) (r : XReg) (v : Word) : (s.setX r v).regions = s.regions := rfl
@[simp] theorem State.setX_saved (s : State) (r : XReg) (v : Word) : (s.setX r v).saved = s.saved := rfl
@[simp] theorem State.setX_qlive (s : State) (r : XReg) (v : Word) : (s.setX r v).qlive = s.qlive := rfl
@[simp] theorem State.setX_tlb (s : State) (r : XReg) (v : Word) : (s.setX r v).tlb = s.tlb := rfl
@[simp] theorem State.setX_invals (s : State) (r : XReg) (v : Word) : (s.setX r v).invals = s.invals := rfl
@[simp] theorem State.setX_moves (s : State) (r : XReg) (v : Word) : (s.setX r v).moves = s.moves := rfl
@[simp] theorem State.setX_frames (s : State) (r : XReg) (v : Word) : (s.setX r v).frames = s.frames := rfl
@[simp] theorem State.setX_cold (s : State) (r : XReg) (v : Word) : (s.setX r v).cold = s.cold := rfl
@[simp] theorem State.setX_scanAt (s : State) (r : XReg) (v : Word) : (s.setX r v).scanAt = s.scanAt := rfl
@[simp] theorem State.setX_qgbase (s : State) (r : XReg) (v : Word) : (s.setX r v).qgbase = s.qgbase := rfl
@[simp] theorem State.setX_qpbase (s : State) (r : XReg) (v : Word) : (s.setX r v).qpbase = s.qpbase := rfl
@[simp] theorem State.setX_qdbase (s : State) (r : XReg) (v : Word) : (s.setX r v).qdbase = s.qdbase := rfl
@[simp] theorem State.setX_ptbase (s : State) (r : XReg) (v : Word) : (s.setX r v).ptbase = s.ptbase := rfl
@[simp] theorem State.setX_lrtbase (s : State) (r : XReg) (v : Word) : (s.setX r v).lrtbase = s.lrtbase := rfl
@[simp] theorem State.setX_lrsw (s : State) (r : XReg) (v : Word) : (s.setX r v).lrsw = s.lrsw := rfl
@[simp] theorem State.setX_lrswWait (s : State) (r : XReg) (v : Word) : (s.setX r v).lrswWait = s.lrswWait := rfl
@[simp] theorem State.setX_fwd (s : State) (r : XReg) (v : Word) : (s.setX r v).fwd = s.fwd := rfl
@[simp] theorem State.setX_arbfloor (s : State) (r : XReg) (v : Word) : (s.setX r v).arbfloor = s.arbfloor := rfl
@[simp] theorem State.setX_envcnt (s : State) (r : XReg) (v : Word) : (s.setX r v).envcnt = s.envcnt := rfl
@[simp] theorem State.setX_arbNo (s : State) (r : XReg) (v : Word) : (s.setX r v).arbNo = s.arbNo := rfl
@[simp] theorem State.setX_arbAt (s : State) (r : XReg) (v : Word) : (s.setX r v).arbAt = s.arbAt := rfl
@[simp] theorem State.setX_nringBase (s : State) (r : XReg) (v : Word) : (s.setX r v).nringBase = s.nringBase := rfl
@[simp] theorem State.setX_nringLog2 (s : State) (r : XReg) (v : Word) : (s.setX r v).nringLog2 = s.nringLog2 := rfl
@[simp] theorem State.setX_nrCons (s : State) (r : XReg) (v : Word) : (s.setX r v).nrCons = s.nrCons := rfl
@[simp] theorem State.setX_nrProd (s : State) (r : XReg) (v : Word) : (s.setX r v).nrProd = s.nrProd := rfl
@[simp] theorem State.setX_nrWritten (s : State) (r : XReg) (v : Word) : (s.setX r v).nrWritten = s.nrWritten := rfl
@[simp] theorem State.setX_notices (s : State) (r : XReg) (v : Word) : (s.setX r v).notices = s.notices := rfl
@[simp] theorem State.setX_hostMem (s : State) (r : XReg) (v : Word) : (s.setX r v).hostMem = s.hostMem := rfl
@[simp] theorem State.setX_hostUp (s : State) (r : XReg) (v : Word) : (s.setX r v).hostUp = s.hostUp := rfl
@[simp] theorem State.setX_pctlBusy (s : State) (r : XReg) (v : Word) : (s.setX r v).pctlBusy = s.pctlBusy := rfl
@[simp] theorem State.setX_pctlErr (s : State) (r : XReg) (v : Word) : (s.setX r v).pctlErr = s.pctlErr := rfl
@[simp] theorem State.setX_pctlHeld (s : State) (r : XReg) (v : Word) : (s.setX r v).pctlHeld = s.pctlHeld := rfl
@[simp] theorem State.setX_owners (s : State) (r : XReg) (v : Word) : (s.setX r v).owners = s.owners := rfl
@[simp] theorem State.setX_levQ (s : State) (r : XReg) (v : Word) : (s.setX r v).levQ = s.levQ := rfl
@[simp] theorem State.setX_levHeld (s : State) (r : XReg) (v : Word) : (s.setX r v).levHeld = s.levHeld := rfl
@[simp] theorem State.setX_levRes (s : State) (r : XReg) (v : Word) : (s.setX r v).levRes = s.levRes := rfl
@[simp] theorem State.setX_levReason (s : State) (r : XReg) (v : Word) : (s.setX r v).levReason = s.levReason := rfl
@[simp] theorem State.setX_levNamed (s : State) (r : XReg) (v : Word) : (s.setX r v).levNamed = s.levNamed := rfl
@[simp] theorem State.setX_levExcess (s : State) (r : XReg) (v : Word) : (s.setX r v).levExcess = s.levExcess := rfl
@[simp] theorem State.setX_levSeq (s : State) (r : XReg) (v : Word) : (s.setX r v).levSeq = s.levSeq := rfl
@[simp] theorem State.setX_tdlk (s : State) (r : XReg) (v : Word) : (s.setX r v).tdlk = s.tdlk := rfl
@[simp] theorem State.setX_ports (s : State) (r : XReg) (v : Word) : (s.setX r v).ports = s.ports := rfl
@[simp] theorem State.setX_t2 (s : State) (r : XReg) (v : Word) : (s.setX r v).t2 = s.t2 := rfl
@[simp] theorem State.setX_islands (s : State) (r : XReg) (v : Word) : (s.setX r v).islands = s.islands := rfl
@[simp] theorem State.setX_dram (s : State) (r : XReg) (v : Word) : (s.setX r v).dram = s.dram := rfl
@[simp] theorem State.setX_fab (s : State) (r : XReg) (v : Word) : (s.setX r v).fab = s.fab := rfl
@[simp] theorem State.setX_passed (s : State) (r : XReg) (v : Word) : (s.setX r v).passed = s.passed := rfl
@[simp] theorem State.setX_presets (s : State) (r : XReg) (v : Word) : (s.setX r v).presets = s.presets := rfl
@[simp] theorem State.setX_brkArmed (s : State) (r : XReg) (v : Word) : (s.setX r v).brkArmed = s.brkArmed := rfl
@[simp] theorem State.setX_inReset (s : State) (r : XReg) (v : Word) : (s.setX r v).inReset = s.inReset := rfl
@[simp] theorem State.setX_identity (s : State) (r : XReg) (v : Word) : (s.setX r v).identity = s.identity := rfl
@[simp] theorem State.setX_certificate (s : State) (r : XReg) (v : Word) : (s.setX r v).certificate = s.certificate := rfl
@[simp] theorem State.setX_loadEnd (s : State) (r : XReg) (v : Word) : (s.setX r v).loadEnd = s.loadEnd := rfl

/-! `updMe` writes cores alone. -/

@[simp] theorem State.updMe_agenda (s : State) (f : Seq → Seq) : (s.updMe f).agenda = s.agenda := rfl
@[simp] theorem State.updMe_cur (s : State) (f : Seq → Seq) : (s.updMe f).cur = s.cur := rfl
@[simp] theorem State.updMe_curFep (s : State) (f : Seq → Seq) : (s.updMe f).curFep = s.curFep := rfl
@[simp] theorem State.updMe_fresh (s : State) (f : Seq → Seq) : (s.updMe f).fresh = s.fresh := rfl
@[simp] theorem State.updMe_nextId (s : State) (f : Seq → Seq) : (s.updMe f).nextId = s.nextId := rfl
@[simp] theorem State.updMe_tick (s : State) (f : Seq → Seq) : (s.updMe f).tick = s.tick := rfl
@[simp] theorem State.updMe_clusters (s : State) (f : Seq → Seq) : (s.updMe f).clusters = s.clusters := rfl
@[simp] theorem State.updMe_terps (s : State) (f : Seq → Seq) : (s.updMe f).terps = s.terps := rfl
@[simp] theorem State.updMe_feps (s : State) (f : Seq → Seq) : (s.updMe f).feps = s.feps := rfl
@[simp] theorem State.updMe_mem (s : State) (f : Seq → Seq) : (s.updMe f).mem = s.mem := rfl
@[simp] theorem State.updMe_poison (s : State) (f : Seq → Seq) : (s.updMe f).poison = s.poison := rfl
@[simp] theorem State.updMe_vers (s : State) (f : Seq → Seq) : (s.updMe f).vers = s.vers := rfl
@[simp] theorem State.updMe_pool (s : State) (f : Seq → Seq) : (s.updMe f).pool = s.pool := rfl
@[simp] theorem State.updMe_tide (s : State) (f : Seq → Seq) : (s.updMe f).tide = s.tide := rfl
@[simp] theorem State.updMe_cmds (s : State) (f : Seq → Seq) : (s.updMe f).cmds = s.cmds := rfl
@[simp] theorem State.updMe_objs (s : State) (f : Seq → Seq) : (s.updMe f).objs = s.objs := rfl
@[simp] theorem State.updMe_regions (s : State) (f : Seq → Seq) : (s.updMe f).regions = s.regions := rfl
@[simp] theorem State.updMe_saved (s : State) (f : Seq → Seq) : (s.updMe f).saved = s.saved := rfl
@[simp] theorem State.updMe_qlive (s : State) (f : Seq → Seq) : (s.updMe f).qlive = s.qlive := rfl
@[simp] theorem State.updMe_tlb (s : State) (f : Seq → Seq) : (s.updMe f).tlb = s.tlb := rfl
@[simp] theorem State.updMe_invals (s : State) (f : Seq → Seq) : (s.updMe f).invals = s.invals := rfl
@[simp] theorem State.updMe_moves (s : State) (f : Seq → Seq) : (s.updMe f).moves = s.moves := rfl
@[simp] theorem State.updMe_frames (s : State) (f : Seq → Seq) : (s.updMe f).frames = s.frames := rfl
@[simp] theorem State.updMe_cold (s : State) (f : Seq → Seq) : (s.updMe f).cold = s.cold := rfl
@[simp] theorem State.updMe_scanAt (s : State) (f : Seq → Seq) : (s.updMe f).scanAt = s.scanAt := rfl
@[simp] theorem State.updMe_qgbase (s : State) (f : Seq → Seq) : (s.updMe f).qgbase = s.qgbase := rfl
@[simp] theorem State.updMe_qpbase (s : State) (f : Seq → Seq) : (s.updMe f).qpbase = s.qpbase := rfl
@[simp] theorem State.updMe_qdbase (s : State) (f : Seq → Seq) : (s.updMe f).qdbase = s.qdbase := rfl
@[simp] theorem State.updMe_ptbase (s : State) (f : Seq → Seq) : (s.updMe f).ptbase = s.ptbase := rfl
@[simp] theorem State.updMe_lrtbase (s : State) (f : Seq → Seq) : (s.updMe f).lrtbase = s.lrtbase := rfl
@[simp] theorem State.updMe_lrsw (s : State) (f : Seq → Seq) : (s.updMe f).lrsw = s.lrsw := rfl
@[simp] theorem State.updMe_lrswWait (s : State) (f : Seq → Seq) : (s.updMe f).lrswWait = s.lrswWait := rfl
@[simp] theorem State.updMe_fwd (s : State) (f : Seq → Seq) : (s.updMe f).fwd = s.fwd := rfl
@[simp] theorem State.updMe_arbfloor (s : State) (f : Seq → Seq) : (s.updMe f).arbfloor = s.arbfloor := rfl
@[simp] theorem State.updMe_envcnt (s : State) (f : Seq → Seq) : (s.updMe f).envcnt = s.envcnt := rfl
@[simp] theorem State.updMe_arbNo (s : State) (f : Seq → Seq) : (s.updMe f).arbNo = s.arbNo := rfl
@[simp] theorem State.updMe_arbAt (s : State) (f : Seq → Seq) : (s.updMe f).arbAt = s.arbAt := rfl
@[simp] theorem State.updMe_nringBase (s : State) (f : Seq → Seq) : (s.updMe f).nringBase = s.nringBase := rfl
@[simp] theorem State.updMe_nringLog2 (s : State) (f : Seq → Seq) : (s.updMe f).nringLog2 = s.nringLog2 := rfl
@[simp] theorem State.updMe_nrCons (s : State) (f : Seq → Seq) : (s.updMe f).nrCons = s.nrCons := rfl
@[simp] theorem State.updMe_nrProd (s : State) (f : Seq → Seq) : (s.updMe f).nrProd = s.nrProd := rfl
@[simp] theorem State.updMe_nrWritten (s : State) (f : Seq → Seq) : (s.updMe f).nrWritten = s.nrWritten := rfl
@[simp] theorem State.updMe_notices (s : State) (f : Seq → Seq) : (s.updMe f).notices = s.notices := rfl
@[simp] theorem State.updMe_hostMem (s : State) (f : Seq → Seq) : (s.updMe f).hostMem = s.hostMem := rfl
@[simp] theorem State.updMe_hostUp (s : State) (f : Seq → Seq) : (s.updMe f).hostUp = s.hostUp := rfl
@[simp] theorem State.updMe_pctlBusy (s : State) (f : Seq → Seq) : (s.updMe f).pctlBusy = s.pctlBusy := rfl
@[simp] theorem State.updMe_pctlErr (s : State) (f : Seq → Seq) : (s.updMe f).pctlErr = s.pctlErr := rfl
@[simp] theorem State.updMe_pctlHeld (s : State) (f : Seq → Seq) : (s.updMe f).pctlHeld = s.pctlHeld := rfl
@[simp] theorem State.updMe_owners (s : State) (f : Seq → Seq) : (s.updMe f).owners = s.owners := rfl
@[simp] theorem State.updMe_levQ (s : State) (f : Seq → Seq) : (s.updMe f).levQ = s.levQ := rfl
@[simp] theorem State.updMe_levHeld (s : State) (f : Seq → Seq) : (s.updMe f).levHeld = s.levHeld := rfl
@[simp] theorem State.updMe_levRes (s : State) (f : Seq → Seq) : (s.updMe f).levRes = s.levRes := rfl
@[simp] theorem State.updMe_levReason (s : State) (f : Seq → Seq) : (s.updMe f).levReason = s.levReason := rfl
@[simp] theorem State.updMe_levNamed (s : State) (f : Seq → Seq) : (s.updMe f).levNamed = s.levNamed := rfl
@[simp] theorem State.updMe_levExcess (s : State) (f : Seq → Seq) : (s.updMe f).levExcess = s.levExcess := rfl
@[simp] theorem State.updMe_levSeq (s : State) (f : Seq → Seq) : (s.updMe f).levSeq = s.levSeq := rfl
@[simp] theorem State.updMe_tdlk (s : State) (f : Seq → Seq) : (s.updMe f).tdlk = s.tdlk := rfl
@[simp] theorem State.updMe_ports (s : State) (f : Seq → Seq) : (s.updMe f).ports = s.ports := rfl
@[simp] theorem State.updMe_t2 (s : State) (f : Seq → Seq) : (s.updMe f).t2 = s.t2 := rfl
@[simp] theorem State.updMe_islands (s : State) (f : Seq → Seq) : (s.updMe f).islands = s.islands := rfl
@[simp] theorem State.updMe_dram (s : State) (f : Seq → Seq) : (s.updMe f).dram = s.dram := rfl
@[simp] theorem State.updMe_fab (s : State) (f : Seq → Seq) : (s.updMe f).fab = s.fab := rfl
@[simp] theorem State.updMe_passed (s : State) (f : Seq → Seq) : (s.updMe f).passed = s.passed := rfl
@[simp] theorem State.updMe_presets (s : State) (f : Seq → Seq) : (s.updMe f).presets = s.presets := rfl
@[simp] theorem State.updMe_brkArmed (s : State) (f : Seq → Seq) : (s.updMe f).brkArmed = s.brkArmed := rfl
@[simp] theorem State.updMe_inReset (s : State) (f : Seq → Seq) : (s.updMe f).inReset = s.inReset := rfl
@[simp] theorem State.updMe_identity (s : State) (f : Seq → Seq) : (s.updMe f).identity = s.identity := rfl
@[simp] theorem State.updMe_certificate (s : State) (f : Seq → Seq) : (s.updMe f).certificate = s.certificate := rfl
@[simp] theorem State.updMe_loadEnd (s : State) (f : Seq → Seq) : (s.updMe f).loadEnd = s.loadEnd := rfl

/-! `updMyCtx` writes cores alone. -/

@[simp] theorem State.updMyCtx_agenda (s : State) (f : Ctx → Ctx) : (s.updMyCtx f).agenda = s.agenda := rfl
@[simp] theorem State.updMyCtx_cur (s : State) (f : Ctx → Ctx) : (s.updMyCtx f).cur = s.cur := rfl
@[simp] theorem State.updMyCtx_curFep (s : State) (f : Ctx → Ctx) : (s.updMyCtx f).curFep = s.curFep := rfl
@[simp] theorem State.updMyCtx_fresh (s : State) (f : Ctx → Ctx) : (s.updMyCtx f).fresh = s.fresh := rfl
@[simp] theorem State.updMyCtx_nextId (s : State) (f : Ctx → Ctx) : (s.updMyCtx f).nextId = s.nextId := rfl
@[simp] theorem State.updMyCtx_tick (s : State) (f : Ctx → Ctx) : (s.updMyCtx f).tick = s.tick := rfl
@[simp] theorem State.updMyCtx_clusters (s : State) (f : Ctx → Ctx) : (s.updMyCtx f).clusters = s.clusters := rfl
@[simp] theorem State.updMyCtx_terps (s : State) (f : Ctx → Ctx) : (s.updMyCtx f).terps = s.terps := rfl
@[simp] theorem State.updMyCtx_feps (s : State) (f : Ctx → Ctx) : (s.updMyCtx f).feps = s.feps := rfl
@[simp] theorem State.updMyCtx_mem (s : State) (f : Ctx → Ctx) : (s.updMyCtx f).mem = s.mem := rfl
@[simp] theorem State.updMyCtx_poison (s : State) (f : Ctx → Ctx) : (s.updMyCtx f).poison = s.poison := rfl
@[simp] theorem State.updMyCtx_vers (s : State) (f : Ctx → Ctx) : (s.updMyCtx f).vers = s.vers := rfl
@[simp] theorem State.updMyCtx_pool (s : State) (f : Ctx → Ctx) : (s.updMyCtx f).pool = s.pool := rfl
@[simp] theorem State.updMyCtx_tide (s : State) (f : Ctx → Ctx) : (s.updMyCtx f).tide = s.tide := rfl
@[simp] theorem State.updMyCtx_cmds (s : State) (f : Ctx → Ctx) : (s.updMyCtx f).cmds = s.cmds := rfl
@[simp] theorem State.updMyCtx_objs (s : State) (f : Ctx → Ctx) : (s.updMyCtx f).objs = s.objs := rfl
@[simp] theorem State.updMyCtx_regions (s : State) (f : Ctx → Ctx) : (s.updMyCtx f).regions = s.regions := rfl
@[simp] theorem State.updMyCtx_saved (s : State) (f : Ctx → Ctx) : (s.updMyCtx f).saved = s.saved := rfl
@[simp] theorem State.updMyCtx_qlive (s : State) (f : Ctx → Ctx) : (s.updMyCtx f).qlive = s.qlive := rfl
@[simp] theorem State.updMyCtx_tlb (s : State) (f : Ctx → Ctx) : (s.updMyCtx f).tlb = s.tlb := rfl
@[simp] theorem State.updMyCtx_invals (s : State) (f : Ctx → Ctx) : (s.updMyCtx f).invals = s.invals := rfl
@[simp] theorem State.updMyCtx_moves (s : State) (f : Ctx → Ctx) : (s.updMyCtx f).moves = s.moves := rfl
@[simp] theorem State.updMyCtx_frames (s : State) (f : Ctx → Ctx) : (s.updMyCtx f).frames = s.frames := rfl
@[simp] theorem State.updMyCtx_cold (s : State) (f : Ctx → Ctx) : (s.updMyCtx f).cold = s.cold := rfl
@[simp] theorem State.updMyCtx_scanAt (s : State) (f : Ctx → Ctx) : (s.updMyCtx f).scanAt = s.scanAt := rfl
@[simp] theorem State.updMyCtx_qgbase (s : State) (f : Ctx → Ctx) : (s.updMyCtx f).qgbase = s.qgbase := rfl
@[simp] theorem State.updMyCtx_qpbase (s : State) (f : Ctx → Ctx) : (s.updMyCtx f).qpbase = s.qpbase := rfl
@[simp] theorem State.updMyCtx_qdbase (s : State) (f : Ctx → Ctx) : (s.updMyCtx f).qdbase = s.qdbase := rfl
@[simp] theorem State.updMyCtx_ptbase (s : State) (f : Ctx → Ctx) : (s.updMyCtx f).ptbase = s.ptbase := rfl
@[simp] theorem State.updMyCtx_lrtbase (s : State) (f : Ctx → Ctx) : (s.updMyCtx f).lrtbase = s.lrtbase := rfl
@[simp] theorem State.updMyCtx_lrsw (s : State) (f : Ctx → Ctx) : (s.updMyCtx f).lrsw = s.lrsw := rfl
@[simp] theorem State.updMyCtx_lrswWait (s : State) (f : Ctx → Ctx) : (s.updMyCtx f).lrswWait = s.lrswWait := rfl
@[simp] theorem State.updMyCtx_fwd (s : State) (f : Ctx → Ctx) : (s.updMyCtx f).fwd = s.fwd := rfl
@[simp] theorem State.updMyCtx_arbfloor (s : State) (f : Ctx → Ctx) : (s.updMyCtx f).arbfloor = s.arbfloor := rfl
@[simp] theorem State.updMyCtx_envcnt (s : State) (f : Ctx → Ctx) : (s.updMyCtx f).envcnt = s.envcnt := rfl
@[simp] theorem State.updMyCtx_arbNo (s : State) (f : Ctx → Ctx) : (s.updMyCtx f).arbNo = s.arbNo := rfl
@[simp] theorem State.updMyCtx_arbAt (s : State) (f : Ctx → Ctx) : (s.updMyCtx f).arbAt = s.arbAt := rfl
@[simp] theorem State.updMyCtx_nringBase (s : State) (f : Ctx → Ctx) : (s.updMyCtx f).nringBase = s.nringBase := rfl
@[simp] theorem State.updMyCtx_nringLog2 (s : State) (f : Ctx → Ctx) : (s.updMyCtx f).nringLog2 = s.nringLog2 := rfl
@[simp] theorem State.updMyCtx_nrCons (s : State) (f : Ctx → Ctx) : (s.updMyCtx f).nrCons = s.nrCons := rfl
@[simp] theorem State.updMyCtx_nrProd (s : State) (f : Ctx → Ctx) : (s.updMyCtx f).nrProd = s.nrProd := rfl
@[simp] theorem State.updMyCtx_nrWritten (s : State) (f : Ctx → Ctx) : (s.updMyCtx f).nrWritten = s.nrWritten := rfl
@[simp] theorem State.updMyCtx_notices (s : State) (f : Ctx → Ctx) : (s.updMyCtx f).notices = s.notices := rfl
@[simp] theorem State.updMyCtx_hostMem (s : State) (f : Ctx → Ctx) : (s.updMyCtx f).hostMem = s.hostMem := rfl
@[simp] theorem State.updMyCtx_hostUp (s : State) (f : Ctx → Ctx) : (s.updMyCtx f).hostUp = s.hostUp := rfl
@[simp] theorem State.updMyCtx_pctlBusy (s : State) (f : Ctx → Ctx) : (s.updMyCtx f).pctlBusy = s.pctlBusy := rfl
@[simp] theorem State.updMyCtx_pctlErr (s : State) (f : Ctx → Ctx) : (s.updMyCtx f).pctlErr = s.pctlErr := rfl
@[simp] theorem State.updMyCtx_pctlHeld (s : State) (f : Ctx → Ctx) : (s.updMyCtx f).pctlHeld = s.pctlHeld := rfl
@[simp] theorem State.updMyCtx_owners (s : State) (f : Ctx → Ctx) : (s.updMyCtx f).owners = s.owners := rfl
@[simp] theorem State.updMyCtx_levQ (s : State) (f : Ctx → Ctx) : (s.updMyCtx f).levQ = s.levQ := rfl
@[simp] theorem State.updMyCtx_levHeld (s : State) (f : Ctx → Ctx) : (s.updMyCtx f).levHeld = s.levHeld := rfl
@[simp] theorem State.updMyCtx_levRes (s : State) (f : Ctx → Ctx) : (s.updMyCtx f).levRes = s.levRes := rfl
@[simp] theorem State.updMyCtx_levReason (s : State) (f : Ctx → Ctx) : (s.updMyCtx f).levReason = s.levReason := rfl
@[simp] theorem State.updMyCtx_levNamed (s : State) (f : Ctx → Ctx) : (s.updMyCtx f).levNamed = s.levNamed := rfl
@[simp] theorem State.updMyCtx_levExcess (s : State) (f : Ctx → Ctx) : (s.updMyCtx f).levExcess = s.levExcess := rfl
@[simp] theorem State.updMyCtx_levSeq (s : State) (f : Ctx → Ctx) : (s.updMyCtx f).levSeq = s.levSeq := rfl
@[simp] theorem State.updMyCtx_tdlk (s : State) (f : Ctx → Ctx) : (s.updMyCtx f).tdlk = s.tdlk := rfl
@[simp] theorem State.updMyCtx_ports (s : State) (f : Ctx → Ctx) : (s.updMyCtx f).ports = s.ports := rfl
@[simp] theorem State.updMyCtx_t2 (s : State) (f : Ctx → Ctx) : (s.updMyCtx f).t2 = s.t2 := rfl
@[simp] theorem State.updMyCtx_islands (s : State) (f : Ctx → Ctx) : (s.updMyCtx f).islands = s.islands := rfl
@[simp] theorem State.updMyCtx_dram (s : State) (f : Ctx → Ctx) : (s.updMyCtx f).dram = s.dram := rfl
@[simp] theorem State.updMyCtx_fab (s : State) (f : Ctx → Ctx) : (s.updMyCtx f).fab = s.fab := rfl
@[simp] theorem State.updMyCtx_passed (s : State) (f : Ctx → Ctx) : (s.updMyCtx f).passed = s.passed := rfl
@[simp] theorem State.updMyCtx_presets (s : State) (f : Ctx → Ctx) : (s.updMyCtx f).presets = s.presets := rfl
@[simp] theorem State.updMyCtx_brkArmed (s : State) (f : Ctx → Ctx) : (s.updMyCtx f).brkArmed = s.brkArmed := rfl
@[simp] theorem State.updMyCtx_inReset (s : State) (f : Ctx → Ctx) : (s.updMyCtx f).inReset = s.inReset := rfl
@[simp] theorem State.updMyCtx_identity (s : State) (f : Ctx → Ctx) : (s.updMyCtx f).identity = s.identity := rfl
@[simp] theorem State.updMyCtx_certificate (s : State) (f : Ctx → Ctx) : (s.updMyCtx f).certificate = s.certificate := rfl
@[simp] theorem State.updMyCtx_loadEnd (s : State) (f : Ctx → Ctx) : (s.updMyCtx f).loadEnd = s.loadEnd := rfl

/-! `updCluster` writes clusters alone. -/

@[simp] theorem State.updCluster_agenda (s : State) (c : Nat) (f : Cluster → Cluster) : (s.updCluster c f).agenda = s.agenda := rfl
@[simp] theorem State.updCluster_cur (s : State) (c : Nat) (f : Cluster → Cluster) : (s.updCluster c f).cur = s.cur := rfl
@[simp] theorem State.updCluster_curFep (s : State) (c : Nat) (f : Cluster → Cluster) : (s.updCluster c f).curFep = s.curFep := rfl
@[simp] theorem State.updCluster_fresh (s : State) (c : Nat) (f : Cluster → Cluster) : (s.updCluster c f).fresh = s.fresh := rfl
@[simp] theorem State.updCluster_nextId (s : State) (c : Nat) (f : Cluster → Cluster) : (s.updCluster c f).nextId = s.nextId := rfl
@[simp] theorem State.updCluster_tick (s : State) (c : Nat) (f : Cluster → Cluster) : (s.updCluster c f).tick = s.tick := rfl
@[simp] theorem State.updCluster_cores (s : State) (c : Nat) (f : Cluster → Cluster) : (s.updCluster c f).cores = s.cores := rfl
@[simp] theorem State.updCluster_terps (s : State) (c : Nat) (f : Cluster → Cluster) : (s.updCluster c f).terps = s.terps := rfl
@[simp] theorem State.updCluster_feps (s : State) (c : Nat) (f : Cluster → Cluster) : (s.updCluster c f).feps = s.feps := rfl
@[simp] theorem State.updCluster_mem (s : State) (c : Nat) (f : Cluster → Cluster) : (s.updCluster c f).mem = s.mem := rfl
@[simp] theorem State.updCluster_poison (s : State) (c : Nat) (f : Cluster → Cluster) : (s.updCluster c f).poison = s.poison := rfl
@[simp] theorem State.updCluster_vers (s : State) (c : Nat) (f : Cluster → Cluster) : (s.updCluster c f).vers = s.vers := rfl
@[simp] theorem State.updCluster_pool (s : State) (c : Nat) (f : Cluster → Cluster) : (s.updCluster c f).pool = s.pool := rfl
@[simp] theorem State.updCluster_tide (s : State) (c : Nat) (f : Cluster → Cluster) : (s.updCluster c f).tide = s.tide := rfl
@[simp] theorem State.updCluster_cmds (s : State) (c : Nat) (f : Cluster → Cluster) : (s.updCluster c f).cmds = s.cmds := rfl
@[simp] theorem State.updCluster_objs (s : State) (c : Nat) (f : Cluster → Cluster) : (s.updCluster c f).objs = s.objs := rfl
@[simp] theorem State.updCluster_regions (s : State) (c : Nat) (f : Cluster → Cluster) : (s.updCluster c f).regions = s.regions := rfl
@[simp] theorem State.updCluster_saved (s : State) (c : Nat) (f : Cluster → Cluster) : (s.updCluster c f).saved = s.saved := rfl
@[simp] theorem State.updCluster_qlive (s : State) (c : Nat) (f : Cluster → Cluster) : (s.updCluster c f).qlive = s.qlive := rfl
@[simp] theorem State.updCluster_tlb (s : State) (c : Nat) (f : Cluster → Cluster) : (s.updCluster c f).tlb = s.tlb := rfl
@[simp] theorem State.updCluster_invals (s : State) (c : Nat) (f : Cluster → Cluster) : (s.updCluster c f).invals = s.invals := rfl
@[simp] theorem State.updCluster_moves (s : State) (c : Nat) (f : Cluster → Cluster) : (s.updCluster c f).moves = s.moves := rfl
@[simp] theorem State.updCluster_frames (s : State) (c : Nat) (f : Cluster → Cluster) : (s.updCluster c f).frames = s.frames := rfl
@[simp] theorem State.updCluster_cold (s : State) (c : Nat) (f : Cluster → Cluster) : (s.updCluster c f).cold = s.cold := rfl
@[simp] theorem State.updCluster_scanAt (s : State) (c : Nat) (f : Cluster → Cluster) : (s.updCluster c f).scanAt = s.scanAt := rfl
@[simp] theorem State.updCluster_qgbase (s : State) (c : Nat) (f : Cluster → Cluster) : (s.updCluster c f).qgbase = s.qgbase := rfl
@[simp] theorem State.updCluster_qpbase (s : State) (c : Nat) (f : Cluster → Cluster) : (s.updCluster c f).qpbase = s.qpbase := rfl
@[simp] theorem State.updCluster_qdbase (s : State) (c : Nat) (f : Cluster → Cluster) : (s.updCluster c f).qdbase = s.qdbase := rfl
@[simp] theorem State.updCluster_ptbase (s : State) (c : Nat) (f : Cluster → Cluster) : (s.updCluster c f).ptbase = s.ptbase := rfl
@[simp] theorem State.updCluster_lrtbase (s : State) (c : Nat) (f : Cluster → Cluster) : (s.updCluster c f).lrtbase = s.lrtbase := rfl
@[simp] theorem State.updCluster_lrsw (s : State) (c : Nat) (f : Cluster → Cluster) : (s.updCluster c f).lrsw = s.lrsw := rfl
@[simp] theorem State.updCluster_lrswWait (s : State) (c : Nat) (f : Cluster → Cluster) : (s.updCluster c f).lrswWait = s.lrswWait := rfl
@[simp] theorem State.updCluster_fwd (s : State) (c : Nat) (f : Cluster → Cluster) : (s.updCluster c f).fwd = s.fwd := rfl
@[simp] theorem State.updCluster_arbfloor (s : State) (c : Nat) (f : Cluster → Cluster) : (s.updCluster c f).arbfloor = s.arbfloor := rfl
@[simp] theorem State.updCluster_envcnt (s : State) (c : Nat) (f : Cluster → Cluster) : (s.updCluster c f).envcnt = s.envcnt := rfl
@[simp] theorem State.updCluster_arbNo (s : State) (c : Nat) (f : Cluster → Cluster) : (s.updCluster c f).arbNo = s.arbNo := rfl
@[simp] theorem State.updCluster_arbAt (s : State) (c : Nat) (f : Cluster → Cluster) : (s.updCluster c f).arbAt = s.arbAt := rfl
@[simp] theorem State.updCluster_nringBase (s : State) (c : Nat) (f : Cluster → Cluster) : (s.updCluster c f).nringBase = s.nringBase := rfl
@[simp] theorem State.updCluster_nringLog2 (s : State) (c : Nat) (f : Cluster → Cluster) : (s.updCluster c f).nringLog2 = s.nringLog2 := rfl
@[simp] theorem State.updCluster_nrCons (s : State) (c : Nat) (f : Cluster → Cluster) : (s.updCluster c f).nrCons = s.nrCons := rfl
@[simp] theorem State.updCluster_nrProd (s : State) (c : Nat) (f : Cluster → Cluster) : (s.updCluster c f).nrProd = s.nrProd := rfl
@[simp] theorem State.updCluster_nrWritten (s : State) (c : Nat) (f : Cluster → Cluster) : (s.updCluster c f).nrWritten = s.nrWritten := rfl
@[simp] theorem State.updCluster_notices (s : State) (c : Nat) (f : Cluster → Cluster) : (s.updCluster c f).notices = s.notices := rfl
@[simp] theorem State.updCluster_hostMem (s : State) (c : Nat) (f : Cluster → Cluster) : (s.updCluster c f).hostMem = s.hostMem := rfl
@[simp] theorem State.updCluster_hostUp (s : State) (c : Nat) (f : Cluster → Cluster) : (s.updCluster c f).hostUp = s.hostUp := rfl
@[simp] theorem State.updCluster_pctlBusy (s : State) (c : Nat) (f : Cluster → Cluster) : (s.updCluster c f).pctlBusy = s.pctlBusy := rfl
@[simp] theorem State.updCluster_pctlErr (s : State) (c : Nat) (f : Cluster → Cluster) : (s.updCluster c f).pctlErr = s.pctlErr := rfl
@[simp] theorem State.updCluster_pctlHeld (s : State) (c : Nat) (f : Cluster → Cluster) : (s.updCluster c f).pctlHeld = s.pctlHeld := rfl
@[simp] theorem State.updCluster_owners (s : State) (c : Nat) (f : Cluster → Cluster) : (s.updCluster c f).owners = s.owners := rfl
@[simp] theorem State.updCluster_levQ (s : State) (c : Nat) (f : Cluster → Cluster) : (s.updCluster c f).levQ = s.levQ := rfl
@[simp] theorem State.updCluster_levHeld (s : State) (c : Nat) (f : Cluster → Cluster) : (s.updCluster c f).levHeld = s.levHeld := rfl
@[simp] theorem State.updCluster_levRes (s : State) (c : Nat) (f : Cluster → Cluster) : (s.updCluster c f).levRes = s.levRes := rfl
@[simp] theorem State.updCluster_levReason (s : State) (c : Nat) (f : Cluster → Cluster) : (s.updCluster c f).levReason = s.levReason := rfl
@[simp] theorem State.updCluster_levNamed (s : State) (c : Nat) (f : Cluster → Cluster) : (s.updCluster c f).levNamed = s.levNamed := rfl
@[simp] theorem State.updCluster_levExcess (s : State) (c : Nat) (f : Cluster → Cluster) : (s.updCluster c f).levExcess = s.levExcess := rfl
@[simp] theorem State.updCluster_levSeq (s : State) (c : Nat) (f : Cluster → Cluster) : (s.updCluster c f).levSeq = s.levSeq := rfl
@[simp] theorem State.updCluster_tdlk (s : State) (c : Nat) (f : Cluster → Cluster) : (s.updCluster c f).tdlk = s.tdlk := rfl
@[simp] theorem State.updCluster_ports (s : State) (c : Nat) (f : Cluster → Cluster) : (s.updCluster c f).ports = s.ports := rfl
@[simp] theorem State.updCluster_t2 (s : State) (c : Nat) (f : Cluster → Cluster) : (s.updCluster c f).t2 = s.t2 := rfl
@[simp] theorem State.updCluster_islands (s : State) (c : Nat) (f : Cluster → Cluster) : (s.updCluster c f).islands = s.islands := rfl
@[simp] theorem State.updCluster_dram (s : State) (c : Nat) (f : Cluster → Cluster) : (s.updCluster c f).dram = s.dram := rfl
@[simp] theorem State.updCluster_fab (s : State) (c : Nat) (f : Cluster → Cluster) : (s.updCluster c f).fab = s.fab := rfl
@[simp] theorem State.updCluster_passed (s : State) (c : Nat) (f : Cluster → Cluster) : (s.updCluster c f).passed = s.passed := rfl
@[simp] theorem State.updCluster_presets (s : State) (c : Nat) (f : Cluster → Cluster) : (s.updCluster c f).presets = s.presets := rfl
@[simp] theorem State.updCluster_brkArmed (s : State) (c : Nat) (f : Cluster → Cluster) : (s.updCluster c f).brkArmed = s.brkArmed := rfl
@[simp] theorem State.updCluster_inReset (s : State) (c : Nat) (f : Cluster → Cluster) : (s.updCluster c f).inReset = s.inReset := rfl
@[simp] theorem State.updCluster_identity (s : State) (c : Nat) (f : Cluster → Cluster) : (s.updCluster c f).identity = s.identity := rfl
@[simp] theorem State.updCluster_certificate (s : State) (c : Nat) (f : Cluster → Cluster) : (s.updCluster c f).certificate = s.certificate := rfl
@[simp] theorem State.updCluster_loadEnd (s : State) (c : Nat) (f : Cluster → Cluster) : (s.updCluster c f).loadEnd = s.loadEnd := rfl

/-! `updTerp` writes terps alone. -/

@[simp] theorem State.updTerp_agenda (s : State) (t : Nat) (f : Terp → Terp) : (s.updTerp t f).agenda = s.agenda := rfl
@[simp] theorem State.updTerp_cur (s : State) (t : Nat) (f : Terp → Terp) : (s.updTerp t f).cur = s.cur := rfl
@[simp] theorem State.updTerp_curFep (s : State) (t : Nat) (f : Terp → Terp) : (s.updTerp t f).curFep = s.curFep := rfl
@[simp] theorem State.updTerp_fresh (s : State) (t : Nat) (f : Terp → Terp) : (s.updTerp t f).fresh = s.fresh := rfl
@[simp] theorem State.updTerp_nextId (s : State) (t : Nat) (f : Terp → Terp) : (s.updTerp t f).nextId = s.nextId := rfl
@[simp] theorem State.updTerp_tick (s : State) (t : Nat) (f : Terp → Terp) : (s.updTerp t f).tick = s.tick := rfl
@[simp] theorem State.updTerp_cores (s : State) (t : Nat) (f : Terp → Terp) : (s.updTerp t f).cores = s.cores := rfl
@[simp] theorem State.updTerp_clusters (s : State) (t : Nat) (f : Terp → Terp) : (s.updTerp t f).clusters = s.clusters := rfl
@[simp] theorem State.updTerp_feps (s : State) (t : Nat) (f : Terp → Terp) : (s.updTerp t f).feps = s.feps := rfl
@[simp] theorem State.updTerp_mem (s : State) (t : Nat) (f : Terp → Terp) : (s.updTerp t f).mem = s.mem := rfl
@[simp] theorem State.updTerp_poison (s : State) (t : Nat) (f : Terp → Terp) : (s.updTerp t f).poison = s.poison := rfl
@[simp] theorem State.updTerp_vers (s : State) (t : Nat) (f : Terp → Terp) : (s.updTerp t f).vers = s.vers := rfl
@[simp] theorem State.updTerp_pool (s : State) (t : Nat) (f : Terp → Terp) : (s.updTerp t f).pool = s.pool := rfl
@[simp] theorem State.updTerp_tide (s : State) (t : Nat) (f : Terp → Terp) : (s.updTerp t f).tide = s.tide := rfl
@[simp] theorem State.updTerp_cmds (s : State) (t : Nat) (f : Terp → Terp) : (s.updTerp t f).cmds = s.cmds := rfl
@[simp] theorem State.updTerp_objs (s : State) (t : Nat) (f : Terp → Terp) : (s.updTerp t f).objs = s.objs := rfl
@[simp] theorem State.updTerp_regions (s : State) (t : Nat) (f : Terp → Terp) : (s.updTerp t f).regions = s.regions := rfl
@[simp] theorem State.updTerp_saved (s : State) (t : Nat) (f : Terp → Terp) : (s.updTerp t f).saved = s.saved := rfl
@[simp] theorem State.updTerp_qlive (s : State) (t : Nat) (f : Terp → Terp) : (s.updTerp t f).qlive = s.qlive := rfl
@[simp] theorem State.updTerp_tlb (s : State) (t : Nat) (f : Terp → Terp) : (s.updTerp t f).tlb = s.tlb := rfl
@[simp] theorem State.updTerp_invals (s : State) (t : Nat) (f : Terp → Terp) : (s.updTerp t f).invals = s.invals := rfl
@[simp] theorem State.updTerp_moves (s : State) (t : Nat) (f : Terp → Terp) : (s.updTerp t f).moves = s.moves := rfl
@[simp] theorem State.updTerp_frames (s : State) (t : Nat) (f : Terp → Terp) : (s.updTerp t f).frames = s.frames := rfl
@[simp] theorem State.updTerp_cold (s : State) (t : Nat) (f : Terp → Terp) : (s.updTerp t f).cold = s.cold := rfl
@[simp] theorem State.updTerp_scanAt (s : State) (t : Nat) (f : Terp → Terp) : (s.updTerp t f).scanAt = s.scanAt := rfl
@[simp] theorem State.updTerp_qgbase (s : State) (t : Nat) (f : Terp → Terp) : (s.updTerp t f).qgbase = s.qgbase := rfl
@[simp] theorem State.updTerp_qpbase (s : State) (t : Nat) (f : Terp → Terp) : (s.updTerp t f).qpbase = s.qpbase := rfl
@[simp] theorem State.updTerp_qdbase (s : State) (t : Nat) (f : Terp → Terp) : (s.updTerp t f).qdbase = s.qdbase := rfl
@[simp] theorem State.updTerp_ptbase (s : State) (t : Nat) (f : Terp → Terp) : (s.updTerp t f).ptbase = s.ptbase := rfl
@[simp] theorem State.updTerp_lrtbase (s : State) (t : Nat) (f : Terp → Terp) : (s.updTerp t f).lrtbase = s.lrtbase := rfl
@[simp] theorem State.updTerp_lrsw (s : State) (t : Nat) (f : Terp → Terp) : (s.updTerp t f).lrsw = s.lrsw := rfl
@[simp] theorem State.updTerp_lrswWait (s : State) (t : Nat) (f : Terp → Terp) : (s.updTerp t f).lrswWait = s.lrswWait := rfl
@[simp] theorem State.updTerp_fwd (s : State) (t : Nat) (f : Terp → Terp) : (s.updTerp t f).fwd = s.fwd := rfl
@[simp] theorem State.updTerp_arbfloor (s : State) (t : Nat) (f : Terp → Terp) : (s.updTerp t f).arbfloor = s.arbfloor := rfl
@[simp] theorem State.updTerp_envcnt (s : State) (t : Nat) (f : Terp → Terp) : (s.updTerp t f).envcnt = s.envcnt := rfl
@[simp] theorem State.updTerp_arbNo (s : State) (t : Nat) (f : Terp → Terp) : (s.updTerp t f).arbNo = s.arbNo := rfl
@[simp] theorem State.updTerp_arbAt (s : State) (t : Nat) (f : Terp → Terp) : (s.updTerp t f).arbAt = s.arbAt := rfl
@[simp] theorem State.updTerp_nringBase (s : State) (t : Nat) (f : Terp → Terp) : (s.updTerp t f).nringBase = s.nringBase := rfl
@[simp] theorem State.updTerp_nringLog2 (s : State) (t : Nat) (f : Terp → Terp) : (s.updTerp t f).nringLog2 = s.nringLog2 := rfl
@[simp] theorem State.updTerp_nrCons (s : State) (t : Nat) (f : Terp → Terp) : (s.updTerp t f).nrCons = s.nrCons := rfl
@[simp] theorem State.updTerp_nrProd (s : State) (t : Nat) (f : Terp → Terp) : (s.updTerp t f).nrProd = s.nrProd := rfl
@[simp] theorem State.updTerp_nrWritten (s : State) (t : Nat) (f : Terp → Terp) : (s.updTerp t f).nrWritten = s.nrWritten := rfl
@[simp] theorem State.updTerp_notices (s : State) (t : Nat) (f : Terp → Terp) : (s.updTerp t f).notices = s.notices := rfl
@[simp] theorem State.updTerp_hostMem (s : State) (t : Nat) (f : Terp → Terp) : (s.updTerp t f).hostMem = s.hostMem := rfl
@[simp] theorem State.updTerp_hostUp (s : State) (t : Nat) (f : Terp → Terp) : (s.updTerp t f).hostUp = s.hostUp := rfl
@[simp] theorem State.updTerp_pctlBusy (s : State) (t : Nat) (f : Terp → Terp) : (s.updTerp t f).pctlBusy = s.pctlBusy := rfl
@[simp] theorem State.updTerp_pctlErr (s : State) (t : Nat) (f : Terp → Terp) : (s.updTerp t f).pctlErr = s.pctlErr := rfl
@[simp] theorem State.updTerp_pctlHeld (s : State) (t : Nat) (f : Terp → Terp) : (s.updTerp t f).pctlHeld = s.pctlHeld := rfl
@[simp] theorem State.updTerp_owners (s : State) (t : Nat) (f : Terp → Terp) : (s.updTerp t f).owners = s.owners := rfl
@[simp] theorem State.updTerp_levQ (s : State) (t : Nat) (f : Terp → Terp) : (s.updTerp t f).levQ = s.levQ := rfl
@[simp] theorem State.updTerp_levHeld (s : State) (t : Nat) (f : Terp → Terp) : (s.updTerp t f).levHeld = s.levHeld := rfl
@[simp] theorem State.updTerp_levRes (s : State) (t : Nat) (f : Terp → Terp) : (s.updTerp t f).levRes = s.levRes := rfl
@[simp] theorem State.updTerp_levReason (s : State) (t : Nat) (f : Terp → Terp) : (s.updTerp t f).levReason = s.levReason := rfl
@[simp] theorem State.updTerp_levNamed (s : State) (t : Nat) (f : Terp → Terp) : (s.updTerp t f).levNamed = s.levNamed := rfl
@[simp] theorem State.updTerp_levExcess (s : State) (t : Nat) (f : Terp → Terp) : (s.updTerp t f).levExcess = s.levExcess := rfl
@[simp] theorem State.updTerp_levSeq (s : State) (t : Nat) (f : Terp → Terp) : (s.updTerp t f).levSeq = s.levSeq := rfl
@[simp] theorem State.updTerp_tdlk (s : State) (t : Nat) (f : Terp → Terp) : (s.updTerp t f).tdlk = s.tdlk := rfl
@[simp] theorem State.updTerp_ports (s : State) (t : Nat) (f : Terp → Terp) : (s.updTerp t f).ports = s.ports := rfl
@[simp] theorem State.updTerp_t2 (s : State) (t : Nat) (f : Terp → Terp) : (s.updTerp t f).t2 = s.t2 := rfl
@[simp] theorem State.updTerp_islands (s : State) (t : Nat) (f : Terp → Terp) : (s.updTerp t f).islands = s.islands := rfl
@[simp] theorem State.updTerp_dram (s : State) (t : Nat) (f : Terp → Terp) : (s.updTerp t f).dram = s.dram := rfl
@[simp] theorem State.updTerp_fab (s : State) (t : Nat) (f : Terp → Terp) : (s.updTerp t f).fab = s.fab := rfl
@[simp] theorem State.updTerp_passed (s : State) (t : Nat) (f : Terp → Terp) : (s.updTerp t f).passed = s.passed := rfl
@[simp] theorem State.updTerp_presets (s : State) (t : Nat) (f : Terp → Terp) : (s.updTerp t f).presets = s.presets := rfl
@[simp] theorem State.updTerp_brkArmed (s : State) (t : Nat) (f : Terp → Terp) : (s.updTerp t f).brkArmed = s.brkArmed := rfl
@[simp] theorem State.updTerp_inReset (s : State) (t : Nat) (f : Terp → Terp) : (s.updTerp t f).inReset = s.inReset := rfl
@[simp] theorem State.updTerp_identity (s : State) (t : Nat) (f : Terp → Terp) : (s.updTerp t f).identity = s.identity := rfl
@[simp] theorem State.updTerp_certificate (s : State) (t : Nat) (f : Terp → Terp) : (s.updTerp t f).certificate = s.certificate := rfl
@[simp] theorem State.updTerp_loadEnd (s : State) (t : Nat) (f : Terp → Terp) : (s.updTerp t f).loadEnd = s.loadEnd := rfl

/-! `updFep` writes feps alone. -/

@[simp] theorem State.updFep_agenda (s : State) (n : Nat) (f : Fep → Fep) : (s.updFep n f).agenda = s.agenda := rfl
@[simp] theorem State.updFep_cur (s : State) (n : Nat) (f : Fep → Fep) : (s.updFep n f).cur = s.cur := rfl
@[simp] theorem State.updFep_curFep (s : State) (n : Nat) (f : Fep → Fep) : (s.updFep n f).curFep = s.curFep := rfl
@[simp] theorem State.updFep_fresh (s : State) (n : Nat) (f : Fep → Fep) : (s.updFep n f).fresh = s.fresh := rfl
@[simp] theorem State.updFep_nextId (s : State) (n : Nat) (f : Fep → Fep) : (s.updFep n f).nextId = s.nextId := rfl
@[simp] theorem State.updFep_tick (s : State) (n : Nat) (f : Fep → Fep) : (s.updFep n f).tick = s.tick := rfl
@[simp] theorem State.updFep_cores (s : State) (n : Nat) (f : Fep → Fep) : (s.updFep n f).cores = s.cores := rfl
@[simp] theorem State.updFep_clusters (s : State) (n : Nat) (f : Fep → Fep) : (s.updFep n f).clusters = s.clusters := rfl
@[simp] theorem State.updFep_terps (s : State) (n : Nat) (f : Fep → Fep) : (s.updFep n f).terps = s.terps := rfl
@[simp] theorem State.updFep_mem (s : State) (n : Nat) (f : Fep → Fep) : (s.updFep n f).mem = s.mem := rfl
@[simp] theorem State.updFep_poison (s : State) (n : Nat) (f : Fep → Fep) : (s.updFep n f).poison = s.poison := rfl
@[simp] theorem State.updFep_vers (s : State) (n : Nat) (f : Fep → Fep) : (s.updFep n f).vers = s.vers := rfl
@[simp] theorem State.updFep_pool (s : State) (n : Nat) (f : Fep → Fep) : (s.updFep n f).pool = s.pool := rfl
@[simp] theorem State.updFep_tide (s : State) (n : Nat) (f : Fep → Fep) : (s.updFep n f).tide = s.tide := rfl
@[simp] theorem State.updFep_cmds (s : State) (n : Nat) (f : Fep → Fep) : (s.updFep n f).cmds = s.cmds := rfl
@[simp] theorem State.updFep_objs (s : State) (n : Nat) (f : Fep → Fep) : (s.updFep n f).objs = s.objs := rfl
@[simp] theorem State.updFep_regions (s : State) (n : Nat) (f : Fep → Fep) : (s.updFep n f).regions = s.regions := rfl
@[simp] theorem State.updFep_saved (s : State) (n : Nat) (f : Fep → Fep) : (s.updFep n f).saved = s.saved := rfl
@[simp] theorem State.updFep_qlive (s : State) (n : Nat) (f : Fep → Fep) : (s.updFep n f).qlive = s.qlive := rfl
@[simp] theorem State.updFep_tlb (s : State) (n : Nat) (f : Fep → Fep) : (s.updFep n f).tlb = s.tlb := rfl
@[simp] theorem State.updFep_invals (s : State) (n : Nat) (f : Fep → Fep) : (s.updFep n f).invals = s.invals := rfl
@[simp] theorem State.updFep_moves (s : State) (n : Nat) (f : Fep → Fep) : (s.updFep n f).moves = s.moves := rfl
@[simp] theorem State.updFep_frames (s : State) (n : Nat) (f : Fep → Fep) : (s.updFep n f).frames = s.frames := rfl
@[simp] theorem State.updFep_cold (s : State) (n : Nat) (f : Fep → Fep) : (s.updFep n f).cold = s.cold := rfl
@[simp] theorem State.updFep_scanAt (s : State) (n : Nat) (f : Fep → Fep) : (s.updFep n f).scanAt = s.scanAt := rfl
@[simp] theorem State.updFep_qgbase (s : State) (n : Nat) (f : Fep → Fep) : (s.updFep n f).qgbase = s.qgbase := rfl
@[simp] theorem State.updFep_qpbase (s : State) (n : Nat) (f : Fep → Fep) : (s.updFep n f).qpbase = s.qpbase := rfl
@[simp] theorem State.updFep_qdbase (s : State) (n : Nat) (f : Fep → Fep) : (s.updFep n f).qdbase = s.qdbase := rfl
@[simp] theorem State.updFep_ptbase (s : State) (n : Nat) (f : Fep → Fep) : (s.updFep n f).ptbase = s.ptbase := rfl
@[simp] theorem State.updFep_lrtbase (s : State) (n : Nat) (f : Fep → Fep) : (s.updFep n f).lrtbase = s.lrtbase := rfl
@[simp] theorem State.updFep_lrsw (s : State) (n : Nat) (f : Fep → Fep) : (s.updFep n f).lrsw = s.lrsw := rfl
@[simp] theorem State.updFep_lrswWait (s : State) (n : Nat) (f : Fep → Fep) : (s.updFep n f).lrswWait = s.lrswWait := rfl
@[simp] theorem State.updFep_fwd (s : State) (n : Nat) (f : Fep → Fep) : (s.updFep n f).fwd = s.fwd := rfl
@[simp] theorem State.updFep_arbfloor (s : State) (n : Nat) (f : Fep → Fep) : (s.updFep n f).arbfloor = s.arbfloor := rfl
@[simp] theorem State.updFep_envcnt (s : State) (n : Nat) (f : Fep → Fep) : (s.updFep n f).envcnt = s.envcnt := rfl
@[simp] theorem State.updFep_arbNo (s : State) (n : Nat) (f : Fep → Fep) : (s.updFep n f).arbNo = s.arbNo := rfl
@[simp] theorem State.updFep_arbAt (s : State) (n : Nat) (f : Fep → Fep) : (s.updFep n f).arbAt = s.arbAt := rfl
@[simp] theorem State.updFep_nringBase (s : State) (n : Nat) (f : Fep → Fep) : (s.updFep n f).nringBase = s.nringBase := rfl
@[simp] theorem State.updFep_nringLog2 (s : State) (n : Nat) (f : Fep → Fep) : (s.updFep n f).nringLog2 = s.nringLog2 := rfl
@[simp] theorem State.updFep_nrCons (s : State) (n : Nat) (f : Fep → Fep) : (s.updFep n f).nrCons = s.nrCons := rfl
@[simp] theorem State.updFep_nrProd (s : State) (n : Nat) (f : Fep → Fep) : (s.updFep n f).nrProd = s.nrProd := rfl
@[simp] theorem State.updFep_nrWritten (s : State) (n : Nat) (f : Fep → Fep) : (s.updFep n f).nrWritten = s.nrWritten := rfl
@[simp] theorem State.updFep_notices (s : State) (n : Nat) (f : Fep → Fep) : (s.updFep n f).notices = s.notices := rfl
@[simp] theorem State.updFep_hostMem (s : State) (n : Nat) (f : Fep → Fep) : (s.updFep n f).hostMem = s.hostMem := rfl
@[simp] theorem State.updFep_hostUp (s : State) (n : Nat) (f : Fep → Fep) : (s.updFep n f).hostUp = s.hostUp := rfl
@[simp] theorem State.updFep_pctlBusy (s : State) (n : Nat) (f : Fep → Fep) : (s.updFep n f).pctlBusy = s.pctlBusy := rfl
@[simp] theorem State.updFep_pctlErr (s : State) (n : Nat) (f : Fep → Fep) : (s.updFep n f).pctlErr = s.pctlErr := rfl
@[simp] theorem State.updFep_pctlHeld (s : State) (n : Nat) (f : Fep → Fep) : (s.updFep n f).pctlHeld = s.pctlHeld := rfl
@[simp] theorem State.updFep_owners (s : State) (n : Nat) (f : Fep → Fep) : (s.updFep n f).owners = s.owners := rfl
@[simp] theorem State.updFep_levQ (s : State) (n : Nat) (f : Fep → Fep) : (s.updFep n f).levQ = s.levQ := rfl
@[simp] theorem State.updFep_levHeld (s : State) (n : Nat) (f : Fep → Fep) : (s.updFep n f).levHeld = s.levHeld := rfl
@[simp] theorem State.updFep_levRes (s : State) (n : Nat) (f : Fep → Fep) : (s.updFep n f).levRes = s.levRes := rfl
@[simp] theorem State.updFep_levReason (s : State) (n : Nat) (f : Fep → Fep) : (s.updFep n f).levReason = s.levReason := rfl
@[simp] theorem State.updFep_levNamed (s : State) (n : Nat) (f : Fep → Fep) : (s.updFep n f).levNamed = s.levNamed := rfl
@[simp] theorem State.updFep_levExcess (s : State) (n : Nat) (f : Fep → Fep) : (s.updFep n f).levExcess = s.levExcess := rfl
@[simp] theorem State.updFep_levSeq (s : State) (n : Nat) (f : Fep → Fep) : (s.updFep n f).levSeq = s.levSeq := rfl
@[simp] theorem State.updFep_tdlk (s : State) (n : Nat) (f : Fep → Fep) : (s.updFep n f).tdlk = s.tdlk := rfl
@[simp] theorem State.updFep_ports (s : State) (n : Nat) (f : Fep → Fep) : (s.updFep n f).ports = s.ports := rfl
@[simp] theorem State.updFep_t2 (s : State) (n : Nat) (f : Fep → Fep) : (s.updFep n f).t2 = s.t2 := rfl
@[simp] theorem State.updFep_islands (s : State) (n : Nat) (f : Fep → Fep) : (s.updFep n f).islands = s.islands := rfl
@[simp] theorem State.updFep_dram (s : State) (n : Nat) (f : Fep → Fep) : (s.updFep n f).dram = s.dram := rfl
@[simp] theorem State.updFep_fab (s : State) (n : Nat) (f : Fep → Fep) : (s.updFep n f).fab = s.fab := rfl
@[simp] theorem State.updFep_passed (s : State) (n : Nat) (f : Fep → Fep) : (s.updFep n f).passed = s.passed := rfl
@[simp] theorem State.updFep_presets (s : State) (n : Nat) (f : Fep → Fep) : (s.updFep n f).presets = s.presets := rfl
@[simp] theorem State.updFep_brkArmed (s : State) (n : Nat) (f : Fep → Fep) : (s.updFep n f).brkArmed = s.brkArmed := rfl
@[simp] theorem State.updFep_inReset (s : State) (n : Nat) (f : Fep → Fep) : (s.updFep n f).inReset = s.inReset := rfl
@[simp] theorem State.updFep_identity (s : State) (n : Nat) (f : Fep → Fep) : (s.updFep n f).identity = s.identity := rfl
@[simp] theorem State.updFep_certificate (s : State) (n : Nat) (f : Fep → Fep) : (s.updFep n f).certificate = s.certificate := rfl
@[simp] theorem State.updFep_loadEnd (s : State) (n : Nat) (f : Fep → Fep) : (s.updFep n f).loadEnd = s.loadEnd := rfl

/-! `updRegion` writes regions alone. -/

@[simp] theorem State.updRegion_agenda (s : State) (r : Nat) (f : Region → Region) : (s.updRegion r f).agenda = s.agenda := rfl
@[simp] theorem State.updRegion_cur (s : State) (r : Nat) (f : Region → Region) : (s.updRegion r f).cur = s.cur := rfl
@[simp] theorem State.updRegion_curFep (s : State) (r : Nat) (f : Region → Region) : (s.updRegion r f).curFep = s.curFep := rfl
@[simp] theorem State.updRegion_fresh (s : State) (r : Nat) (f : Region → Region) : (s.updRegion r f).fresh = s.fresh := rfl
@[simp] theorem State.updRegion_nextId (s : State) (r : Nat) (f : Region → Region) : (s.updRegion r f).nextId = s.nextId := rfl
@[simp] theorem State.updRegion_tick (s : State) (r : Nat) (f : Region → Region) : (s.updRegion r f).tick = s.tick := rfl
@[simp] theorem State.updRegion_cores (s : State) (r : Nat) (f : Region → Region) : (s.updRegion r f).cores = s.cores := rfl
@[simp] theorem State.updRegion_clusters (s : State) (r : Nat) (f : Region → Region) : (s.updRegion r f).clusters = s.clusters := rfl
@[simp] theorem State.updRegion_terps (s : State) (r : Nat) (f : Region → Region) : (s.updRegion r f).terps = s.terps := rfl
@[simp] theorem State.updRegion_feps (s : State) (r : Nat) (f : Region → Region) : (s.updRegion r f).feps = s.feps := rfl
@[simp] theorem State.updRegion_mem (s : State) (r : Nat) (f : Region → Region) : (s.updRegion r f).mem = s.mem := rfl
@[simp] theorem State.updRegion_poison (s : State) (r : Nat) (f : Region → Region) : (s.updRegion r f).poison = s.poison := rfl
@[simp] theorem State.updRegion_vers (s : State) (r : Nat) (f : Region → Region) : (s.updRegion r f).vers = s.vers := rfl
@[simp] theorem State.updRegion_pool (s : State) (r : Nat) (f : Region → Region) : (s.updRegion r f).pool = s.pool := rfl
@[simp] theorem State.updRegion_tide (s : State) (r : Nat) (f : Region → Region) : (s.updRegion r f).tide = s.tide := rfl
@[simp] theorem State.updRegion_cmds (s : State) (r : Nat) (f : Region → Region) : (s.updRegion r f).cmds = s.cmds := rfl
@[simp] theorem State.updRegion_objs (s : State) (r : Nat) (f : Region → Region) : (s.updRegion r f).objs = s.objs := rfl
@[simp] theorem State.updRegion_saved (s : State) (r : Nat) (f : Region → Region) : (s.updRegion r f).saved = s.saved := rfl
@[simp] theorem State.updRegion_qlive (s : State) (r : Nat) (f : Region → Region) : (s.updRegion r f).qlive = s.qlive := rfl
@[simp] theorem State.updRegion_tlb (s : State) (r : Nat) (f : Region → Region) : (s.updRegion r f).tlb = s.tlb := rfl
@[simp] theorem State.updRegion_invals (s : State) (r : Nat) (f : Region → Region) : (s.updRegion r f).invals = s.invals := rfl
@[simp] theorem State.updRegion_moves (s : State) (r : Nat) (f : Region → Region) : (s.updRegion r f).moves = s.moves := rfl
@[simp] theorem State.updRegion_frames (s : State) (r : Nat) (f : Region → Region) : (s.updRegion r f).frames = s.frames := rfl
@[simp] theorem State.updRegion_cold (s : State) (r : Nat) (f : Region → Region) : (s.updRegion r f).cold = s.cold := rfl
@[simp] theorem State.updRegion_scanAt (s : State) (r : Nat) (f : Region → Region) : (s.updRegion r f).scanAt = s.scanAt := rfl
@[simp] theorem State.updRegion_qgbase (s : State) (r : Nat) (f : Region → Region) : (s.updRegion r f).qgbase = s.qgbase := rfl
@[simp] theorem State.updRegion_qpbase (s : State) (r : Nat) (f : Region → Region) : (s.updRegion r f).qpbase = s.qpbase := rfl
@[simp] theorem State.updRegion_qdbase (s : State) (r : Nat) (f : Region → Region) : (s.updRegion r f).qdbase = s.qdbase := rfl
@[simp] theorem State.updRegion_ptbase (s : State) (r : Nat) (f : Region → Region) : (s.updRegion r f).ptbase = s.ptbase := rfl
@[simp] theorem State.updRegion_lrtbase (s : State) (r : Nat) (f : Region → Region) : (s.updRegion r f).lrtbase = s.lrtbase := rfl
@[simp] theorem State.updRegion_lrsw (s : State) (r : Nat) (f : Region → Region) : (s.updRegion r f).lrsw = s.lrsw := rfl
@[simp] theorem State.updRegion_lrswWait (s : State) (r : Nat) (f : Region → Region) : (s.updRegion r f).lrswWait = s.lrswWait := rfl
@[simp] theorem State.updRegion_fwd (s : State) (r : Nat) (f : Region → Region) : (s.updRegion r f).fwd = s.fwd := rfl
@[simp] theorem State.updRegion_arbfloor (s : State) (r : Nat) (f : Region → Region) : (s.updRegion r f).arbfloor = s.arbfloor := rfl
@[simp] theorem State.updRegion_envcnt (s : State) (r : Nat) (f : Region → Region) : (s.updRegion r f).envcnt = s.envcnt := rfl
@[simp] theorem State.updRegion_arbNo (s : State) (r : Nat) (f : Region → Region) : (s.updRegion r f).arbNo = s.arbNo := rfl
@[simp] theorem State.updRegion_arbAt (s : State) (r : Nat) (f : Region → Region) : (s.updRegion r f).arbAt = s.arbAt := rfl
@[simp] theorem State.updRegion_nringBase (s : State) (r : Nat) (f : Region → Region) : (s.updRegion r f).nringBase = s.nringBase := rfl
@[simp] theorem State.updRegion_nringLog2 (s : State) (r : Nat) (f : Region → Region) : (s.updRegion r f).nringLog2 = s.nringLog2 := rfl
@[simp] theorem State.updRegion_nrCons (s : State) (r : Nat) (f : Region → Region) : (s.updRegion r f).nrCons = s.nrCons := rfl
@[simp] theorem State.updRegion_nrProd (s : State) (r : Nat) (f : Region → Region) : (s.updRegion r f).nrProd = s.nrProd := rfl
@[simp] theorem State.updRegion_nrWritten (s : State) (r : Nat) (f : Region → Region) : (s.updRegion r f).nrWritten = s.nrWritten := rfl
@[simp] theorem State.updRegion_notices (s : State) (r : Nat) (f : Region → Region) : (s.updRegion r f).notices = s.notices := rfl
@[simp] theorem State.updRegion_hostMem (s : State) (r : Nat) (f : Region → Region) : (s.updRegion r f).hostMem = s.hostMem := rfl
@[simp] theorem State.updRegion_hostUp (s : State) (r : Nat) (f : Region → Region) : (s.updRegion r f).hostUp = s.hostUp := rfl
@[simp] theorem State.updRegion_pctlBusy (s : State) (r : Nat) (f : Region → Region) : (s.updRegion r f).pctlBusy = s.pctlBusy := rfl
@[simp] theorem State.updRegion_pctlErr (s : State) (r : Nat) (f : Region → Region) : (s.updRegion r f).pctlErr = s.pctlErr := rfl
@[simp] theorem State.updRegion_pctlHeld (s : State) (r : Nat) (f : Region → Region) : (s.updRegion r f).pctlHeld = s.pctlHeld := rfl
@[simp] theorem State.updRegion_owners (s : State) (r : Nat) (f : Region → Region) : (s.updRegion r f).owners = s.owners := rfl
@[simp] theorem State.updRegion_levQ (s : State) (r : Nat) (f : Region → Region) : (s.updRegion r f).levQ = s.levQ := rfl
@[simp] theorem State.updRegion_levHeld (s : State) (r : Nat) (f : Region → Region) : (s.updRegion r f).levHeld = s.levHeld := rfl
@[simp] theorem State.updRegion_levRes (s : State) (r : Nat) (f : Region → Region) : (s.updRegion r f).levRes = s.levRes := rfl
@[simp] theorem State.updRegion_levReason (s : State) (r : Nat) (f : Region → Region) : (s.updRegion r f).levReason = s.levReason := rfl
@[simp] theorem State.updRegion_levNamed (s : State) (r : Nat) (f : Region → Region) : (s.updRegion r f).levNamed = s.levNamed := rfl
@[simp] theorem State.updRegion_levExcess (s : State) (r : Nat) (f : Region → Region) : (s.updRegion r f).levExcess = s.levExcess := rfl
@[simp] theorem State.updRegion_levSeq (s : State) (r : Nat) (f : Region → Region) : (s.updRegion r f).levSeq = s.levSeq := rfl
@[simp] theorem State.updRegion_tdlk (s : State) (r : Nat) (f : Region → Region) : (s.updRegion r f).tdlk = s.tdlk := rfl
@[simp] theorem State.updRegion_ports (s : State) (r : Nat) (f : Region → Region) : (s.updRegion r f).ports = s.ports := rfl
@[simp] theorem State.updRegion_t2 (s : State) (r : Nat) (f : Region → Region) : (s.updRegion r f).t2 = s.t2 := rfl
@[simp] theorem State.updRegion_islands (s : State) (r : Nat) (f : Region → Region) : (s.updRegion r f).islands = s.islands := rfl
@[simp] theorem State.updRegion_dram (s : State) (r : Nat) (f : Region → Region) : (s.updRegion r f).dram = s.dram := rfl
@[simp] theorem State.updRegion_fab (s : State) (r : Nat) (f : Region → Region) : (s.updRegion r f).fab = s.fab := rfl
@[simp] theorem State.updRegion_passed (s : State) (r : Nat) (f : Region → Region) : (s.updRegion r f).passed = s.passed := rfl
@[simp] theorem State.updRegion_presets (s : State) (r : Nat) (f : Region → Region) : (s.updRegion r f).presets = s.presets := rfl
@[simp] theorem State.updRegion_brkArmed (s : State) (r : Nat) (f : Region → Region) : (s.updRegion r f).brkArmed = s.brkArmed := rfl
@[simp] theorem State.updRegion_inReset (s : State) (r : Nat) (f : Region → Region) : (s.updRegion r f).inReset = s.inReset := rfl
@[simp] theorem State.updRegion_identity (s : State) (r : Nat) (f : Region → Region) : (s.updRegion r f).identity = s.identity := rfl
@[simp] theorem State.updRegion_certificate (s : State) (r : Nat) (f : Region → Region) : (s.updRegion r f).certificate = s.certificate := rfl
@[simp] theorem State.updRegion_loadEnd (s : State) (r : Nat) (f : Region → Region) : (s.updRegion r f).loadEnd = s.loadEnd := rfl

/-! `updIsland` writes islands alone. -/

@[simp] theorem State.updIsland_agenda (s : State) (i : Nat) (f : Island → Island) : (s.updIsland i f).agenda = s.agenda := rfl
@[simp] theorem State.updIsland_cur (s : State) (i : Nat) (f : Island → Island) : (s.updIsland i f).cur = s.cur := rfl
@[simp] theorem State.updIsland_curFep (s : State) (i : Nat) (f : Island → Island) : (s.updIsland i f).curFep = s.curFep := rfl
@[simp] theorem State.updIsland_fresh (s : State) (i : Nat) (f : Island → Island) : (s.updIsland i f).fresh = s.fresh := rfl
@[simp] theorem State.updIsland_nextId (s : State) (i : Nat) (f : Island → Island) : (s.updIsland i f).nextId = s.nextId := rfl
@[simp] theorem State.updIsland_tick (s : State) (i : Nat) (f : Island → Island) : (s.updIsland i f).tick = s.tick := rfl
@[simp] theorem State.updIsland_cores (s : State) (i : Nat) (f : Island → Island) : (s.updIsland i f).cores = s.cores := rfl
@[simp] theorem State.updIsland_clusters (s : State) (i : Nat) (f : Island → Island) : (s.updIsland i f).clusters = s.clusters := rfl
@[simp] theorem State.updIsland_terps (s : State) (i : Nat) (f : Island → Island) : (s.updIsland i f).terps = s.terps := rfl
@[simp] theorem State.updIsland_feps (s : State) (i : Nat) (f : Island → Island) : (s.updIsland i f).feps = s.feps := rfl
@[simp] theorem State.updIsland_mem (s : State) (i : Nat) (f : Island → Island) : (s.updIsland i f).mem = s.mem := rfl
@[simp] theorem State.updIsland_poison (s : State) (i : Nat) (f : Island → Island) : (s.updIsland i f).poison = s.poison := rfl
@[simp] theorem State.updIsland_vers (s : State) (i : Nat) (f : Island → Island) : (s.updIsland i f).vers = s.vers := rfl
@[simp] theorem State.updIsland_pool (s : State) (i : Nat) (f : Island → Island) : (s.updIsland i f).pool = s.pool := rfl
@[simp] theorem State.updIsland_tide (s : State) (i : Nat) (f : Island → Island) : (s.updIsland i f).tide = s.tide := rfl
@[simp] theorem State.updIsland_cmds (s : State) (i : Nat) (f : Island → Island) : (s.updIsland i f).cmds = s.cmds := rfl
@[simp] theorem State.updIsland_objs (s : State) (i : Nat) (f : Island → Island) : (s.updIsland i f).objs = s.objs := rfl
@[simp] theorem State.updIsland_regions (s : State) (i : Nat) (f : Island → Island) : (s.updIsland i f).regions = s.regions := rfl
@[simp] theorem State.updIsland_saved (s : State) (i : Nat) (f : Island → Island) : (s.updIsland i f).saved = s.saved := rfl
@[simp] theorem State.updIsland_qlive (s : State) (i : Nat) (f : Island → Island) : (s.updIsland i f).qlive = s.qlive := rfl
@[simp] theorem State.updIsland_tlb (s : State) (i : Nat) (f : Island → Island) : (s.updIsland i f).tlb = s.tlb := rfl
@[simp] theorem State.updIsland_invals (s : State) (i : Nat) (f : Island → Island) : (s.updIsland i f).invals = s.invals := rfl
@[simp] theorem State.updIsland_moves (s : State) (i : Nat) (f : Island → Island) : (s.updIsland i f).moves = s.moves := rfl
@[simp] theorem State.updIsland_frames (s : State) (i : Nat) (f : Island → Island) : (s.updIsland i f).frames = s.frames := rfl
@[simp] theorem State.updIsland_cold (s : State) (i : Nat) (f : Island → Island) : (s.updIsland i f).cold = s.cold := rfl
@[simp] theorem State.updIsland_scanAt (s : State) (i : Nat) (f : Island → Island) : (s.updIsland i f).scanAt = s.scanAt := rfl
@[simp] theorem State.updIsland_qgbase (s : State) (i : Nat) (f : Island → Island) : (s.updIsland i f).qgbase = s.qgbase := rfl
@[simp] theorem State.updIsland_qpbase (s : State) (i : Nat) (f : Island → Island) : (s.updIsland i f).qpbase = s.qpbase := rfl
@[simp] theorem State.updIsland_qdbase (s : State) (i : Nat) (f : Island → Island) : (s.updIsland i f).qdbase = s.qdbase := rfl
@[simp] theorem State.updIsland_ptbase (s : State) (i : Nat) (f : Island → Island) : (s.updIsland i f).ptbase = s.ptbase := rfl
@[simp] theorem State.updIsland_lrtbase (s : State) (i : Nat) (f : Island → Island) : (s.updIsland i f).lrtbase = s.lrtbase := rfl
@[simp] theorem State.updIsland_lrsw (s : State) (i : Nat) (f : Island → Island) : (s.updIsland i f).lrsw = s.lrsw := rfl
@[simp] theorem State.updIsland_lrswWait (s : State) (i : Nat) (f : Island → Island) : (s.updIsland i f).lrswWait = s.lrswWait := rfl
@[simp] theorem State.updIsland_fwd (s : State) (i : Nat) (f : Island → Island) : (s.updIsland i f).fwd = s.fwd := rfl
@[simp] theorem State.updIsland_arbfloor (s : State) (i : Nat) (f : Island → Island) : (s.updIsland i f).arbfloor = s.arbfloor := rfl
@[simp] theorem State.updIsland_envcnt (s : State) (i : Nat) (f : Island → Island) : (s.updIsland i f).envcnt = s.envcnt := rfl
@[simp] theorem State.updIsland_arbNo (s : State) (i : Nat) (f : Island → Island) : (s.updIsland i f).arbNo = s.arbNo := rfl
@[simp] theorem State.updIsland_arbAt (s : State) (i : Nat) (f : Island → Island) : (s.updIsland i f).arbAt = s.arbAt := rfl
@[simp] theorem State.updIsland_nringBase (s : State) (i : Nat) (f : Island → Island) : (s.updIsland i f).nringBase = s.nringBase := rfl
@[simp] theorem State.updIsland_nringLog2 (s : State) (i : Nat) (f : Island → Island) : (s.updIsland i f).nringLog2 = s.nringLog2 := rfl
@[simp] theorem State.updIsland_nrCons (s : State) (i : Nat) (f : Island → Island) : (s.updIsland i f).nrCons = s.nrCons := rfl
@[simp] theorem State.updIsland_nrProd (s : State) (i : Nat) (f : Island → Island) : (s.updIsland i f).nrProd = s.nrProd := rfl
@[simp] theorem State.updIsland_nrWritten (s : State) (i : Nat) (f : Island → Island) : (s.updIsland i f).nrWritten = s.nrWritten := rfl
@[simp] theorem State.updIsland_notices (s : State) (i : Nat) (f : Island → Island) : (s.updIsland i f).notices = s.notices := rfl
@[simp] theorem State.updIsland_hostMem (s : State) (i : Nat) (f : Island → Island) : (s.updIsland i f).hostMem = s.hostMem := rfl
@[simp] theorem State.updIsland_hostUp (s : State) (i : Nat) (f : Island → Island) : (s.updIsland i f).hostUp = s.hostUp := rfl
@[simp] theorem State.updIsland_pctlBusy (s : State) (i : Nat) (f : Island → Island) : (s.updIsland i f).pctlBusy = s.pctlBusy := rfl
@[simp] theorem State.updIsland_pctlErr (s : State) (i : Nat) (f : Island → Island) : (s.updIsland i f).pctlErr = s.pctlErr := rfl
@[simp] theorem State.updIsland_pctlHeld (s : State) (i : Nat) (f : Island → Island) : (s.updIsland i f).pctlHeld = s.pctlHeld := rfl
@[simp] theorem State.updIsland_owners (s : State) (i : Nat) (f : Island → Island) : (s.updIsland i f).owners = s.owners := rfl
@[simp] theorem State.updIsland_levQ (s : State) (i : Nat) (f : Island → Island) : (s.updIsland i f).levQ = s.levQ := rfl
@[simp] theorem State.updIsland_levHeld (s : State) (i : Nat) (f : Island → Island) : (s.updIsland i f).levHeld = s.levHeld := rfl
@[simp] theorem State.updIsland_levRes (s : State) (i : Nat) (f : Island → Island) : (s.updIsland i f).levRes = s.levRes := rfl
@[simp] theorem State.updIsland_levReason (s : State) (i : Nat) (f : Island → Island) : (s.updIsland i f).levReason = s.levReason := rfl
@[simp] theorem State.updIsland_levNamed (s : State) (i : Nat) (f : Island → Island) : (s.updIsland i f).levNamed = s.levNamed := rfl
@[simp] theorem State.updIsland_levExcess (s : State) (i : Nat) (f : Island → Island) : (s.updIsland i f).levExcess = s.levExcess := rfl
@[simp] theorem State.updIsland_levSeq (s : State) (i : Nat) (f : Island → Island) : (s.updIsland i f).levSeq = s.levSeq := rfl
@[simp] theorem State.updIsland_tdlk (s : State) (i : Nat) (f : Island → Island) : (s.updIsland i f).tdlk = s.tdlk := rfl
@[simp] theorem State.updIsland_ports (s : State) (i : Nat) (f : Island → Island) : (s.updIsland i f).ports = s.ports := rfl
@[simp] theorem State.updIsland_t2 (s : State) (i : Nat) (f : Island → Island) : (s.updIsland i f).t2 = s.t2 := rfl
@[simp] theorem State.updIsland_dram (s : State) (i : Nat) (f : Island → Island) : (s.updIsland i f).dram = s.dram := rfl
@[simp] theorem State.updIsland_fab (s : State) (i : Nat) (f : Island → Island) : (s.updIsland i f).fab = s.fab := rfl
@[simp] theorem State.updIsland_passed (s : State) (i : Nat) (f : Island → Island) : (s.updIsland i f).passed = s.passed := rfl
@[simp] theorem State.updIsland_presets (s : State) (i : Nat) (f : Island → Island) : (s.updIsland i f).presets = s.presets := rfl
@[simp] theorem State.updIsland_brkArmed (s : State) (i : Nat) (f : Island → Island) : (s.updIsland i f).brkArmed = s.brkArmed := rfl
@[simp] theorem State.updIsland_inReset (s : State) (i : Nat) (f : Island → Island) : (s.updIsland i f).inReset = s.inReset := rfl
@[simp] theorem State.updIsland_identity (s : State) (i : Nat) (f : Island → Island) : (s.updIsland i f).identity = s.identity := rfl
@[simp] theorem State.updIsland_certificate (s : State) (i : Nat) (f : Island → Island) : (s.updIsland i f).certificate = s.certificate := rfl
@[simp] theorem State.updIsland_loadEnd (s : State) (i : Nat) (f : Island → Island) : (s.updIsland i f).loadEnd = s.loadEnd := rfl

/-! `updPort` writes ports alone. -/

@[simp] theorem State.updPort_agenda (s : State) (d : Nat) (f : Port → Port) : (s.updPort d f).agenda = s.agenda := rfl
@[simp] theorem State.updPort_cur (s : State) (d : Nat) (f : Port → Port) : (s.updPort d f).cur = s.cur := rfl
@[simp] theorem State.updPort_curFep (s : State) (d : Nat) (f : Port → Port) : (s.updPort d f).curFep = s.curFep := rfl
@[simp] theorem State.updPort_fresh (s : State) (d : Nat) (f : Port → Port) : (s.updPort d f).fresh = s.fresh := rfl
@[simp] theorem State.updPort_nextId (s : State) (d : Nat) (f : Port → Port) : (s.updPort d f).nextId = s.nextId := rfl
@[simp] theorem State.updPort_tick (s : State) (d : Nat) (f : Port → Port) : (s.updPort d f).tick = s.tick := rfl
@[simp] theorem State.updPort_cores (s : State) (d : Nat) (f : Port → Port) : (s.updPort d f).cores = s.cores := rfl
@[simp] theorem State.updPort_clusters (s : State) (d : Nat) (f : Port → Port) : (s.updPort d f).clusters = s.clusters := rfl
@[simp] theorem State.updPort_terps (s : State) (d : Nat) (f : Port → Port) : (s.updPort d f).terps = s.terps := rfl
@[simp] theorem State.updPort_feps (s : State) (d : Nat) (f : Port → Port) : (s.updPort d f).feps = s.feps := rfl
@[simp] theorem State.updPort_mem (s : State) (d : Nat) (f : Port → Port) : (s.updPort d f).mem = s.mem := rfl
@[simp] theorem State.updPort_poison (s : State) (d : Nat) (f : Port → Port) : (s.updPort d f).poison = s.poison := rfl
@[simp] theorem State.updPort_vers (s : State) (d : Nat) (f : Port → Port) : (s.updPort d f).vers = s.vers := rfl
@[simp] theorem State.updPort_pool (s : State) (d : Nat) (f : Port → Port) : (s.updPort d f).pool = s.pool := rfl
@[simp] theorem State.updPort_tide (s : State) (d : Nat) (f : Port → Port) : (s.updPort d f).tide = s.tide := rfl
@[simp] theorem State.updPort_cmds (s : State) (d : Nat) (f : Port → Port) : (s.updPort d f).cmds = s.cmds := rfl
@[simp] theorem State.updPort_objs (s : State) (d : Nat) (f : Port → Port) : (s.updPort d f).objs = s.objs := rfl
@[simp] theorem State.updPort_regions (s : State) (d : Nat) (f : Port → Port) : (s.updPort d f).regions = s.regions := rfl
@[simp] theorem State.updPort_saved (s : State) (d : Nat) (f : Port → Port) : (s.updPort d f).saved = s.saved := rfl
@[simp] theorem State.updPort_qlive (s : State) (d : Nat) (f : Port → Port) : (s.updPort d f).qlive = s.qlive := rfl
@[simp] theorem State.updPort_tlb (s : State) (d : Nat) (f : Port → Port) : (s.updPort d f).tlb = s.tlb := rfl
@[simp] theorem State.updPort_invals (s : State) (d : Nat) (f : Port → Port) : (s.updPort d f).invals = s.invals := rfl
@[simp] theorem State.updPort_moves (s : State) (d : Nat) (f : Port → Port) : (s.updPort d f).moves = s.moves := rfl
@[simp] theorem State.updPort_frames (s : State) (d : Nat) (f : Port → Port) : (s.updPort d f).frames = s.frames := rfl
@[simp] theorem State.updPort_cold (s : State) (d : Nat) (f : Port → Port) : (s.updPort d f).cold = s.cold := rfl
@[simp] theorem State.updPort_scanAt (s : State) (d : Nat) (f : Port → Port) : (s.updPort d f).scanAt = s.scanAt := rfl
@[simp] theorem State.updPort_qgbase (s : State) (d : Nat) (f : Port → Port) : (s.updPort d f).qgbase = s.qgbase := rfl
@[simp] theorem State.updPort_qpbase (s : State) (d : Nat) (f : Port → Port) : (s.updPort d f).qpbase = s.qpbase := rfl
@[simp] theorem State.updPort_qdbase (s : State) (d : Nat) (f : Port → Port) : (s.updPort d f).qdbase = s.qdbase := rfl
@[simp] theorem State.updPort_ptbase (s : State) (d : Nat) (f : Port → Port) : (s.updPort d f).ptbase = s.ptbase := rfl
@[simp] theorem State.updPort_lrtbase (s : State) (d : Nat) (f : Port → Port) : (s.updPort d f).lrtbase = s.lrtbase := rfl
@[simp] theorem State.updPort_lrsw (s : State) (d : Nat) (f : Port → Port) : (s.updPort d f).lrsw = s.lrsw := rfl
@[simp] theorem State.updPort_lrswWait (s : State) (d : Nat) (f : Port → Port) : (s.updPort d f).lrswWait = s.lrswWait := rfl
@[simp] theorem State.updPort_fwd (s : State) (d : Nat) (f : Port → Port) : (s.updPort d f).fwd = s.fwd := rfl
@[simp] theorem State.updPort_arbfloor (s : State) (d : Nat) (f : Port → Port) : (s.updPort d f).arbfloor = s.arbfloor := rfl
@[simp] theorem State.updPort_envcnt (s : State) (d : Nat) (f : Port → Port) : (s.updPort d f).envcnt = s.envcnt := rfl
@[simp] theorem State.updPort_arbNo (s : State) (d : Nat) (f : Port → Port) : (s.updPort d f).arbNo = s.arbNo := rfl
@[simp] theorem State.updPort_arbAt (s : State) (d : Nat) (f : Port → Port) : (s.updPort d f).arbAt = s.arbAt := rfl
@[simp] theorem State.updPort_nringBase (s : State) (d : Nat) (f : Port → Port) : (s.updPort d f).nringBase = s.nringBase := rfl
@[simp] theorem State.updPort_nringLog2 (s : State) (d : Nat) (f : Port → Port) : (s.updPort d f).nringLog2 = s.nringLog2 := rfl
@[simp] theorem State.updPort_nrCons (s : State) (d : Nat) (f : Port → Port) : (s.updPort d f).nrCons = s.nrCons := rfl
@[simp] theorem State.updPort_nrProd (s : State) (d : Nat) (f : Port → Port) : (s.updPort d f).nrProd = s.nrProd := rfl
@[simp] theorem State.updPort_nrWritten (s : State) (d : Nat) (f : Port → Port) : (s.updPort d f).nrWritten = s.nrWritten := rfl
@[simp] theorem State.updPort_notices (s : State) (d : Nat) (f : Port → Port) : (s.updPort d f).notices = s.notices := rfl
@[simp] theorem State.updPort_hostMem (s : State) (d : Nat) (f : Port → Port) : (s.updPort d f).hostMem = s.hostMem := rfl
@[simp] theorem State.updPort_hostUp (s : State) (d : Nat) (f : Port → Port) : (s.updPort d f).hostUp = s.hostUp := rfl
@[simp] theorem State.updPort_pctlBusy (s : State) (d : Nat) (f : Port → Port) : (s.updPort d f).pctlBusy = s.pctlBusy := rfl
@[simp] theorem State.updPort_pctlErr (s : State) (d : Nat) (f : Port → Port) : (s.updPort d f).pctlErr = s.pctlErr := rfl
@[simp] theorem State.updPort_pctlHeld (s : State) (d : Nat) (f : Port → Port) : (s.updPort d f).pctlHeld = s.pctlHeld := rfl
@[simp] theorem State.updPort_owners (s : State) (d : Nat) (f : Port → Port) : (s.updPort d f).owners = s.owners := rfl
@[simp] theorem State.updPort_levQ (s : State) (d : Nat) (f : Port → Port) : (s.updPort d f).levQ = s.levQ := rfl
@[simp] theorem State.updPort_levHeld (s : State) (d : Nat) (f : Port → Port) : (s.updPort d f).levHeld = s.levHeld := rfl
@[simp] theorem State.updPort_levRes (s : State) (d : Nat) (f : Port → Port) : (s.updPort d f).levRes = s.levRes := rfl
@[simp] theorem State.updPort_levReason (s : State) (d : Nat) (f : Port → Port) : (s.updPort d f).levReason = s.levReason := rfl
@[simp] theorem State.updPort_levNamed (s : State) (d : Nat) (f : Port → Port) : (s.updPort d f).levNamed = s.levNamed := rfl
@[simp] theorem State.updPort_levExcess (s : State) (d : Nat) (f : Port → Port) : (s.updPort d f).levExcess = s.levExcess := rfl
@[simp] theorem State.updPort_levSeq (s : State) (d : Nat) (f : Port → Port) : (s.updPort d f).levSeq = s.levSeq := rfl
@[simp] theorem State.updPort_tdlk (s : State) (d : Nat) (f : Port → Port) : (s.updPort d f).tdlk = s.tdlk := rfl
@[simp] theorem State.updPort_t2 (s : State) (d : Nat) (f : Port → Port) : (s.updPort d f).t2 = s.t2 := rfl
@[simp] theorem State.updPort_islands (s : State) (d : Nat) (f : Port → Port) : (s.updPort d f).islands = s.islands := rfl
@[simp] theorem State.updPort_dram (s : State) (d : Nat) (f : Port → Port) : (s.updPort d f).dram = s.dram := rfl
@[simp] theorem State.updPort_fab (s : State) (d : Nat) (f : Port → Port) : (s.updPort d f).fab = s.fab := rfl
@[simp] theorem State.updPort_passed (s : State) (d : Nat) (f : Port → Port) : (s.updPort d f).passed = s.passed := rfl
@[simp] theorem State.updPort_presets (s : State) (d : Nat) (f : Port → Port) : (s.updPort d f).presets = s.presets := rfl
@[simp] theorem State.updPort_brkArmed (s : State) (d : Nat) (f : Port → Port) : (s.updPort d f).brkArmed = s.brkArmed := rfl
@[simp] theorem State.updPort_inReset (s : State) (d : Nat) (f : Port → Port) : (s.updPort d f).inReset = s.inReset := rfl
@[simp] theorem State.updPort_identity (s : State) (d : Nat) (f : Port → Port) : (s.updPort d f).identity = s.identity := rfl
@[simp] theorem State.updPort_certificate (s : State) (d : Nat) (f : Port → Port) : (s.updPort d f).certificate = s.certificate := rfl
@[simp] theorem State.updPort_loadEnd (s : State) (d : Nat) (f : Port → Port) : (s.updPort d f).loadEnd = s.loadEnd := rfl

/-! `updObj` writes objs alone. -/

@[simp] theorem State.updObj_agenda (s : State) (pa : Nat) (f : ObjX → ObjX) : (s.updObj pa f).agenda = s.agenda := rfl
@[simp] theorem State.updObj_cur (s : State) (pa : Nat) (f : ObjX → ObjX) : (s.updObj pa f).cur = s.cur := rfl
@[simp] theorem State.updObj_curFep (s : State) (pa : Nat) (f : ObjX → ObjX) : (s.updObj pa f).curFep = s.curFep := rfl
@[simp] theorem State.updObj_fresh (s : State) (pa : Nat) (f : ObjX → ObjX) : (s.updObj pa f).fresh = s.fresh := rfl
@[simp] theorem State.updObj_nextId (s : State) (pa : Nat) (f : ObjX → ObjX) : (s.updObj pa f).nextId = s.nextId := rfl
@[simp] theorem State.updObj_tick (s : State) (pa : Nat) (f : ObjX → ObjX) : (s.updObj pa f).tick = s.tick := rfl
@[simp] theorem State.updObj_cores (s : State) (pa : Nat) (f : ObjX → ObjX) : (s.updObj pa f).cores = s.cores := rfl
@[simp] theorem State.updObj_clusters (s : State) (pa : Nat) (f : ObjX → ObjX) : (s.updObj pa f).clusters = s.clusters := rfl
@[simp] theorem State.updObj_terps (s : State) (pa : Nat) (f : ObjX → ObjX) : (s.updObj pa f).terps = s.terps := rfl
@[simp] theorem State.updObj_feps (s : State) (pa : Nat) (f : ObjX → ObjX) : (s.updObj pa f).feps = s.feps := rfl
@[simp] theorem State.updObj_mem (s : State) (pa : Nat) (f : ObjX → ObjX) : (s.updObj pa f).mem = s.mem := rfl
@[simp] theorem State.updObj_poison (s : State) (pa : Nat) (f : ObjX → ObjX) : (s.updObj pa f).poison = s.poison := rfl
@[simp] theorem State.updObj_vers (s : State) (pa : Nat) (f : ObjX → ObjX) : (s.updObj pa f).vers = s.vers := rfl
@[simp] theorem State.updObj_pool (s : State) (pa : Nat) (f : ObjX → ObjX) : (s.updObj pa f).pool = s.pool := rfl
@[simp] theorem State.updObj_tide (s : State) (pa : Nat) (f : ObjX → ObjX) : (s.updObj pa f).tide = s.tide := rfl
@[simp] theorem State.updObj_cmds (s : State) (pa : Nat) (f : ObjX → ObjX) : (s.updObj pa f).cmds = s.cmds := rfl
@[simp] theorem State.updObj_regions (s : State) (pa : Nat) (f : ObjX → ObjX) : (s.updObj pa f).regions = s.regions := rfl
@[simp] theorem State.updObj_saved (s : State) (pa : Nat) (f : ObjX → ObjX) : (s.updObj pa f).saved = s.saved := rfl
@[simp] theorem State.updObj_qlive (s : State) (pa : Nat) (f : ObjX → ObjX) : (s.updObj pa f).qlive = s.qlive := rfl
@[simp] theorem State.updObj_tlb (s : State) (pa : Nat) (f : ObjX → ObjX) : (s.updObj pa f).tlb = s.tlb := rfl
@[simp] theorem State.updObj_invals (s : State) (pa : Nat) (f : ObjX → ObjX) : (s.updObj pa f).invals = s.invals := rfl
@[simp] theorem State.updObj_moves (s : State) (pa : Nat) (f : ObjX → ObjX) : (s.updObj pa f).moves = s.moves := rfl
@[simp] theorem State.updObj_frames (s : State) (pa : Nat) (f : ObjX → ObjX) : (s.updObj pa f).frames = s.frames := rfl
@[simp] theorem State.updObj_cold (s : State) (pa : Nat) (f : ObjX → ObjX) : (s.updObj pa f).cold = s.cold := rfl
@[simp] theorem State.updObj_scanAt (s : State) (pa : Nat) (f : ObjX → ObjX) : (s.updObj pa f).scanAt = s.scanAt := rfl
@[simp] theorem State.updObj_qgbase (s : State) (pa : Nat) (f : ObjX → ObjX) : (s.updObj pa f).qgbase = s.qgbase := rfl
@[simp] theorem State.updObj_qpbase (s : State) (pa : Nat) (f : ObjX → ObjX) : (s.updObj pa f).qpbase = s.qpbase := rfl
@[simp] theorem State.updObj_qdbase (s : State) (pa : Nat) (f : ObjX → ObjX) : (s.updObj pa f).qdbase = s.qdbase := rfl
@[simp] theorem State.updObj_ptbase (s : State) (pa : Nat) (f : ObjX → ObjX) : (s.updObj pa f).ptbase = s.ptbase := rfl
@[simp] theorem State.updObj_lrtbase (s : State) (pa : Nat) (f : ObjX → ObjX) : (s.updObj pa f).lrtbase = s.lrtbase := rfl
@[simp] theorem State.updObj_lrsw (s : State) (pa : Nat) (f : ObjX → ObjX) : (s.updObj pa f).lrsw = s.lrsw := rfl
@[simp] theorem State.updObj_lrswWait (s : State) (pa : Nat) (f : ObjX → ObjX) : (s.updObj pa f).lrswWait = s.lrswWait := rfl
@[simp] theorem State.updObj_fwd (s : State) (pa : Nat) (f : ObjX → ObjX) : (s.updObj pa f).fwd = s.fwd := rfl
@[simp] theorem State.updObj_arbfloor (s : State) (pa : Nat) (f : ObjX → ObjX) : (s.updObj pa f).arbfloor = s.arbfloor := rfl
@[simp] theorem State.updObj_envcnt (s : State) (pa : Nat) (f : ObjX → ObjX) : (s.updObj pa f).envcnt = s.envcnt := rfl
@[simp] theorem State.updObj_arbNo (s : State) (pa : Nat) (f : ObjX → ObjX) : (s.updObj pa f).arbNo = s.arbNo := rfl
@[simp] theorem State.updObj_arbAt (s : State) (pa : Nat) (f : ObjX → ObjX) : (s.updObj pa f).arbAt = s.arbAt := rfl
@[simp] theorem State.updObj_nringBase (s : State) (pa : Nat) (f : ObjX → ObjX) : (s.updObj pa f).nringBase = s.nringBase := rfl
@[simp] theorem State.updObj_nringLog2 (s : State) (pa : Nat) (f : ObjX → ObjX) : (s.updObj pa f).nringLog2 = s.nringLog2 := rfl
@[simp] theorem State.updObj_nrCons (s : State) (pa : Nat) (f : ObjX → ObjX) : (s.updObj pa f).nrCons = s.nrCons := rfl
@[simp] theorem State.updObj_nrProd (s : State) (pa : Nat) (f : ObjX → ObjX) : (s.updObj pa f).nrProd = s.nrProd := rfl
@[simp] theorem State.updObj_nrWritten (s : State) (pa : Nat) (f : ObjX → ObjX) : (s.updObj pa f).nrWritten = s.nrWritten := rfl
@[simp] theorem State.updObj_notices (s : State) (pa : Nat) (f : ObjX → ObjX) : (s.updObj pa f).notices = s.notices := rfl
@[simp] theorem State.updObj_hostMem (s : State) (pa : Nat) (f : ObjX → ObjX) : (s.updObj pa f).hostMem = s.hostMem := rfl
@[simp] theorem State.updObj_hostUp (s : State) (pa : Nat) (f : ObjX → ObjX) : (s.updObj pa f).hostUp = s.hostUp := rfl
@[simp] theorem State.updObj_pctlBusy (s : State) (pa : Nat) (f : ObjX → ObjX) : (s.updObj pa f).pctlBusy = s.pctlBusy := rfl
@[simp] theorem State.updObj_pctlErr (s : State) (pa : Nat) (f : ObjX → ObjX) : (s.updObj pa f).pctlErr = s.pctlErr := rfl
@[simp] theorem State.updObj_pctlHeld (s : State) (pa : Nat) (f : ObjX → ObjX) : (s.updObj pa f).pctlHeld = s.pctlHeld := rfl
@[simp] theorem State.updObj_owners (s : State) (pa : Nat) (f : ObjX → ObjX) : (s.updObj pa f).owners = s.owners := rfl
@[simp] theorem State.updObj_levQ (s : State) (pa : Nat) (f : ObjX → ObjX) : (s.updObj pa f).levQ = s.levQ := rfl
@[simp] theorem State.updObj_levHeld (s : State) (pa : Nat) (f : ObjX → ObjX) : (s.updObj pa f).levHeld = s.levHeld := rfl
@[simp] theorem State.updObj_levRes (s : State) (pa : Nat) (f : ObjX → ObjX) : (s.updObj pa f).levRes = s.levRes := rfl
@[simp] theorem State.updObj_levReason (s : State) (pa : Nat) (f : ObjX → ObjX) : (s.updObj pa f).levReason = s.levReason := rfl
@[simp] theorem State.updObj_levNamed (s : State) (pa : Nat) (f : ObjX → ObjX) : (s.updObj pa f).levNamed = s.levNamed := rfl
@[simp] theorem State.updObj_levExcess (s : State) (pa : Nat) (f : ObjX → ObjX) : (s.updObj pa f).levExcess = s.levExcess := rfl
@[simp] theorem State.updObj_levSeq (s : State) (pa : Nat) (f : ObjX → ObjX) : (s.updObj pa f).levSeq = s.levSeq := rfl
@[simp] theorem State.updObj_tdlk (s : State) (pa : Nat) (f : ObjX → ObjX) : (s.updObj pa f).tdlk = s.tdlk := rfl
@[simp] theorem State.updObj_ports (s : State) (pa : Nat) (f : ObjX → ObjX) : (s.updObj pa f).ports = s.ports := rfl
@[simp] theorem State.updObj_t2 (s : State) (pa : Nat) (f : ObjX → ObjX) : (s.updObj pa f).t2 = s.t2 := rfl
@[simp] theorem State.updObj_islands (s : State) (pa : Nat) (f : ObjX → ObjX) : (s.updObj pa f).islands = s.islands := rfl
@[simp] theorem State.updObj_dram (s : State) (pa : Nat) (f : ObjX → ObjX) : (s.updObj pa f).dram = s.dram := rfl
@[simp] theorem State.updObj_fab (s : State) (pa : Nat) (f : ObjX → ObjX) : (s.updObj pa f).fab = s.fab := rfl
@[simp] theorem State.updObj_passed (s : State) (pa : Nat) (f : ObjX → ObjX) : (s.updObj pa f).passed = s.passed := rfl
@[simp] theorem State.updObj_presets (s : State) (pa : Nat) (f : ObjX → ObjX) : (s.updObj pa f).presets = s.presets := rfl
@[simp] theorem State.updObj_brkArmed (s : State) (pa : Nat) (f : ObjX → ObjX) : (s.updObj pa f).brkArmed = s.brkArmed := rfl
@[simp] theorem State.updObj_inReset (s : State) (pa : Nat) (f : ObjX → ObjX) : (s.updObj pa f).inReset = s.inReset := rfl
@[simp] theorem State.updObj_identity (s : State) (pa : Nat) (f : ObjX → ObjX) : (s.updObj pa f).identity = s.identity := rfl
@[simp] theorem State.updObj_certificate (s : State) (pa : Nat) (f : ObjX → ObjX) : (s.updObj pa f).certificate = s.certificate := rfl
@[simp] theorem State.updObj_loadEnd (s : State) (pa : Nat) (f : ObjX → ObjX) : (s.updObj pa f).loadEnd = s.loadEnd := rfl

/-! `updLive` writes qlive alone. -/

@[simp] theorem State.updLive_agenda (s : State) (q : Nat) (f : QLive → QLive) : (s.updLive q f).agenda = s.agenda := rfl
@[simp] theorem State.updLive_cur (s : State) (q : Nat) (f : QLive → QLive) : (s.updLive q f).cur = s.cur := rfl
@[simp] theorem State.updLive_curFep (s : State) (q : Nat) (f : QLive → QLive) : (s.updLive q f).curFep = s.curFep := rfl
@[simp] theorem State.updLive_fresh (s : State) (q : Nat) (f : QLive → QLive) : (s.updLive q f).fresh = s.fresh := rfl
@[simp] theorem State.updLive_nextId (s : State) (q : Nat) (f : QLive → QLive) : (s.updLive q f).nextId = s.nextId := rfl
@[simp] theorem State.updLive_tick (s : State) (q : Nat) (f : QLive → QLive) : (s.updLive q f).tick = s.tick := rfl
@[simp] theorem State.updLive_cores (s : State) (q : Nat) (f : QLive → QLive) : (s.updLive q f).cores = s.cores := rfl
@[simp] theorem State.updLive_clusters (s : State) (q : Nat) (f : QLive → QLive) : (s.updLive q f).clusters = s.clusters := rfl
@[simp] theorem State.updLive_terps (s : State) (q : Nat) (f : QLive → QLive) : (s.updLive q f).terps = s.terps := rfl
@[simp] theorem State.updLive_feps (s : State) (q : Nat) (f : QLive → QLive) : (s.updLive q f).feps = s.feps := rfl
@[simp] theorem State.updLive_mem (s : State) (q : Nat) (f : QLive → QLive) : (s.updLive q f).mem = s.mem := rfl
@[simp] theorem State.updLive_poison (s : State) (q : Nat) (f : QLive → QLive) : (s.updLive q f).poison = s.poison := rfl
@[simp] theorem State.updLive_vers (s : State) (q : Nat) (f : QLive → QLive) : (s.updLive q f).vers = s.vers := rfl
@[simp] theorem State.updLive_pool (s : State) (q : Nat) (f : QLive → QLive) : (s.updLive q f).pool = s.pool := rfl
@[simp] theorem State.updLive_tide (s : State) (q : Nat) (f : QLive → QLive) : (s.updLive q f).tide = s.tide := rfl
@[simp] theorem State.updLive_cmds (s : State) (q : Nat) (f : QLive → QLive) : (s.updLive q f).cmds = s.cmds := rfl
@[simp] theorem State.updLive_objs (s : State) (q : Nat) (f : QLive → QLive) : (s.updLive q f).objs = s.objs := rfl
@[simp] theorem State.updLive_regions (s : State) (q : Nat) (f : QLive → QLive) : (s.updLive q f).regions = s.regions := rfl
@[simp] theorem State.updLive_saved (s : State) (q : Nat) (f : QLive → QLive) : (s.updLive q f).saved = s.saved := rfl
@[simp] theorem State.updLive_tlb (s : State) (q : Nat) (f : QLive → QLive) : (s.updLive q f).tlb = s.tlb := rfl
@[simp] theorem State.updLive_invals (s : State) (q : Nat) (f : QLive → QLive) : (s.updLive q f).invals = s.invals := rfl
@[simp] theorem State.updLive_moves (s : State) (q : Nat) (f : QLive → QLive) : (s.updLive q f).moves = s.moves := rfl
@[simp] theorem State.updLive_frames (s : State) (q : Nat) (f : QLive → QLive) : (s.updLive q f).frames = s.frames := rfl
@[simp] theorem State.updLive_cold (s : State) (q : Nat) (f : QLive → QLive) : (s.updLive q f).cold = s.cold := rfl
@[simp] theorem State.updLive_scanAt (s : State) (q : Nat) (f : QLive → QLive) : (s.updLive q f).scanAt = s.scanAt := rfl
@[simp] theorem State.updLive_qgbase (s : State) (q : Nat) (f : QLive → QLive) : (s.updLive q f).qgbase = s.qgbase := rfl
@[simp] theorem State.updLive_qpbase (s : State) (q : Nat) (f : QLive → QLive) : (s.updLive q f).qpbase = s.qpbase := rfl
@[simp] theorem State.updLive_qdbase (s : State) (q : Nat) (f : QLive → QLive) : (s.updLive q f).qdbase = s.qdbase := rfl
@[simp] theorem State.updLive_ptbase (s : State) (q : Nat) (f : QLive → QLive) : (s.updLive q f).ptbase = s.ptbase := rfl
@[simp] theorem State.updLive_lrtbase (s : State) (q : Nat) (f : QLive → QLive) : (s.updLive q f).lrtbase = s.lrtbase := rfl
@[simp] theorem State.updLive_lrsw (s : State) (q : Nat) (f : QLive → QLive) : (s.updLive q f).lrsw = s.lrsw := rfl
@[simp] theorem State.updLive_lrswWait (s : State) (q : Nat) (f : QLive → QLive) : (s.updLive q f).lrswWait = s.lrswWait := rfl
@[simp] theorem State.updLive_fwd (s : State) (q : Nat) (f : QLive → QLive) : (s.updLive q f).fwd = s.fwd := rfl
@[simp] theorem State.updLive_arbfloor (s : State) (q : Nat) (f : QLive → QLive) : (s.updLive q f).arbfloor = s.arbfloor := rfl
@[simp] theorem State.updLive_envcnt (s : State) (q : Nat) (f : QLive → QLive) : (s.updLive q f).envcnt = s.envcnt := rfl
@[simp] theorem State.updLive_arbNo (s : State) (q : Nat) (f : QLive → QLive) : (s.updLive q f).arbNo = s.arbNo := rfl
@[simp] theorem State.updLive_arbAt (s : State) (q : Nat) (f : QLive → QLive) : (s.updLive q f).arbAt = s.arbAt := rfl
@[simp] theorem State.updLive_nringBase (s : State) (q : Nat) (f : QLive → QLive) : (s.updLive q f).nringBase = s.nringBase := rfl
@[simp] theorem State.updLive_nringLog2 (s : State) (q : Nat) (f : QLive → QLive) : (s.updLive q f).nringLog2 = s.nringLog2 := rfl
@[simp] theorem State.updLive_nrCons (s : State) (q : Nat) (f : QLive → QLive) : (s.updLive q f).nrCons = s.nrCons := rfl
@[simp] theorem State.updLive_nrProd (s : State) (q : Nat) (f : QLive → QLive) : (s.updLive q f).nrProd = s.nrProd := rfl
@[simp] theorem State.updLive_nrWritten (s : State) (q : Nat) (f : QLive → QLive) : (s.updLive q f).nrWritten = s.nrWritten := rfl
@[simp] theorem State.updLive_notices (s : State) (q : Nat) (f : QLive → QLive) : (s.updLive q f).notices = s.notices := rfl
@[simp] theorem State.updLive_hostMem (s : State) (q : Nat) (f : QLive → QLive) : (s.updLive q f).hostMem = s.hostMem := rfl
@[simp] theorem State.updLive_hostUp (s : State) (q : Nat) (f : QLive → QLive) : (s.updLive q f).hostUp = s.hostUp := rfl
@[simp] theorem State.updLive_pctlBusy (s : State) (q : Nat) (f : QLive → QLive) : (s.updLive q f).pctlBusy = s.pctlBusy := rfl
@[simp] theorem State.updLive_pctlErr (s : State) (q : Nat) (f : QLive → QLive) : (s.updLive q f).pctlErr = s.pctlErr := rfl
@[simp] theorem State.updLive_pctlHeld (s : State) (q : Nat) (f : QLive → QLive) : (s.updLive q f).pctlHeld = s.pctlHeld := rfl
@[simp] theorem State.updLive_owners (s : State) (q : Nat) (f : QLive → QLive) : (s.updLive q f).owners = s.owners := rfl
@[simp] theorem State.updLive_levQ (s : State) (q : Nat) (f : QLive → QLive) : (s.updLive q f).levQ = s.levQ := rfl
@[simp] theorem State.updLive_levHeld (s : State) (q : Nat) (f : QLive → QLive) : (s.updLive q f).levHeld = s.levHeld := rfl
@[simp] theorem State.updLive_levRes (s : State) (q : Nat) (f : QLive → QLive) : (s.updLive q f).levRes = s.levRes := rfl
@[simp] theorem State.updLive_levReason (s : State) (q : Nat) (f : QLive → QLive) : (s.updLive q f).levReason = s.levReason := rfl
@[simp] theorem State.updLive_levNamed (s : State) (q : Nat) (f : QLive → QLive) : (s.updLive q f).levNamed = s.levNamed := rfl
@[simp] theorem State.updLive_levExcess (s : State) (q : Nat) (f : QLive → QLive) : (s.updLive q f).levExcess = s.levExcess := rfl
@[simp] theorem State.updLive_levSeq (s : State) (q : Nat) (f : QLive → QLive) : (s.updLive q f).levSeq = s.levSeq := rfl
@[simp] theorem State.updLive_tdlk (s : State) (q : Nat) (f : QLive → QLive) : (s.updLive q f).tdlk = s.tdlk := rfl
@[simp] theorem State.updLive_ports (s : State) (q : Nat) (f : QLive → QLive) : (s.updLive q f).ports = s.ports := rfl
@[simp] theorem State.updLive_t2 (s : State) (q : Nat) (f : QLive → QLive) : (s.updLive q f).t2 = s.t2 := rfl
@[simp] theorem State.updLive_islands (s : State) (q : Nat) (f : QLive → QLive) : (s.updLive q f).islands = s.islands := rfl
@[simp] theorem State.updLive_dram (s : State) (q : Nat) (f : QLive → QLive) : (s.updLive q f).dram = s.dram := rfl
@[simp] theorem State.updLive_fab (s : State) (q : Nat) (f : QLive → QLive) : (s.updLive q f).fab = s.fab := rfl
@[simp] theorem State.updLive_passed (s : State) (q : Nat) (f : QLive → QLive) : (s.updLive q f).passed = s.passed := rfl
@[simp] theorem State.updLive_presets (s : State) (q : Nat) (f : QLive → QLive) : (s.updLive q f).presets = s.presets := rfl
@[simp] theorem State.updLive_brkArmed (s : State) (q : Nat) (f : QLive → QLive) : (s.updLive q f).brkArmed = s.brkArmed := rfl
@[simp] theorem State.updLive_inReset (s : State) (q : Nat) (f : QLive → QLive) : (s.updLive q f).inReset = s.inReset := rfl
@[simp] theorem State.updLive_identity (s : State) (q : Nat) (f : QLive → QLive) : (s.updLive q f).identity = s.identity := rfl
@[simp] theorem State.updLive_certificate (s : State) (q : Nat) (f : QLive → QLive) : (s.updLive q f).certificate = s.certificate := rfl
@[simp] theorem State.updLive_loadEnd (s : State) (q : Nat) (f : QLive → QLive) : (s.updLive q f).loadEnd = s.loadEnd := rfl

/-! `updOwner` writes owners alone. -/

@[simp] theorem State.updOwner_agenda (s : State) (o : Nat) (f : OEntry → OEntry) : (s.updOwner o f).agenda = s.agenda := rfl
@[simp] theorem State.updOwner_cur (s : State) (o : Nat) (f : OEntry → OEntry) : (s.updOwner o f).cur = s.cur := rfl
@[simp] theorem State.updOwner_curFep (s : State) (o : Nat) (f : OEntry → OEntry) : (s.updOwner o f).curFep = s.curFep := rfl
@[simp] theorem State.updOwner_fresh (s : State) (o : Nat) (f : OEntry → OEntry) : (s.updOwner o f).fresh = s.fresh := rfl
@[simp] theorem State.updOwner_nextId (s : State) (o : Nat) (f : OEntry → OEntry) : (s.updOwner o f).nextId = s.nextId := rfl
@[simp] theorem State.updOwner_tick (s : State) (o : Nat) (f : OEntry → OEntry) : (s.updOwner o f).tick = s.tick := rfl
@[simp] theorem State.updOwner_cores (s : State) (o : Nat) (f : OEntry → OEntry) : (s.updOwner o f).cores = s.cores := rfl
@[simp] theorem State.updOwner_clusters (s : State) (o : Nat) (f : OEntry → OEntry) : (s.updOwner o f).clusters = s.clusters := rfl
@[simp] theorem State.updOwner_terps (s : State) (o : Nat) (f : OEntry → OEntry) : (s.updOwner o f).terps = s.terps := rfl
@[simp] theorem State.updOwner_feps (s : State) (o : Nat) (f : OEntry → OEntry) : (s.updOwner o f).feps = s.feps := rfl
@[simp] theorem State.updOwner_mem (s : State) (o : Nat) (f : OEntry → OEntry) : (s.updOwner o f).mem = s.mem := rfl
@[simp] theorem State.updOwner_poison (s : State) (o : Nat) (f : OEntry → OEntry) : (s.updOwner o f).poison = s.poison := rfl
@[simp] theorem State.updOwner_vers (s : State) (o : Nat) (f : OEntry → OEntry) : (s.updOwner o f).vers = s.vers := rfl
@[simp] theorem State.updOwner_pool (s : State) (o : Nat) (f : OEntry → OEntry) : (s.updOwner o f).pool = s.pool := rfl
@[simp] theorem State.updOwner_tide (s : State) (o : Nat) (f : OEntry → OEntry) : (s.updOwner o f).tide = s.tide := rfl
@[simp] theorem State.updOwner_cmds (s : State) (o : Nat) (f : OEntry → OEntry) : (s.updOwner o f).cmds = s.cmds := rfl
@[simp] theorem State.updOwner_objs (s : State) (o : Nat) (f : OEntry → OEntry) : (s.updOwner o f).objs = s.objs := rfl
@[simp] theorem State.updOwner_regions (s : State) (o : Nat) (f : OEntry → OEntry) : (s.updOwner o f).regions = s.regions := rfl
@[simp] theorem State.updOwner_saved (s : State) (o : Nat) (f : OEntry → OEntry) : (s.updOwner o f).saved = s.saved := rfl
@[simp] theorem State.updOwner_qlive (s : State) (o : Nat) (f : OEntry → OEntry) : (s.updOwner o f).qlive = s.qlive := rfl
@[simp] theorem State.updOwner_tlb (s : State) (o : Nat) (f : OEntry → OEntry) : (s.updOwner o f).tlb = s.tlb := rfl
@[simp] theorem State.updOwner_invals (s : State) (o : Nat) (f : OEntry → OEntry) : (s.updOwner o f).invals = s.invals := rfl
@[simp] theorem State.updOwner_moves (s : State) (o : Nat) (f : OEntry → OEntry) : (s.updOwner o f).moves = s.moves := rfl
@[simp] theorem State.updOwner_frames (s : State) (o : Nat) (f : OEntry → OEntry) : (s.updOwner o f).frames = s.frames := rfl
@[simp] theorem State.updOwner_cold (s : State) (o : Nat) (f : OEntry → OEntry) : (s.updOwner o f).cold = s.cold := rfl
@[simp] theorem State.updOwner_scanAt (s : State) (o : Nat) (f : OEntry → OEntry) : (s.updOwner o f).scanAt = s.scanAt := rfl
@[simp] theorem State.updOwner_qgbase (s : State) (o : Nat) (f : OEntry → OEntry) : (s.updOwner o f).qgbase = s.qgbase := rfl
@[simp] theorem State.updOwner_qpbase (s : State) (o : Nat) (f : OEntry → OEntry) : (s.updOwner o f).qpbase = s.qpbase := rfl
@[simp] theorem State.updOwner_qdbase (s : State) (o : Nat) (f : OEntry → OEntry) : (s.updOwner o f).qdbase = s.qdbase := rfl
@[simp] theorem State.updOwner_ptbase (s : State) (o : Nat) (f : OEntry → OEntry) : (s.updOwner o f).ptbase = s.ptbase := rfl
@[simp] theorem State.updOwner_lrtbase (s : State) (o : Nat) (f : OEntry → OEntry) : (s.updOwner o f).lrtbase = s.lrtbase := rfl
@[simp] theorem State.updOwner_lrsw (s : State) (o : Nat) (f : OEntry → OEntry) : (s.updOwner o f).lrsw = s.lrsw := rfl
@[simp] theorem State.updOwner_lrswWait (s : State) (o : Nat) (f : OEntry → OEntry) : (s.updOwner o f).lrswWait = s.lrswWait := rfl
@[simp] theorem State.updOwner_fwd (s : State) (o : Nat) (f : OEntry → OEntry) : (s.updOwner o f).fwd = s.fwd := rfl
@[simp] theorem State.updOwner_arbfloor (s : State) (o : Nat) (f : OEntry → OEntry) : (s.updOwner o f).arbfloor = s.arbfloor := rfl
@[simp] theorem State.updOwner_envcnt (s : State) (o : Nat) (f : OEntry → OEntry) : (s.updOwner o f).envcnt = s.envcnt := rfl
@[simp] theorem State.updOwner_arbNo (s : State) (o : Nat) (f : OEntry → OEntry) : (s.updOwner o f).arbNo = s.arbNo := rfl
@[simp] theorem State.updOwner_arbAt (s : State) (o : Nat) (f : OEntry → OEntry) : (s.updOwner o f).arbAt = s.arbAt := rfl
@[simp] theorem State.updOwner_nringBase (s : State) (o : Nat) (f : OEntry → OEntry) : (s.updOwner o f).nringBase = s.nringBase := rfl
@[simp] theorem State.updOwner_nringLog2 (s : State) (o : Nat) (f : OEntry → OEntry) : (s.updOwner o f).nringLog2 = s.nringLog2 := rfl
@[simp] theorem State.updOwner_nrCons (s : State) (o : Nat) (f : OEntry → OEntry) : (s.updOwner o f).nrCons = s.nrCons := rfl
@[simp] theorem State.updOwner_nrProd (s : State) (o : Nat) (f : OEntry → OEntry) : (s.updOwner o f).nrProd = s.nrProd := rfl
@[simp] theorem State.updOwner_nrWritten (s : State) (o : Nat) (f : OEntry → OEntry) : (s.updOwner o f).nrWritten = s.nrWritten := rfl
@[simp] theorem State.updOwner_notices (s : State) (o : Nat) (f : OEntry → OEntry) : (s.updOwner o f).notices = s.notices := rfl
@[simp] theorem State.updOwner_hostMem (s : State) (o : Nat) (f : OEntry → OEntry) : (s.updOwner o f).hostMem = s.hostMem := rfl
@[simp] theorem State.updOwner_hostUp (s : State) (o : Nat) (f : OEntry → OEntry) : (s.updOwner o f).hostUp = s.hostUp := rfl
@[simp] theorem State.updOwner_pctlBusy (s : State) (o : Nat) (f : OEntry → OEntry) : (s.updOwner o f).pctlBusy = s.pctlBusy := rfl
@[simp] theorem State.updOwner_pctlErr (s : State) (o : Nat) (f : OEntry → OEntry) : (s.updOwner o f).pctlErr = s.pctlErr := rfl
@[simp] theorem State.updOwner_pctlHeld (s : State) (o : Nat) (f : OEntry → OEntry) : (s.updOwner o f).pctlHeld = s.pctlHeld := rfl
@[simp] theorem State.updOwner_levQ (s : State) (o : Nat) (f : OEntry → OEntry) : (s.updOwner o f).levQ = s.levQ := rfl
@[simp] theorem State.updOwner_levHeld (s : State) (o : Nat) (f : OEntry → OEntry) : (s.updOwner o f).levHeld = s.levHeld := rfl
@[simp] theorem State.updOwner_levRes (s : State) (o : Nat) (f : OEntry → OEntry) : (s.updOwner o f).levRes = s.levRes := rfl
@[simp] theorem State.updOwner_levReason (s : State) (o : Nat) (f : OEntry → OEntry) : (s.updOwner o f).levReason = s.levReason := rfl
@[simp] theorem State.updOwner_levNamed (s : State) (o : Nat) (f : OEntry → OEntry) : (s.updOwner o f).levNamed = s.levNamed := rfl
@[simp] theorem State.updOwner_levExcess (s : State) (o : Nat) (f : OEntry → OEntry) : (s.updOwner o f).levExcess = s.levExcess := rfl
@[simp] theorem State.updOwner_levSeq (s : State) (o : Nat) (f : OEntry → OEntry) : (s.updOwner o f).levSeq = s.levSeq := rfl
@[simp] theorem State.updOwner_tdlk (s : State) (o : Nat) (f : OEntry → OEntry) : (s.updOwner o f).tdlk = s.tdlk := rfl
@[simp] theorem State.updOwner_ports (s : State) (o : Nat) (f : OEntry → OEntry) : (s.updOwner o f).ports = s.ports := rfl
@[simp] theorem State.updOwner_t2 (s : State) (o : Nat) (f : OEntry → OEntry) : (s.updOwner o f).t2 = s.t2 := rfl
@[simp] theorem State.updOwner_islands (s : State) (o : Nat) (f : OEntry → OEntry) : (s.updOwner o f).islands = s.islands := rfl
@[simp] theorem State.updOwner_dram (s : State) (o : Nat) (f : OEntry → OEntry) : (s.updOwner o f).dram = s.dram := rfl
@[simp] theorem State.updOwner_fab (s : State) (o : Nat) (f : OEntry → OEntry) : (s.updOwner o f).fab = s.fab := rfl
@[simp] theorem State.updOwner_passed (s : State) (o : Nat) (f : OEntry → OEntry) : (s.updOwner o f).passed = s.passed := rfl
@[simp] theorem State.updOwner_presets (s : State) (o : Nat) (f : OEntry → OEntry) : (s.updOwner o f).presets = s.presets := rfl
@[simp] theorem State.updOwner_brkArmed (s : State) (o : Nat) (f : OEntry → OEntry) : (s.updOwner o f).brkArmed = s.brkArmed := rfl
@[simp] theorem State.updOwner_inReset (s : State) (o : Nat) (f : OEntry → OEntry) : (s.updOwner o f).inReset = s.inReset := rfl
@[simp] theorem State.updOwner_identity (s : State) (o : Nat) (f : OEntry → OEntry) : (s.updOwner o f).identity = s.identity := rfl
@[simp] theorem State.updOwner_certificate (s : State) (o : Nat) (f : OEntry → OEntry) : (s.updOwner o f).certificate = s.certificate := rfl
@[simp] theorem State.updOwner_loadEnd (s : State) (o : Nat) (f : OEntry → OEntry) : (s.updOwner o f).loadEnd = s.loadEnd := rfl

/-! `writeByte` writes mem alone. -/

@[simp] theorem State.writeByte_agenda (s : State) (pa : Nat) (b : Byte) : (s.writeByte pa b).agenda = s.agenda := rfl
@[simp] theorem State.writeByte_cur (s : State) (pa : Nat) (b : Byte) : (s.writeByte pa b).cur = s.cur := rfl
@[simp] theorem State.writeByte_curFep (s : State) (pa : Nat) (b : Byte) : (s.writeByte pa b).curFep = s.curFep := rfl
@[simp] theorem State.writeByte_fresh (s : State) (pa : Nat) (b : Byte) : (s.writeByte pa b).fresh = s.fresh := rfl
@[simp] theorem State.writeByte_nextId (s : State) (pa : Nat) (b : Byte) : (s.writeByte pa b).nextId = s.nextId := rfl
@[simp] theorem State.writeByte_tick (s : State) (pa : Nat) (b : Byte) : (s.writeByte pa b).tick = s.tick := rfl
@[simp] theorem State.writeByte_cores (s : State) (pa : Nat) (b : Byte) : (s.writeByte pa b).cores = s.cores := rfl
@[simp] theorem State.writeByte_clusters (s : State) (pa : Nat) (b : Byte) : (s.writeByte pa b).clusters = s.clusters := rfl
@[simp] theorem State.writeByte_terps (s : State) (pa : Nat) (b : Byte) : (s.writeByte pa b).terps = s.terps := rfl
@[simp] theorem State.writeByte_feps (s : State) (pa : Nat) (b : Byte) : (s.writeByte pa b).feps = s.feps := rfl
@[simp] theorem State.writeByte_poison (s : State) (pa : Nat) (b : Byte) : (s.writeByte pa b).poison = s.poison := rfl
@[simp] theorem State.writeByte_vers (s : State) (pa : Nat) (b : Byte) : (s.writeByte pa b).vers = s.vers := rfl
@[simp] theorem State.writeByte_pool (s : State) (pa : Nat) (b : Byte) : (s.writeByte pa b).pool = s.pool := rfl
@[simp] theorem State.writeByte_tide (s : State) (pa : Nat) (b : Byte) : (s.writeByte pa b).tide = s.tide := rfl
@[simp] theorem State.writeByte_cmds (s : State) (pa : Nat) (b : Byte) : (s.writeByte pa b).cmds = s.cmds := rfl
@[simp] theorem State.writeByte_objs (s : State) (pa : Nat) (b : Byte) : (s.writeByte pa b).objs = s.objs := rfl
@[simp] theorem State.writeByte_regions (s : State) (pa : Nat) (b : Byte) : (s.writeByte pa b).regions = s.regions := rfl
@[simp] theorem State.writeByte_saved (s : State) (pa : Nat) (b : Byte) : (s.writeByte pa b).saved = s.saved := rfl
@[simp] theorem State.writeByte_qlive (s : State) (pa : Nat) (b : Byte) : (s.writeByte pa b).qlive = s.qlive := rfl
@[simp] theorem State.writeByte_tlb (s : State) (pa : Nat) (b : Byte) : (s.writeByte pa b).tlb = s.tlb := rfl
@[simp] theorem State.writeByte_invals (s : State) (pa : Nat) (b : Byte) : (s.writeByte pa b).invals = s.invals := rfl
@[simp] theorem State.writeByte_moves (s : State) (pa : Nat) (b : Byte) : (s.writeByte pa b).moves = s.moves := rfl
@[simp] theorem State.writeByte_frames (s : State) (pa : Nat) (b : Byte) : (s.writeByte pa b).frames = s.frames := rfl
@[simp] theorem State.writeByte_cold (s : State) (pa : Nat) (b : Byte) : (s.writeByte pa b).cold = s.cold := rfl
@[simp] theorem State.writeByte_scanAt (s : State) (pa : Nat) (b : Byte) : (s.writeByte pa b).scanAt = s.scanAt := rfl
@[simp] theorem State.writeByte_qgbase (s : State) (pa : Nat) (b : Byte) : (s.writeByte pa b).qgbase = s.qgbase := rfl
@[simp] theorem State.writeByte_qpbase (s : State) (pa : Nat) (b : Byte) : (s.writeByte pa b).qpbase = s.qpbase := rfl
@[simp] theorem State.writeByte_qdbase (s : State) (pa : Nat) (b : Byte) : (s.writeByte pa b).qdbase = s.qdbase := rfl
@[simp] theorem State.writeByte_ptbase (s : State) (pa : Nat) (b : Byte) : (s.writeByte pa b).ptbase = s.ptbase := rfl
@[simp] theorem State.writeByte_lrtbase (s : State) (pa : Nat) (b : Byte) : (s.writeByte pa b).lrtbase = s.lrtbase := rfl
@[simp] theorem State.writeByte_lrsw (s : State) (pa : Nat) (b : Byte) : (s.writeByte pa b).lrsw = s.lrsw := rfl
@[simp] theorem State.writeByte_lrswWait (s : State) (pa : Nat) (b : Byte) : (s.writeByte pa b).lrswWait = s.lrswWait := rfl
@[simp] theorem State.writeByte_fwd (s : State) (pa : Nat) (b : Byte) : (s.writeByte pa b).fwd = s.fwd := rfl
@[simp] theorem State.writeByte_arbfloor (s : State) (pa : Nat) (b : Byte) : (s.writeByte pa b).arbfloor = s.arbfloor := rfl
@[simp] theorem State.writeByte_envcnt (s : State) (pa : Nat) (b : Byte) : (s.writeByte pa b).envcnt = s.envcnt := rfl
@[simp] theorem State.writeByte_arbNo (s : State) (pa : Nat) (b : Byte) : (s.writeByte pa b).arbNo = s.arbNo := rfl
@[simp] theorem State.writeByte_arbAt (s : State) (pa : Nat) (b : Byte) : (s.writeByte pa b).arbAt = s.arbAt := rfl
@[simp] theorem State.writeByte_nringBase (s : State) (pa : Nat) (b : Byte) : (s.writeByte pa b).nringBase = s.nringBase := rfl
@[simp] theorem State.writeByte_nringLog2 (s : State) (pa : Nat) (b : Byte) : (s.writeByte pa b).nringLog2 = s.nringLog2 := rfl
@[simp] theorem State.writeByte_nrCons (s : State) (pa : Nat) (b : Byte) : (s.writeByte pa b).nrCons = s.nrCons := rfl
@[simp] theorem State.writeByte_nrProd (s : State) (pa : Nat) (b : Byte) : (s.writeByte pa b).nrProd = s.nrProd := rfl
@[simp] theorem State.writeByte_nrWritten (s : State) (pa : Nat) (b : Byte) : (s.writeByte pa b).nrWritten = s.nrWritten := rfl
@[simp] theorem State.writeByte_notices (s : State) (pa : Nat) (b : Byte) : (s.writeByte pa b).notices = s.notices := rfl
@[simp] theorem State.writeByte_hostMem (s : State) (pa : Nat) (b : Byte) : (s.writeByte pa b).hostMem = s.hostMem := rfl
@[simp] theorem State.writeByte_hostUp (s : State) (pa : Nat) (b : Byte) : (s.writeByte pa b).hostUp = s.hostUp := rfl
@[simp] theorem State.writeByte_pctlBusy (s : State) (pa : Nat) (b : Byte) : (s.writeByte pa b).pctlBusy = s.pctlBusy := rfl
@[simp] theorem State.writeByte_pctlErr (s : State) (pa : Nat) (b : Byte) : (s.writeByte pa b).pctlErr = s.pctlErr := rfl
@[simp] theorem State.writeByte_pctlHeld (s : State) (pa : Nat) (b : Byte) : (s.writeByte pa b).pctlHeld = s.pctlHeld := rfl
@[simp] theorem State.writeByte_owners (s : State) (pa : Nat) (b : Byte) : (s.writeByte pa b).owners = s.owners := rfl
@[simp] theorem State.writeByte_levQ (s : State) (pa : Nat) (b : Byte) : (s.writeByte pa b).levQ = s.levQ := rfl
@[simp] theorem State.writeByte_levHeld (s : State) (pa : Nat) (b : Byte) : (s.writeByte pa b).levHeld = s.levHeld := rfl
@[simp] theorem State.writeByte_levRes (s : State) (pa : Nat) (b : Byte) : (s.writeByte pa b).levRes = s.levRes := rfl
@[simp] theorem State.writeByte_levReason (s : State) (pa : Nat) (b : Byte) : (s.writeByte pa b).levReason = s.levReason := rfl
@[simp] theorem State.writeByte_levNamed (s : State) (pa : Nat) (b : Byte) : (s.writeByte pa b).levNamed = s.levNamed := rfl
@[simp] theorem State.writeByte_levExcess (s : State) (pa : Nat) (b : Byte) : (s.writeByte pa b).levExcess = s.levExcess := rfl
@[simp] theorem State.writeByte_levSeq (s : State) (pa : Nat) (b : Byte) : (s.writeByte pa b).levSeq = s.levSeq := rfl
@[simp] theorem State.writeByte_tdlk (s : State) (pa : Nat) (b : Byte) : (s.writeByte pa b).tdlk = s.tdlk := rfl
@[simp] theorem State.writeByte_ports (s : State) (pa : Nat) (b : Byte) : (s.writeByte pa b).ports = s.ports := rfl
@[simp] theorem State.writeByte_t2 (s : State) (pa : Nat) (b : Byte) : (s.writeByte pa b).t2 = s.t2 := rfl
@[simp] theorem State.writeByte_islands (s : State) (pa : Nat) (b : Byte) : (s.writeByte pa b).islands = s.islands := rfl
@[simp] theorem State.writeByte_dram (s : State) (pa : Nat) (b : Byte) : (s.writeByte pa b).dram = s.dram := rfl
@[simp] theorem State.writeByte_fab (s : State) (pa : Nat) (b : Byte) : (s.writeByte pa b).fab = s.fab := rfl
@[simp] theorem State.writeByte_passed (s : State) (pa : Nat) (b : Byte) : (s.writeByte pa b).passed = s.passed := rfl
@[simp] theorem State.writeByte_presets (s : State) (pa : Nat) (b : Byte) : (s.writeByte pa b).presets = s.presets := rfl
@[simp] theorem State.writeByte_brkArmed (s : State) (pa : Nat) (b : Byte) : (s.writeByte pa b).brkArmed = s.brkArmed := rfl
@[simp] theorem State.writeByte_inReset (s : State) (pa : Nat) (b : Byte) : (s.writeByte pa b).inReset = s.inReset := rfl
@[simp] theorem State.writeByte_identity (s : State) (pa : Nat) (b : Byte) : (s.writeByte pa b).identity = s.identity := rfl
@[simp] theorem State.writeByte_certificate (s : State) (pa : Nat) (b : Byte) : (s.writeByte pa b).certificate = s.certificate := rfl
@[simp] theorem State.writeByte_loadEnd (s : State) (pa : Nat) (b : Byte) : (s.writeByte pa b).loadEnd = s.loadEnd := rfl

/-! `zeroRange` writes mem alone. -/

@[simp] theorem State.zeroRange_agenda (s : State) (lo n : Nat) : (s.zeroRange lo n).agenda = s.agenda := rfl
@[simp] theorem State.zeroRange_cur (s : State) (lo n : Nat) : (s.zeroRange lo n).cur = s.cur := rfl
@[simp] theorem State.zeroRange_curFep (s : State) (lo n : Nat) : (s.zeroRange lo n).curFep = s.curFep := rfl
@[simp] theorem State.zeroRange_fresh (s : State) (lo n : Nat) : (s.zeroRange lo n).fresh = s.fresh := rfl
@[simp] theorem State.zeroRange_nextId (s : State) (lo n : Nat) : (s.zeroRange lo n).nextId = s.nextId := rfl
@[simp] theorem State.zeroRange_tick (s : State) (lo n : Nat) : (s.zeroRange lo n).tick = s.tick := rfl
@[simp] theorem State.zeroRange_cores (s : State) (lo n : Nat) : (s.zeroRange lo n).cores = s.cores := rfl
@[simp] theorem State.zeroRange_clusters (s : State) (lo n : Nat) : (s.zeroRange lo n).clusters = s.clusters := rfl
@[simp] theorem State.zeroRange_terps (s : State) (lo n : Nat) : (s.zeroRange lo n).terps = s.terps := rfl
@[simp] theorem State.zeroRange_feps (s : State) (lo n : Nat) : (s.zeroRange lo n).feps = s.feps := rfl
@[simp] theorem State.zeroRange_poison (s : State) (lo n : Nat) : (s.zeroRange lo n).poison = s.poison := rfl
@[simp] theorem State.zeroRange_vers (s : State) (lo n : Nat) : (s.zeroRange lo n).vers = s.vers := rfl
@[simp] theorem State.zeroRange_pool (s : State) (lo n : Nat) : (s.zeroRange lo n).pool = s.pool := rfl
@[simp] theorem State.zeroRange_tide (s : State) (lo n : Nat) : (s.zeroRange lo n).tide = s.tide := rfl
@[simp] theorem State.zeroRange_cmds (s : State) (lo n : Nat) : (s.zeroRange lo n).cmds = s.cmds := rfl
@[simp] theorem State.zeroRange_objs (s : State) (lo n : Nat) : (s.zeroRange lo n).objs = s.objs := rfl
@[simp] theorem State.zeroRange_regions (s : State) (lo n : Nat) : (s.zeroRange lo n).regions = s.regions := rfl
@[simp] theorem State.zeroRange_saved (s : State) (lo n : Nat) : (s.zeroRange lo n).saved = s.saved := rfl
@[simp] theorem State.zeroRange_qlive (s : State) (lo n : Nat) : (s.zeroRange lo n).qlive = s.qlive := rfl
@[simp] theorem State.zeroRange_tlb (s : State) (lo n : Nat) : (s.zeroRange lo n).tlb = s.tlb := rfl
@[simp] theorem State.zeroRange_invals (s : State) (lo n : Nat) : (s.zeroRange lo n).invals = s.invals := rfl
@[simp] theorem State.zeroRange_moves (s : State) (lo n : Nat) : (s.zeroRange lo n).moves = s.moves := rfl
@[simp] theorem State.zeroRange_frames (s : State) (lo n : Nat) : (s.zeroRange lo n).frames = s.frames := rfl
@[simp] theorem State.zeroRange_cold (s : State) (lo n : Nat) : (s.zeroRange lo n).cold = s.cold := rfl
@[simp] theorem State.zeroRange_scanAt (s : State) (lo n : Nat) : (s.zeroRange lo n).scanAt = s.scanAt := rfl
@[simp] theorem State.zeroRange_qgbase (s : State) (lo n : Nat) : (s.zeroRange lo n).qgbase = s.qgbase := rfl
@[simp] theorem State.zeroRange_qpbase (s : State) (lo n : Nat) : (s.zeroRange lo n).qpbase = s.qpbase := rfl
@[simp] theorem State.zeroRange_qdbase (s : State) (lo n : Nat) : (s.zeroRange lo n).qdbase = s.qdbase := rfl
@[simp] theorem State.zeroRange_ptbase (s : State) (lo n : Nat) : (s.zeroRange lo n).ptbase = s.ptbase := rfl
@[simp] theorem State.zeroRange_lrtbase (s : State) (lo n : Nat) : (s.zeroRange lo n).lrtbase = s.lrtbase := rfl
@[simp] theorem State.zeroRange_lrsw (s : State) (lo n : Nat) : (s.zeroRange lo n).lrsw = s.lrsw := rfl
@[simp] theorem State.zeroRange_lrswWait (s : State) (lo n : Nat) : (s.zeroRange lo n).lrswWait = s.lrswWait := rfl
@[simp] theorem State.zeroRange_fwd (s : State) (lo n : Nat) : (s.zeroRange lo n).fwd = s.fwd := rfl
@[simp] theorem State.zeroRange_arbfloor (s : State) (lo n : Nat) : (s.zeroRange lo n).arbfloor = s.arbfloor := rfl
@[simp] theorem State.zeroRange_envcnt (s : State) (lo n : Nat) : (s.zeroRange lo n).envcnt = s.envcnt := rfl
@[simp] theorem State.zeroRange_arbNo (s : State) (lo n : Nat) : (s.zeroRange lo n).arbNo = s.arbNo := rfl
@[simp] theorem State.zeroRange_arbAt (s : State) (lo n : Nat) : (s.zeroRange lo n).arbAt = s.arbAt := rfl
@[simp] theorem State.zeroRange_nringBase (s : State) (lo n : Nat) : (s.zeroRange lo n).nringBase = s.nringBase := rfl
@[simp] theorem State.zeroRange_nringLog2 (s : State) (lo n : Nat) : (s.zeroRange lo n).nringLog2 = s.nringLog2 := rfl
@[simp] theorem State.zeroRange_nrCons (s : State) (lo n : Nat) : (s.zeroRange lo n).nrCons = s.nrCons := rfl
@[simp] theorem State.zeroRange_nrProd (s : State) (lo n : Nat) : (s.zeroRange lo n).nrProd = s.nrProd := rfl
@[simp] theorem State.zeroRange_nrWritten (s : State) (lo n : Nat) : (s.zeroRange lo n).nrWritten = s.nrWritten := rfl
@[simp] theorem State.zeroRange_notices (s : State) (lo n : Nat) : (s.zeroRange lo n).notices = s.notices := rfl
@[simp] theorem State.zeroRange_hostMem (s : State) (lo n : Nat) : (s.zeroRange lo n).hostMem = s.hostMem := rfl
@[simp] theorem State.zeroRange_hostUp (s : State) (lo n : Nat) : (s.zeroRange lo n).hostUp = s.hostUp := rfl
@[simp] theorem State.zeroRange_pctlBusy (s : State) (lo n : Nat) : (s.zeroRange lo n).pctlBusy = s.pctlBusy := rfl
@[simp] theorem State.zeroRange_pctlErr (s : State) (lo n : Nat) : (s.zeroRange lo n).pctlErr = s.pctlErr := rfl
@[simp] theorem State.zeroRange_pctlHeld (s : State) (lo n : Nat) : (s.zeroRange lo n).pctlHeld = s.pctlHeld := rfl
@[simp] theorem State.zeroRange_owners (s : State) (lo n : Nat) : (s.zeroRange lo n).owners = s.owners := rfl
@[simp] theorem State.zeroRange_levQ (s : State) (lo n : Nat) : (s.zeroRange lo n).levQ = s.levQ := rfl
@[simp] theorem State.zeroRange_levHeld (s : State) (lo n : Nat) : (s.zeroRange lo n).levHeld = s.levHeld := rfl
@[simp] theorem State.zeroRange_levRes (s : State) (lo n : Nat) : (s.zeroRange lo n).levRes = s.levRes := rfl
@[simp] theorem State.zeroRange_levReason (s : State) (lo n : Nat) : (s.zeroRange lo n).levReason = s.levReason := rfl
@[simp] theorem State.zeroRange_levNamed (s : State) (lo n : Nat) : (s.zeroRange lo n).levNamed = s.levNamed := rfl
@[simp] theorem State.zeroRange_levExcess (s : State) (lo n : Nat) : (s.zeroRange lo n).levExcess = s.levExcess := rfl
@[simp] theorem State.zeroRange_levSeq (s : State) (lo n : Nat) : (s.zeroRange lo n).levSeq = s.levSeq := rfl
@[simp] theorem State.zeroRange_tdlk (s : State) (lo n : Nat) : (s.zeroRange lo n).tdlk = s.tdlk := rfl
@[simp] theorem State.zeroRange_ports (s : State) (lo n : Nat) : (s.zeroRange lo n).ports = s.ports := rfl
@[simp] theorem State.zeroRange_t2 (s : State) (lo n : Nat) : (s.zeroRange lo n).t2 = s.t2 := rfl
@[simp] theorem State.zeroRange_islands (s : State) (lo n : Nat) : (s.zeroRange lo n).islands = s.islands := rfl
@[simp] theorem State.zeroRange_dram (s : State) (lo n : Nat) : (s.zeroRange lo n).dram = s.dram := rfl
@[simp] theorem State.zeroRange_fab (s : State) (lo n : Nat) : (s.zeroRange lo n).fab = s.fab := rfl
@[simp] theorem State.zeroRange_passed (s : State) (lo n : Nat) : (s.zeroRange lo n).passed = s.passed := rfl
@[simp] theorem State.zeroRange_presets (s : State) (lo n : Nat) : (s.zeroRange lo n).presets = s.presets := rfl
@[simp] theorem State.zeroRange_brkArmed (s : State) (lo n : Nat) : (s.zeroRange lo n).brkArmed = s.brkArmed := rfl
@[simp] theorem State.zeroRange_inReset (s : State) (lo n : Nat) : (s.zeroRange lo n).inReset = s.inReset := rfl
@[simp] theorem State.zeroRange_identity (s : State) (lo n : Nat) : (s.zeroRange lo n).identity = s.identity := rfl
@[simp] theorem State.zeroRange_certificate (s : State) (lo n : Nat) : (s.zeroRange lo n).certificate = s.certificate := rfl
@[simp] theorem State.zeroRange_loadEnd (s : State) (lo n : Nat) : (s.zeroRange lo n).loadEnd = s.loadEnd := rfl

/-! `bump` writes fresh alone. -/

@[simp] theorem State.bump_agenda (s : State) : s.bump.agenda = s.agenda := rfl
@[simp] theorem State.bump_cur (s : State) : s.bump.cur = s.cur := rfl
@[simp] theorem State.bump_curFep (s : State) : s.bump.curFep = s.curFep := rfl
@[simp] theorem State.bump_nextId (s : State) : s.bump.nextId = s.nextId := rfl
@[simp] theorem State.bump_tick (s : State) : s.bump.tick = s.tick := rfl
@[simp] theorem State.bump_cores (s : State) : s.bump.cores = s.cores := rfl
@[simp] theorem State.bump_clusters (s : State) : s.bump.clusters = s.clusters := rfl
@[simp] theorem State.bump_terps (s : State) : s.bump.terps = s.terps := rfl
@[simp] theorem State.bump_feps (s : State) : s.bump.feps = s.feps := rfl
@[simp] theorem State.bump_mem (s : State) : s.bump.mem = s.mem := rfl
@[simp] theorem State.bump_poison (s : State) : s.bump.poison = s.poison := rfl
@[simp] theorem State.bump_vers (s : State) : s.bump.vers = s.vers := rfl
@[simp] theorem State.bump_pool (s : State) : s.bump.pool = s.pool := rfl
@[simp] theorem State.bump_tide (s : State) : s.bump.tide = s.tide := rfl
@[simp] theorem State.bump_cmds (s : State) : s.bump.cmds = s.cmds := rfl
@[simp] theorem State.bump_objs (s : State) : s.bump.objs = s.objs := rfl
@[simp] theorem State.bump_regions (s : State) : s.bump.regions = s.regions := rfl
@[simp] theorem State.bump_saved (s : State) : s.bump.saved = s.saved := rfl
@[simp] theorem State.bump_qlive (s : State) : s.bump.qlive = s.qlive := rfl
@[simp] theorem State.bump_tlb (s : State) : s.bump.tlb = s.tlb := rfl
@[simp] theorem State.bump_invals (s : State) : s.bump.invals = s.invals := rfl
@[simp] theorem State.bump_moves (s : State) : s.bump.moves = s.moves := rfl
@[simp] theorem State.bump_frames (s : State) : s.bump.frames = s.frames := rfl
@[simp] theorem State.bump_cold (s : State) : s.bump.cold = s.cold := rfl
@[simp] theorem State.bump_scanAt (s : State) : s.bump.scanAt = s.scanAt := rfl
@[simp] theorem State.bump_qgbase (s : State) : s.bump.qgbase = s.qgbase := rfl
@[simp] theorem State.bump_qpbase (s : State) : s.bump.qpbase = s.qpbase := rfl
@[simp] theorem State.bump_qdbase (s : State) : s.bump.qdbase = s.qdbase := rfl
@[simp] theorem State.bump_ptbase (s : State) : s.bump.ptbase = s.ptbase := rfl
@[simp] theorem State.bump_lrtbase (s : State) : s.bump.lrtbase = s.lrtbase := rfl
@[simp] theorem State.bump_lrsw (s : State) : s.bump.lrsw = s.lrsw := rfl
@[simp] theorem State.bump_lrswWait (s : State) : s.bump.lrswWait = s.lrswWait := rfl
@[simp] theorem State.bump_fwd (s : State) : s.bump.fwd = s.fwd := rfl
@[simp] theorem State.bump_arbfloor (s : State) : s.bump.arbfloor = s.arbfloor := rfl
@[simp] theorem State.bump_envcnt (s : State) : s.bump.envcnt = s.envcnt := rfl
@[simp] theorem State.bump_arbNo (s : State) : s.bump.arbNo = s.arbNo := rfl
@[simp] theorem State.bump_arbAt (s : State) : s.bump.arbAt = s.arbAt := rfl
@[simp] theorem State.bump_nringBase (s : State) : s.bump.nringBase = s.nringBase := rfl
@[simp] theorem State.bump_nringLog2 (s : State) : s.bump.nringLog2 = s.nringLog2 := rfl
@[simp] theorem State.bump_nrCons (s : State) : s.bump.nrCons = s.nrCons := rfl
@[simp] theorem State.bump_nrProd (s : State) : s.bump.nrProd = s.nrProd := rfl
@[simp] theorem State.bump_nrWritten (s : State) : s.bump.nrWritten = s.nrWritten := rfl
@[simp] theorem State.bump_notices (s : State) : s.bump.notices = s.notices := rfl
@[simp] theorem State.bump_hostMem (s : State) : s.bump.hostMem = s.hostMem := rfl
@[simp] theorem State.bump_hostUp (s : State) : s.bump.hostUp = s.hostUp := rfl
@[simp] theorem State.bump_pctlBusy (s : State) : s.bump.pctlBusy = s.pctlBusy := rfl
@[simp] theorem State.bump_pctlErr (s : State) : s.bump.pctlErr = s.pctlErr := rfl
@[simp] theorem State.bump_pctlHeld (s : State) : s.bump.pctlHeld = s.pctlHeld := rfl
@[simp] theorem State.bump_owners (s : State) : s.bump.owners = s.owners := rfl
@[simp] theorem State.bump_levQ (s : State) : s.bump.levQ = s.levQ := rfl
@[simp] theorem State.bump_levHeld (s : State) : s.bump.levHeld = s.levHeld := rfl
@[simp] theorem State.bump_levRes (s : State) : s.bump.levRes = s.levRes := rfl
@[simp] theorem State.bump_levReason (s : State) : s.bump.levReason = s.levReason := rfl
@[simp] theorem State.bump_levNamed (s : State) : s.bump.levNamed = s.levNamed := rfl
@[simp] theorem State.bump_levExcess (s : State) : s.bump.levExcess = s.levExcess := rfl
@[simp] theorem State.bump_levSeq (s : State) : s.bump.levSeq = s.levSeq := rfl
@[simp] theorem State.bump_tdlk (s : State) : s.bump.tdlk = s.tdlk := rfl
@[simp] theorem State.bump_ports (s : State) : s.bump.ports = s.ports := rfl
@[simp] theorem State.bump_t2 (s : State) : s.bump.t2 = s.t2 := rfl
@[simp] theorem State.bump_islands (s : State) : s.bump.islands = s.islands := rfl
@[simp] theorem State.bump_dram (s : State) : s.bump.dram = s.dram := rfl
@[simp] theorem State.bump_fab (s : State) : s.bump.fab = s.fab := rfl
@[simp] theorem State.bump_passed (s : State) : s.bump.passed = s.passed := rfl
@[simp] theorem State.bump_presets (s : State) : s.bump.presets = s.presets := rfl
@[simp] theorem State.bump_brkArmed (s : State) : s.bump.brkArmed = s.brkArmed := rfl
@[simp] theorem State.bump_inReset (s : State) : s.bump.inReset = s.inReset := rfl
@[simp] theorem State.bump_identity (s : State) : s.bump.identity = s.identity := rfl
@[simp] theorem State.bump_certificate (s : State) : s.bump.certificate = s.certificate := rfl
@[simp] theorem State.bump_loadEnd (s : State) : s.bump.loadEnd = s.loadEnd := rfl

/-! A bank context of a core, and its sequencers. -/

@[simp] theorem Core.setCtx_activeB (c : Core) (b : Bool) (x : Ctx) : (c.setCtx b x).activeB = c.activeB := by cases b <;> rfl
@[simp] theorem Core.setCtx_sp (c : Core) (b : Bool) (x : Ctx) : (c.setCtx b x).sp = c.sp := by cases b <;> rfl
@[simp] theorem Core.setCtx_spPoison (c : Core) (b : Bool) (x : Ctx) : (c.setCtx b x).spPoison = c.spPoison := by cases b <;> rfl
@[simp] theorem Core.setCtx_bfmt (c : Core) (b : Bool) (x : Ctx) : (c.setCtx b x).bfmt = c.bfmt := by cases b <;> rfl
@[simp] theorem Core.setCtx_cul (c : Core) (b : Bool) (x : Ctx) : (c.setCtx b x).cul = c.cul := by cases b <;> rfl
@[simp] theorem Core.setCtx_sb (c : Core) (b : Bool) (x : Ctx) : (c.setCtx b x).sb = c.sb := by cases b <;> rfl
@[simp] theorem Core.setCtx_inflight (c : Core) (b : Bool) (x : Ctx) : (c.setCtx b x).inflight = c.inflight := by cases b <;> rfl
@[simp] theorem Core.setCtx_deny (c : Core) (b : Bool) (x : Ctx) : (c.setCtx b x).deny = c.deny := by cases b <;> rfl
@[simp] theorem Core.setCtx_isl (c : Core) (b : Bool) (x : Ctx) : (c.setCtx b x).isl = c.isl := by cases b <;> rfl
@[simp] theorem Core.setCtx_cyc (c : Core) (b : Bool) (x : Ctx) : (c.setCtx b x).cyc = c.cyc := by cases b <;> rfl
@[simp] theorem Core.setCtx_swapEnd (c : Core) (b : Bool) (x : Ctx) : (c.setCtx b x).swapEnd = c.swapEnd := by cases b <;> rfl
@[simp] theorem Core.setCtx_frozen (c : Core) (b : Bool) (x : Ctx) : (c.setCtx b x).frozen = c.frozen := by cases b <;> rfl
@[simp] theorem Core.setCtx_freezeLeft (c : Core) (b : Bool) (x : Ctx) : (c.setCtx b x).freezeLeft = c.freezeLeft := by cases b <;> rfl
@[simp] theorem Core.setCtx_migReq (c : Core) (b : Bool) (x : Ctx) : (c.setCtx b x).migReq = c.migReq := by cases b <;> rfl
@[simp] theorem Core.setCtx_excluded (c : Core) (b : Bool) (x : Ctx) : (c.setCtx b x).excluded = c.excluded := by cases b <;> rfl
@[simp] theorem Ctx.setSeq_st (c : Ctx) (st : Stream) (q : Seq) : (c.setSeq st q).st = c.st := by cases st <;> rfl
@[simp] theorem Ctx.setSeq_was (c : Ctx) (st : Stream) (q : Seq) : (c.setSeq st q).was = c.was := by cases st <;> rfl
@[simp] theorem Ctx.setSeq_tok (c : Ctx) (st : Stream) (q : Seq) : (c.setSeq st q).tok = c.tok := by cases st <;> rfl
@[simp] theorem Ctx.setSeq_kme (c : Ctx) (st : Stream) (q : Seq) : (c.setSeq st q).kme = c.kme := by cases st <;> rfl
@[simp] theorem Ctx.setSeq_bq (c : Ctx) (st : Stream) (q : Seq) : (c.setSeq st q).bq = c.bq := by cases st <;> rfl
@[simp] theorem Ctx.setSeq_q (c : Ctx) (st : Stream) (q : Seq) : (c.setSeq st q).q = c.q := by cases st <;> rfl
@[simp] theorem Ctx.setSeq_y (c : Ctx) (st : Stream) (q : Seq) : (c.setSeq st q).y = c.y := by cases st <;> rfl
@[simp] theorem Ctx.setSeq_w (c : Ctx) (st : Stream) (q : Seq) : (c.setSeq st q).w = c.w := by cases st <;> rfl
@[simp] theorem Ctx.setSeq_wPoison (c : Ctx) (st : Stream) (q : Seq) : (c.setSeq st q).wPoison = c.wPoison := by cases st <;> rfl
@[simp] theorem Ctx.setSeq_masks (c : Ctx) (st : Stream) (q : Seq) : (c.setSeq st q).masks = c.masks := by cases st <;> rfl
@[simp] theorem Ctx.setSeq_mPoison (c : Ctx) (st : Stream) (q : Seq) : (c.setSeq st q).mPoison = c.mPoison := by cases st <;> rfl
@[simp] theorem Ctx.setSeq_wf (c : Ctx) (st : Stream) (q : Seq) : (c.setSeq st q).wf = c.wf := by cases st <;> rfl
@[simp] theorem Ctx.setSeq_wfNext (c : Ctx) (st : Stream) (q : Seq) : (c.setSeq st q).wfNext = c.wfNext := by cases st <;> rfl
@[simp] theorem Ctx.setSeq_pend (c : Ctx) (st : Stream) (q : Seq) : (c.setSeq st q).pend = c.pend := by cases st <;> rfl
@[simp] theorem Ctx.setSeq_pendNo (c : Ctx) (st : Stream) (q : Seq) : (c.setSeq st q).pendNo = c.pendNo := by cases st <;> rfl
@[simp] theorem Ctx.setSeq_nstat (c : Ctx) (st : Stream) (q : Seq) : (c.setSeq st q).nstat = c.nstat := by cases st <;> rfl
@[simp] theorem Ctx.setSeq_vmode (c : Ctx) (st : Stream) (q : Seq) : (c.setSeq st q).vmode = c.vmode := by cases st <;> rfl
@[simp] theorem Ctx.setSeq_mmode (c : Ctx) (st : Stream) (q : Seq) : (c.setSeq st q).mmode = c.mmode := by cases st <;> rfl
@[simp] theorem Ctx.setSeq_ecyc (c : Ctx) (st : Stream) (q : Seq) : (c.setSeq st q).ecyc = c.ecyc := by cases st <;> rfl
@[simp] theorem Ctx.setSeq_back (c : Ctx) (st : Stream) (q : Seq) : (c.setSeq st q).back = c.back := by cases st <;> rfl
@[simp] theorem Ctx.setSeq_order (c : Ctx) (st : Stream) (q : Seq) : (c.setSeq st q).order = c.order := by cases st <;> rfl
@[simp] theorem Ctx.setSeq_mxOut (c : Ctx) (st : Stream) (q : Seq) : (c.setSeq st q).mxOut = c.mxOut := by cases st <;> rfl
@[simp] theorem Ctx.setSeq_lb0 (c : Ctx) (st : Stream) (q : Seq) : (c.setSeq st q).lb0 = c.lb0 := by cases st <;> rfl
@[simp] theorem Ctx.setSeq_lb1 (c : Ctx) (st : Stream) (q : Seq) : (c.setSeq st q).lb1 = c.lb1 := by cases st <;> rfl
@[simp] theorem Ctx.setSeq_leaseOpen (c : Ctx) (st : Stream) (q : Seq) : (c.setSeq st q).leaseOpen = c.leaseOpen := by cases st <;> rfl
@[simp] theorem Ctx.setSeq_lease (c : Ctx) (st : Stream) (q : Seq) : (c.setSeq st q).lease = c.lease := by cases st <;> rfl
@[simp] theorem Ctx.setSeq_endTerm (c : Ctx) (st : Stream) (q : Seq) : (c.setSeq st q).endTerm = c.endTerm := by cases st <;> rfl
@[simp] theorem Ctx.setSeq_unpaid (c : Ctx) (st : Stream) (q : Seq) : (c.setSeq st q).unpaid = c.unpaid := by cases st <;> rfl
@[simp] theorem Ctx.setSeq_termCount (c : Ctx) (st : Stream) (q : Seq) : (c.setSeq st q).termCount = c.termCount := by cases st <;> rfl
@[simp] theorem Ctx.setSeq_credit (c : Ctx) (st : Stream) (q : Seq) : (c.setSeq st q).credit = c.credit := by cases st <;> rfl
@[simp] theorem Ctx.setSeq_cuts (c : Ctx) (st : Stream) (q : Seq) : (c.setSeq st q).cuts = c.cuts := by cases st <;> rfl
@[simp] theorem Ctx.setSeq_leftL (c : Ctx) (st : Stream) (q : Seq) : (c.setSeq st q).leftL = c.leftL := by cases st <;> rfl
@[simp] theorem Ctx.setSeq_abortL (c : Ctx) (st : Stream) (q : Seq) : (c.setSeq st q).abortL = c.abortL := by cases st <;> rfl
@[simp] theorem Ctx.setSeq_traps (c : Ctx) (st : Stream) (q : Seq) : (c.setSeq st q).traps = c.traps := by cases st <;> rfl
@[simp] theorem Ctx.setSeq_drain (c : Ctx) (st : Stream) (q : Seq) : (c.setSeq st q).drain = c.drain := by cases st <;> rfl
@[simp] theorem Ctx.setSeq_eventAt (c : Ctx) (st : Stream) (q : Seq) : (c.setSeq st q).eventAt = c.eventAt := by cases st <;> rfl
@[simp] theorem Ctx.setSeq_shd (c : Ctx) (st : Stream) (q : Seq) : (c.setSeq st q).shd = c.shd := by cases st <;> rfl
@[simp] theorem Ctx.setSeq_taken (c : Ctx) (st : Stream) (q : Seq) : (c.setSeq st q).taken = c.taken := by cases st <;> rfl
@[simp] theorem Ctx.setSeq_notified (c : Ctx) (st : Stream) (q : Seq) : (c.setSeq st q).notified = c.notified := by cases st <;> rfl
@[simp] theorem Ctx.setSeq_rarg (c : Ctx) (st : Stream) (q : Seq) : (c.setSeq st q).rarg = c.rarg := by cases st <;> rfl
@[simp] theorem Ctx.setSeq_gidx (c : Ctx) (st : Stream) (q : Seq) : (c.setSeq st q).gidx = c.gidx := by cases st <;> rfl
@[simp] theorem Ctx.setSeq_gcnt (c : Ctx) (st : Stream) (q : Seq) : (c.setSeq st q).gcnt = c.gcnt := by cases st <;> rfl
@[simp] theorem Ctx.setSeq_stgn (c : Ctx) (st : Stream) (q : Seq) : (c.setSeq st q).stgn = c.stgn := by cases st <;> rfl
@[simp] theorem Ctx.setSeq_grun (c : Ctx) (st : Stream) (q : Seq) : (c.setSeq st q).grun = c.grun := by cases st <;> rfl
@[simp] theorem Ctx.setSeq_lcore (c : Ctx) (st : Stream) (q : Seq) : (c.setSeq st q).lcore = c.lcore := by cases st <;> rfl
@[simp] theorem Ctx.setSeq_group (c : Ctx) (st : Stream) (q : Seq) : (c.setSeq st q).group = c.group := by cases st <;> rfl
@[simp] theorem Ctx.setSeq_oid (c : Ctx) (st : Stream) (q : Seq) : (c.setSeq st q).oid = c.oid := by cases st <;> rfl
@[simp] theorem Ctx.setSeq_begin (c : Ctx) (st : Stream) (q : Seq) : (c.setSeq st q).begin = c.begin := by cases st <;> rfl
@[simp] theorem Ctx.setSeq_snap (c : Ctx) (st : Stream) (q : Seq) : (c.setSeq st q).snap = c.snap := by cases st <;> rfl
@[simp] theorem Ctx.setSeq_pinned (c : Ctx) (st : Stream) (q : Seq) : (c.setSeq st q).pinned = c.pinned := by cases st <;> rfl
@[simp] theorem Ctx.setSeq_started (c : Ctx) (st : Stream) (q : Seq) : (c.setSeq st q).started = c.started := by cases st <;> rfl
@[simp] theorem Ctx.setSeq_txn (c : Ctx) (st : Stream) (q : Seq) : (c.setSeq st q).txn = c.txn := by cases st <;> rfl
@[simp] theorem Ctx.setSeq_lastAborted (c : Ctx) (st : Stream) (q : Seq) : (c.setSeq st q).lastAborted = c.lastAborted := by cases st <;> rfl
@[simp] theorem Ctx.setSeq_bankSet (c : Ctx) (st : Stream) (q : Seq) : (c.setSeq st q).bankSet = c.bankSet := by cases st <;> rfl
@[simp] theorem Ctx.setSeq_persist (c : Ctx) (st : Stream) (q : Seq) : (c.setSeq st q).persist = c.persist := by cases st <;> rfl
@[simp] theorem Ctx.setSeq_save (c : Ctx) (st : Stream) (q : Seq) : (c.setSeq st q).save = c.save := by cases st <;> rfl
@[simp] theorem Ctx.setSeq_rects (c : Ctx) (st : Stream) (q : Seq) : (c.setSeq st q).rects = c.rects := by cases st <;> rfl
@[simp] theorem Ctx.setSeq_culs (c : Ctx) (st : Stream) (q : Seq) : (c.setSeq st q).culs = c.culs := by cases st <;> rfl
@[simp] theorem Ctx.setSeq_retiring (c : Ctx) (st : Stream) (q : Seq) : (c.setSeq st q).retiring = c.retiring := by cases st <;> rfl
@[simp] theorem Ctx.setSeq_boundary (c : Ctx) (st : Stream) (q : Seq) : (c.setSeq st q).boundary = c.boundary := by cases st <;> rfl
@[simp] theorem Ctx.setSeq_aborted (c : Ctx) (st : Stream) (q : Seq) : (c.setSeq st q).aborted = c.aborted := by cases st <;> rfl
@[simp] theorem Ctx.setSeq_redirects (c : Ctx) (st : Stream) (q : Seq) : (c.setSeq st q).redirects = c.redirects := by cases st <;> rfl
@[simp] theorem Ctx.setSeq_restoring (c : Ctx) (st : Stream) (q : Seq) : (c.setSeq st q).restoring = c.restoring := by cases st <;> rfl
@[simp] theorem Ctx.setSeq_polder (c : Ctx) (st : Stream) (q : Seq) : (c.setSeq st q).polder = c.polder := by cases st <;> rfl
@[simp] theorem Ctx.setSeq_owner (c : Ctx) (st : Stream) (q : Seq) : (c.setSeq st q).owner = c.owner := by cases st <;> rfl
@[simp] theorem Ctx.setSeq_tier (c : Ctx) (st : Stream) (q : Seq) : (c.setSeq st q).tier = c.tier := by cases st <;> rfl
@[simp] theorem Ctx.updSeq_st (c : Ctx) (st : Stream) (f : Seq → Seq) : (c.updSeq st f).st = c.st := by cases st <;> rfl
@[simp] theorem Ctx.updSeq_was (c : Ctx) (st : Stream) (f : Seq → Seq) : (c.updSeq st f).was = c.was := by cases st <;> rfl
@[simp] theorem Ctx.updSeq_tok (c : Ctx) (st : Stream) (f : Seq → Seq) : (c.updSeq st f).tok = c.tok := by cases st <;> rfl
@[simp] theorem Ctx.updSeq_kme (c : Ctx) (st : Stream) (f : Seq → Seq) : (c.updSeq st f).kme = c.kme := by cases st <;> rfl
@[simp] theorem Ctx.updSeq_bq (c : Ctx) (st : Stream) (f : Seq → Seq) : (c.updSeq st f).bq = c.bq := by cases st <;> rfl
@[simp] theorem Ctx.updSeq_q (c : Ctx) (st : Stream) (f : Seq → Seq) : (c.updSeq st f).q = c.q := by cases st <;> rfl
@[simp] theorem Ctx.updSeq_y (c : Ctx) (st : Stream) (f : Seq → Seq) : (c.updSeq st f).y = c.y := by cases st <;> rfl
@[simp] theorem Ctx.updSeq_w (c : Ctx) (st : Stream) (f : Seq → Seq) : (c.updSeq st f).w = c.w := by cases st <;> rfl
@[simp] theorem Ctx.updSeq_wPoison (c : Ctx) (st : Stream) (f : Seq → Seq) : (c.updSeq st f).wPoison = c.wPoison := by cases st <;> rfl
@[simp] theorem Ctx.updSeq_masks (c : Ctx) (st : Stream) (f : Seq → Seq) : (c.updSeq st f).masks = c.masks := by cases st <;> rfl
@[simp] theorem Ctx.updSeq_mPoison (c : Ctx) (st : Stream) (f : Seq → Seq) : (c.updSeq st f).mPoison = c.mPoison := by cases st <;> rfl
@[simp] theorem Ctx.updSeq_wf (c : Ctx) (st : Stream) (f : Seq → Seq) : (c.updSeq st f).wf = c.wf := by cases st <;> rfl
@[simp] theorem Ctx.updSeq_wfNext (c : Ctx) (st : Stream) (f : Seq → Seq) : (c.updSeq st f).wfNext = c.wfNext := by cases st <;> rfl
@[simp] theorem Ctx.updSeq_pend (c : Ctx) (st : Stream) (f : Seq → Seq) : (c.updSeq st f).pend = c.pend := by cases st <;> rfl
@[simp] theorem Ctx.updSeq_pendNo (c : Ctx) (st : Stream) (f : Seq → Seq) : (c.updSeq st f).pendNo = c.pendNo := by cases st <;> rfl
@[simp] theorem Ctx.updSeq_nstat (c : Ctx) (st : Stream) (f : Seq → Seq) : (c.updSeq st f).nstat = c.nstat := by cases st <;> rfl
@[simp] theorem Ctx.updSeq_vmode (c : Ctx) (st : Stream) (f : Seq → Seq) : (c.updSeq st f).vmode = c.vmode := by cases st <;> rfl
@[simp] theorem Ctx.updSeq_mmode (c : Ctx) (st : Stream) (f : Seq → Seq) : (c.updSeq st f).mmode = c.mmode := by cases st <;> rfl
@[simp] theorem Ctx.updSeq_ecyc (c : Ctx) (st : Stream) (f : Seq → Seq) : (c.updSeq st f).ecyc = c.ecyc := by cases st <;> rfl
@[simp] theorem Ctx.updSeq_back (c : Ctx) (st : Stream) (f : Seq → Seq) : (c.updSeq st f).back = c.back := by cases st <;> rfl
@[simp] theorem Ctx.updSeq_order (c : Ctx) (st : Stream) (f : Seq → Seq) : (c.updSeq st f).order = c.order := by cases st <;> rfl
@[simp] theorem Ctx.updSeq_mxOut (c : Ctx) (st : Stream) (f : Seq → Seq) : (c.updSeq st f).mxOut = c.mxOut := by cases st <;> rfl
@[simp] theorem Ctx.updSeq_lb0 (c : Ctx) (st : Stream) (f : Seq → Seq) : (c.updSeq st f).lb0 = c.lb0 := by cases st <;> rfl
@[simp] theorem Ctx.updSeq_lb1 (c : Ctx) (st : Stream) (f : Seq → Seq) : (c.updSeq st f).lb1 = c.lb1 := by cases st <;> rfl
@[simp] theorem Ctx.updSeq_leaseOpen (c : Ctx) (st : Stream) (f : Seq → Seq) : (c.updSeq st f).leaseOpen = c.leaseOpen := by cases st <;> rfl
@[simp] theorem Ctx.updSeq_lease (c : Ctx) (st : Stream) (f : Seq → Seq) : (c.updSeq st f).lease = c.lease := by cases st <;> rfl
@[simp] theorem Ctx.updSeq_endTerm (c : Ctx) (st : Stream) (f : Seq → Seq) : (c.updSeq st f).endTerm = c.endTerm := by cases st <;> rfl
@[simp] theorem Ctx.updSeq_unpaid (c : Ctx) (st : Stream) (f : Seq → Seq) : (c.updSeq st f).unpaid = c.unpaid := by cases st <;> rfl
@[simp] theorem Ctx.updSeq_termCount (c : Ctx) (st : Stream) (f : Seq → Seq) : (c.updSeq st f).termCount = c.termCount := by cases st <;> rfl
@[simp] theorem Ctx.updSeq_credit (c : Ctx) (st : Stream) (f : Seq → Seq) : (c.updSeq st f).credit = c.credit := by cases st <;> rfl
@[simp] theorem Ctx.updSeq_cuts (c : Ctx) (st : Stream) (f : Seq → Seq) : (c.updSeq st f).cuts = c.cuts := by cases st <;> rfl
@[simp] theorem Ctx.updSeq_leftL (c : Ctx) (st : Stream) (f : Seq → Seq) : (c.updSeq st f).leftL = c.leftL := by cases st <;> rfl
@[simp] theorem Ctx.updSeq_abortL (c : Ctx) (st : Stream) (f : Seq → Seq) : (c.updSeq st f).abortL = c.abortL := by cases st <;> rfl
@[simp] theorem Ctx.updSeq_traps (c : Ctx) (st : Stream) (f : Seq → Seq) : (c.updSeq st f).traps = c.traps := by cases st <;> rfl
@[simp] theorem Ctx.updSeq_drain (c : Ctx) (st : Stream) (f : Seq → Seq) : (c.updSeq st f).drain = c.drain := by cases st <;> rfl
@[simp] theorem Ctx.updSeq_eventAt (c : Ctx) (st : Stream) (f : Seq → Seq) : (c.updSeq st f).eventAt = c.eventAt := by cases st <;> rfl
@[simp] theorem Ctx.updSeq_shd (c : Ctx) (st : Stream) (f : Seq → Seq) : (c.updSeq st f).shd = c.shd := by cases st <;> rfl
@[simp] theorem Ctx.updSeq_taken (c : Ctx) (st : Stream) (f : Seq → Seq) : (c.updSeq st f).taken = c.taken := by cases st <;> rfl
@[simp] theorem Ctx.updSeq_notified (c : Ctx) (st : Stream) (f : Seq → Seq) : (c.updSeq st f).notified = c.notified := by cases st <;> rfl
@[simp] theorem Ctx.updSeq_rarg (c : Ctx) (st : Stream) (f : Seq → Seq) : (c.updSeq st f).rarg = c.rarg := by cases st <;> rfl
@[simp] theorem Ctx.updSeq_gidx (c : Ctx) (st : Stream) (f : Seq → Seq) : (c.updSeq st f).gidx = c.gidx := by cases st <;> rfl
@[simp] theorem Ctx.updSeq_gcnt (c : Ctx) (st : Stream) (f : Seq → Seq) : (c.updSeq st f).gcnt = c.gcnt := by cases st <;> rfl
@[simp] theorem Ctx.updSeq_stgn (c : Ctx) (st : Stream) (f : Seq → Seq) : (c.updSeq st f).stgn = c.stgn := by cases st <;> rfl
@[simp] theorem Ctx.updSeq_grun (c : Ctx) (st : Stream) (f : Seq → Seq) : (c.updSeq st f).grun = c.grun := by cases st <;> rfl
@[simp] theorem Ctx.updSeq_lcore (c : Ctx) (st : Stream) (f : Seq → Seq) : (c.updSeq st f).lcore = c.lcore := by cases st <;> rfl
@[simp] theorem Ctx.updSeq_group (c : Ctx) (st : Stream) (f : Seq → Seq) : (c.updSeq st f).group = c.group := by cases st <;> rfl
@[simp] theorem Ctx.updSeq_oid (c : Ctx) (st : Stream) (f : Seq → Seq) : (c.updSeq st f).oid = c.oid := by cases st <;> rfl
@[simp] theorem Ctx.updSeq_begin (c : Ctx) (st : Stream) (f : Seq → Seq) : (c.updSeq st f).begin = c.begin := by cases st <;> rfl
@[simp] theorem Ctx.updSeq_snap (c : Ctx) (st : Stream) (f : Seq → Seq) : (c.updSeq st f).snap = c.snap := by cases st <;> rfl
@[simp] theorem Ctx.updSeq_pinned (c : Ctx) (st : Stream) (f : Seq → Seq) : (c.updSeq st f).pinned = c.pinned := by cases st <;> rfl
@[simp] theorem Ctx.updSeq_started (c : Ctx) (st : Stream) (f : Seq → Seq) : (c.updSeq st f).started = c.started := by cases st <;> rfl
@[simp] theorem Ctx.updSeq_txn (c : Ctx) (st : Stream) (f : Seq → Seq) : (c.updSeq st f).txn = c.txn := by cases st <;> rfl
@[simp] theorem Ctx.updSeq_lastAborted (c : Ctx) (st : Stream) (f : Seq → Seq) : (c.updSeq st f).lastAborted = c.lastAborted := by cases st <;> rfl
@[simp] theorem Ctx.updSeq_bankSet (c : Ctx) (st : Stream) (f : Seq → Seq) : (c.updSeq st f).bankSet = c.bankSet := by cases st <;> rfl
@[simp] theorem Ctx.updSeq_persist (c : Ctx) (st : Stream) (f : Seq → Seq) : (c.updSeq st f).persist = c.persist := by cases st <;> rfl
@[simp] theorem Ctx.updSeq_save (c : Ctx) (st : Stream) (f : Seq → Seq) : (c.updSeq st f).save = c.save := by cases st <;> rfl
@[simp] theorem Ctx.updSeq_rects (c : Ctx) (st : Stream) (f : Seq → Seq) : (c.updSeq st f).rects = c.rects := by cases st <;> rfl
@[simp] theorem Ctx.updSeq_culs (c : Ctx) (st : Stream) (f : Seq → Seq) : (c.updSeq st f).culs = c.culs := by cases st <;> rfl
@[simp] theorem Ctx.updSeq_retiring (c : Ctx) (st : Stream) (f : Seq → Seq) : (c.updSeq st f).retiring = c.retiring := by cases st <;> rfl
@[simp] theorem Ctx.updSeq_boundary (c : Ctx) (st : Stream) (f : Seq → Seq) : (c.updSeq st f).boundary = c.boundary := by cases st <;> rfl
@[simp] theorem Ctx.updSeq_aborted (c : Ctx) (st : Stream) (f : Seq → Seq) : (c.updSeq st f).aborted = c.aborted := by cases st <;> rfl
@[simp] theorem Ctx.updSeq_redirects (c : Ctx) (st : Stream) (f : Seq → Seq) : (c.updSeq st f).redirects = c.redirects := by cases st <;> rfl
@[simp] theorem Ctx.updSeq_restoring (c : Ctx) (st : Stream) (f : Seq → Seq) : (c.updSeq st f).restoring = c.restoring := by cases st <;> rfl
@[simp] theorem Ctx.updSeq_polder (c : Ctx) (st : Stream) (f : Seq → Seq) : (c.updSeq st f).polder = c.polder := by cases st <;> rfl
@[simp] theorem Ctx.updSeq_owner (c : Ctx) (st : Stream) (f : Seq → Seq) : (c.updSeq st f).owner = c.owner := by cases st <;> rfl
@[simp] theorem Ctx.updSeq_tier (c : Ctx) (st : Stream) (f : Seq → Seq) : (c.updSeq st f).tier = c.tier := by cases st <;> rfl
@[simp] theorem Seq.set_pc (q : Seq) (r : XReg) (v : Word) : (q.set r v).pc = q.pc := by unfold Seq.set; split <;> rfl
@[simp] theorem Seq.set_lv (q : Seq) (r : XReg) (v : Word) : (q.set r v).lv = q.lv := by unfold Seq.set; split <;> rfl
@[simp] theorem Seq.set_rb (q : Seq) (r : XReg) (v : Word) : (q.set r v).rb = q.rb := by unfold Seq.set; split <;> rfl
@[simp] theorem Seq.set_replay (q : Seq) (r : XReg) (v : Word) : (q.set r v).replay = q.replay := by unfold Seq.set; split <;> rfl
@[simp] theorem Seq.set_ib (q : Seq) (r : XReg) (v : Word) : (q.set r v).ib = q.ib := by unfold Seq.set; split <;> rfl
@[simp] theorem Seq.set_stopped (q : Seq) (r : XReg) (v : Word) : (q.set r v).stopped = q.stopped := by unfold Seq.set; split <;> rfl
@[simp] theorem Seq.set_held (q : Seq) (r : XReg) (v : Word) : (q.set r v).held = q.held := by unfold Seq.set; split <;> rfl
@[simp] theorem Seq.set_next (q : Seq) (r : XReg) (v : Word) : (q.set r v).next = q.next := by unfold Seq.set; split <;> rfl
@[simp] theorem Seq.set_prog (q : Seq) (r : XReg) (v : Word) : (q.set r v).prog = q.prog := by unfold Seq.set; split <;> rfl
@[simp] theorem Seq.set_lost (q : Seq) (r : XReg) (v : Word) : (q.set r v).lost = q.lost := by unfold Seq.set; split <;> rfl
@[simp] theorem Seq.set_blockedAtAbort (q : Seq) (r : XReg) (v : Word) : (q.set r v).blockedAtAbort = q.blockedAtAbort := by unfold Seq.set; split <;> rfl
@[simp] theorem Seq.setLevel_x (q : Seq) (n : Nat) (l : Level) : (q.setLevel n l).x = q.x := rfl
@[simp] theorem Seq.setLevel_pc (q : Seq) (n : Nat) (l : Level) : (q.setLevel n l).pc = q.pc := rfl
@[simp] theorem Seq.setLevel_rb (q : Seq) (n : Nat) (l : Level) : (q.setLevel n l).rb = q.rb := rfl
@[simp] theorem Seq.setLevel_replay (q : Seq) (n : Nat) (l : Level) : (q.setLevel n l).replay = q.replay := rfl
@[simp] theorem Seq.setLevel_ib (q : Seq) (n : Nat) (l : Level) : (q.setLevel n l).ib = q.ib := rfl
@[simp] theorem Seq.setLevel_stopped (q : Seq) (n : Nat) (l : Level) : (q.setLevel n l).stopped = q.stopped := rfl
@[simp] theorem Seq.setLevel_held (q : Seq) (n : Nat) (l : Level) : (q.setLevel n l).held = q.held := rfl
@[simp] theorem Seq.setLevel_next (q : Seq) (n : Nat) (l : Level) : (q.setLevel n l).next = q.next := rfl
@[simp] theorem Seq.setLevel_prog (q : Seq) (n : Nat) (l : Level) : (q.setLevel n l).prog = q.prog := rfl
@[simp] theorem Seq.setLevel_lost (q : Seq) (n : Nat) (l : Level) : (q.setLevel n l).lost = q.lost := rfl
@[simp] theorem Seq.setLevel_blockedAtAbort (q : Seq) (n : Nat) (l : Level) : (q.setLevel n l).blockedAtAbort = q.blockedAtAbort := rfl

end Sys2Proof.Machine
end

