-- ==== Sys2Proof/Laws/Reads.lean ====
section
/-! SUPPORT. What a core, a bank context, a sequencer and an x register read as after an update. -/

namespace Sys2Proof.Machine

@[simp] theorem core_setCore_self (s : State) (k : Nat) (c : Core) : (s.setCore k c).core k = c := by
  simp [State.core, State.setCore]
@[simp] theorem core_setCore_ne (s : State) {k j : Nat} (c : Core) (h : j ≠ k) : (s.setCore k c).core j = s.core j := by
  simp [State.core, State.setCore, h]
@[simp] theorem core_updCore_self (s : State) (k : Nat) (f : Core → Core) : (s.updCore k f).core k = f (s.core k) := by
  simp [State.updCore]
@[simp] theorem core_updCore_ne (s : State) {k j : Nat} (f : Core → Core) (h : j ≠ k) :
    (s.updCore k f).core j = s.core j := by
  simp [State.updCore, h]

@[simp] theorem ctx_setCtx_self (c : Core) (b : Bool) (x : Ctx) : (c.setCtx b x).ctx b = x := by cases b <;> rfl
@[simp] theorem ctx_setCtx_not (c : Core) (b : Bool) (x : Ctx) : (c.setCtx b x).ctx (!b) = c.ctx (!b) := by cases b <;> rfl
@[simp] theorem setCtx_setCtx (c : Core) (b : Bool) (x y : Ctx) : (c.setCtx b x).setCtx b y = c.setCtx b y := by
  cases b <;> rfl

@[simp] theorem core_updCtx_self (s : State) (k : Nat) (b : Bool) (f : Ctx → Ctx) :
    (s.updCtx k b f).core k = (s.core k).setCtx b (f (s.ctx k b)) := by
  simp [State.updCtx, State.setCtx]
@[simp] theorem core_updCtx_ne (s : State) {k j : Nat} (b : Bool) (f : Ctx → Ctx) (h : j ≠ k) :
    (s.updCtx k b f).core j = s.core j := by
  simp [State.updCtx, State.setCtx, h]
@[simp] theorem ctx_updCtx_self (s : State) (k : Nat) (b : Bool) (f : Ctx → Ctx) :
    (s.updCtx k b f).ctx k b = f (s.ctx k b) := by
  simp [State.ctx]
@[simp] theorem ctx_updCtx_ne (s : State) {k j : Nat} (b c : Bool) (f : Ctx → Ctx) (h : j ≠ k) :
    (s.updCtx k b f).ctx j c = s.ctx j c := by
  simp [State.ctx, h]

@[simp] theorem bank_updCtx (s : State) (k j : Nat) (b : Bool) (f : Ctx → Ctx) : (s.updCtx k b f).bank j = s.bank j := by
  unfold State.bank
  by_cases h : j = k
  · subst h; simp
  · simp [h]
@[simp] theorem bank_updAct (s : State) (k j : Nat) (f : Ctx → Ctx) : (s.updAct k f).bank j = s.bank j := by
  simp [State.updAct]

@[simp] theorem core_updAct_ne (s : State) {k j : Nat} (f : Ctx → Ctx) (h : j ≠ k) : (s.updAct k f).core j = s.core j := by
  simp [State.updAct, h]
@[simp] theorem core_updAct_self (s : State) (k : Nat) (f : Ctx → Ctx) :
    (s.updAct k f).core k = (s.core k).setCtx (s.bank k) (f (s.act k)) := by
  simp [State.updAct, State.act]
@[simp] theorem act_updAct_self (s : State) (k : Nat) (f : Ctx → Ctx) : (s.updAct k f).act k = f (s.act k) := by
  simp [State.act, State.updAct]
@[simp] theorem act_updAct_ne (s : State) {k j : Nat} (f : Ctx → Ctx) (h : j ≠ k) : (s.updAct k f).act j = s.act j := by
  simp [State.act, State.updAct, h]
@[simp] theorem act_updCtx_ne (s : State) {k j : Nat} (b : Bool) (f : Ctx → Ctx) (h : j ≠ k) :
    (s.updCtx k b f).act j = s.act j := by
  simp [State.act, h]
@[simp] theorem act_updCtx_bank (s : State) (k : Nat) (f : Ctx → Ctx) : (s.updCtx k (s.bank k) f).act k = f (s.act k) := by
  simp [State.act]
@[simp] theorem core_updMyCtx_ne (s : State) {j : Nat} (f : Ctx → Ctx) (h : j ≠ s.cur.1) :
    (s.updMyCtx f).core j = s.core j := by
  simp [State.updMyCtx, h]
@[simp] theorem myCtx_updMyCtx (s : State) (f : Ctx → Ctx) : (s.updMyCtx f).myCtx = f s.myCtx := by
  simp [State.myCtx, State.updMyCtx]

@[simp] theorem seq_setSeq_self (c : Ctx) (st : Stream) (q : Seq) : (c.setSeq st q).seq st = q := by cases st <;> rfl
@[simp] theorem seq_setSeq_ne (c : Ctx) {st r : Stream} (q : Seq) (h : r ≠ st) : (c.setSeq st q).seq r = c.seq r := by
  cases st <;> cases r <;> first | rfl | exact absurd rfl h
@[simp] theorem seq_updSeq_self (c : Ctx) (st : Stream) (f : Seq → Seq) : (c.updSeq st f).seq st = f (c.seq st) := by
  simp [Ctx.updSeq]
@[simp] theorem seq_updSeq_ne (c : Ctx) {st r : Stream} (f : Seq → Seq) (h : r ≠ st) : (c.updSeq st f).seq r = c.seq r := by
  simp [Ctx.updSeq, h]

@[simp] theorem me_updMyCtx (s : State) (f : Ctx → Ctx) : (s.updMyCtx f).me = (f s.myCtx).seq s.cur.2 := by
  simp [State.me, State.seq, State.updMyCtx, State.myCtx]
@[simp] theorem myCtx_updMe (s : State) (f : Seq → Seq) : (s.updMe f).myCtx = s.myCtx.updSeq s.cur.2 f := by
  simp [State.myCtx, State.updMe, State.updSeq]
@[simp] theorem me_updMe (s : State) (f : Seq → Seq) : (s.updMe f).me = f s.me := by
  simp [State.me, State.seq, State.updMe, State.updSeq]
@[simp] theorem core_updMe_ne (s : State) {j : Nat} (f : Seq → Seq) (h : j ≠ s.cur.1) : (s.updMe f).core j = s.core j := by
  simp [State.updMe, State.updSeq, h]

/-- x0 reads 0. -/
@[simp] theorem get_zero (q : Seq) : q.get 0 = 0 := rfl
/-- A write to x0 is discarded. -/
@[simp] theorem set_zero (q : Seq) (v : Word) : q.set 0 v = q := rfl
theorem get_set (q : Seq) (r j : XReg) (v : Word) : (q.set r v).get j = if j = r ∧ j ≠ 0 then v else q.get j := by
  unfold Seq.set Seq.get
  by_cases hj : j = 0
  · rw [if_pos hj, if_pos hj, if_neg (by simp [hj])]
  · rw [if_neg hj, if_neg hj]
    by_cases hr : r = 0
    · rw [if_pos hr, if_neg (by rw [hr]; exact fun h => h.2 h.1)]
    · rw [if_neg hr]
      by_cases h : j = r
      · rw [if_pos ⟨h, hj⟩, h]; exact Map.get_set_self ..
      · rw [if_neg (fun e => h e.1)]
        exact Map.get_set_ne _ _ _ (fun e => h (BitVec.eq_of_toNat_eq e))

theorem x_setX (s : State) (r j : XReg) (v : Word) : (s.setX r v).x j = if j = r ∧ j ≠ 0 then v else s.x j := by
  simp [State.x, State.setX, State.seq, State.updSeq, get_set]
@[simp] theorem me_setX (s : State) (r : XReg) (v : Word) : (s.setX r v).me = s.me.set r v := by
  simp [State.me, State.setX, State.seq, State.updSeq]
@[simp] theorem myCtx_setX (s : State) (r : XReg) (v : Word) :
    (s.setX r v).myCtx = s.myCtx.updSeq s.cur.2 (fun q => q.set r v) := by
  simp [State.myCtx, State.setX, State.updSeq]

end Sys2Proof.Machine
end

