-- ==== Sys2Proof/Laws/Words.lean ====
section
/-! SUPPORT. The common course of a word: what it does when it issues, as a false slot, and what it leaves alone. -/

namespace Sys2Proof.Machine

theorem word_yes {allowed : List Stream} {g : Guard} {regs : List XReg} {onFalse eff : State → State} {s : State}
    (h : s.Issues allowed g regs) : word allowed g regs onFalse eff s = .next (eff s) := by
  obtain ⟨h1, h2, h3⟩ := h
  simp [word, h1, h2, h3]

theorem word_no {allowed : List Stream} {g : Guard} {regs : List XReg} {onFalse eff : State → State} {s : State}
    (h : s.FalseSlot allowed g) : word allowed g regs onFalse eff s = .next (onFalse s) := by
  obtain ⟨h1, h2⟩ := h
  simp [word, h1, h2]

/-- A word that carries no guard issues whenever its stream and its registers admit it. -/
theorem slot_noGuard (q : Seq) : slot q noGuard = .yes := rfl

/-- An update of the active context leaves everything else alone. -/
theorem elsewhere_updMyCtx (s : State) (f : Ctx → Ctx) : s.Elsewhere (s.updMyCtx f) where
  memory _ := rfl
  package := rfl
  cores k h := by simp [h]
  core := by simp [State.updMyCtx]

theorem State.Elsewhere.cur {s t : State} (h : s.Elsewhere t) : t.cur = s.cur :=
  show { t with cores := s.cores }.cur = s.cur from congrArg State.cur h.package
theorem State.Elsewhere.bank {s t : State} (h : s.Elsewhere t) : t.bank s.cur.1 = s.bank s.cur.1 := by
  simpa [State.bank] using congrArg Core.activeB h.core

theorem State.Elsewhere.trans {s t u : State} (h : s.Elsewhere t) (k : t.Elsewhere u) : s.Elsewhere u where
  memory a := (k.memory a).trans (h.memory a)
  package := by rw [← h.package, ← k.package]
  cores j hj := (k.cores j (by rw [h.cur]; exact hj)).trans (h.cores j hj)
  core := by
    have := k.core
    rw [h.cur, h.bank] at this
    exact this.trans h.core

@[simp] theorem rest_setSeq (c : Ctx) (st : Stream) (q : Seq) : (c.setSeq st q).rest = c.rest := by cases st <;> rfl
@[simp] theorem rest_updSeq (c : Ctx) (st : Stream) (f : Seq → Seq) : (c.updSeq st f).rest = c.rest := by
  simp [Ctx.updSeq]
@[simp] theorem rest_begun (c : Ctx) (t : Nat) : (c.begun t).rest = c.rest := by unfold Ctx.begun; split <;> rfl
@[simp] theorem seq_begun (c : Ctx) (t : Nat) (st : Stream) : (c.begun t).seq st = c.seq st := by
  unfold Ctx.begun; split <;> cases st <;> rfl

/-- An update of the active context that leaves it alone but for its own sequencer's x registers and progress. -/
theorem ownX_updMyCtx (s : State) (f : Ctx → Ctx) (hr : (f s.myCtx).rest = s.myCtx.rest)
    (ho : ∀ st, st ≠ s.cur.2 → (f s.myCtx).seq st = s.myCtx.seq st)
    (hk : ((f s.myCtx).seq s.cur.2).kept = s.me.kept) : s.OwnX (s.updMyCtx f) where
  elsewhere := elsewhere_updMyCtx s f
  context := by simpa using hr
  others st h := by simpa using ho st h
  own := by simpa using hk

theorem State.OwnX.trans {s t u : State} (h : s.OwnX t) (k : t.OwnX u) : s.OwnX u where
  elsewhere := h.elsewhere.trans k.elsewhere
  context := k.context.trans h.context
  others st hs := (k.others st (by rw [h.elsewhere.cur]; exact hs)).trans (h.others st hs)
  own := k.own.trans h.own

theorem State.OwnX.refl (s : State) : s.OwnX s where
  elsewhere := ⟨fun _ => rfl, rfl, fun _ _ => rfl, rfl⟩
  context := rfl
  others _ _ := rfl
  own := rfl

theorem updMe_eq (s : State) (f : Seq → Seq) : s.updMe f = s.updMyCtx (fun c => c.updSeq s.cur.2 f) := rfl
theorem setX_eq (s : State) (r : XReg) (v : Word) : s.setX r v = s.updMyCtx (fun c => c.updSeq s.cur.2 (fun q => q.set r v)) := rfl

@[simp] theorem kept_set (q : Seq) (r : XReg) (v : Word) : (q.set r v).kept = q.kept := by
  unfold Seq.set; split <;> rfl

theorem ownX_updMe (s : State) (f : Seq → Seq) (h : (f s.me).kept = s.me.kept) : s.OwnX (s.updMe f) := by
  refine ownX_updMyCtx s _ (by simp) (fun st hs => by simp [hs]) ?_
  simpa [State.me, State.seq, State.myCtx] using h

theorem ownX_setX (s : State) (r : XReg) (v : Word) : s.OwnX (s.setX r v) := ownX_updMe s _ (by simp)

/-- The issue of a word changes nothing but where the next word stands. -/
theorem ownX_issued (s : State) (pc : BitVec 56) (n : Nat) : s.OwnX (s.issued pc n) := by
  refine ownX_updMyCtx s _ (by simp) (fun st hs => by simp [hs]) ?_
  simp [State.me, State.seq, State.myCtx, Seq.kept]

@[simp] theorem seq_myCtx (s : State) : s.myCtx.seq s.cur.2 = s.me := rfl
@[simp] theorem me_issued (s : State) (pc : BitVec 56) (n : Nat) :
    (s.issued pc n).me = { s.me with pc := pc, held := .none, prog := 0, next := (s.core s.cur.1).cyc + n } := by
  simp [State.issued]
@[simp] theorem cur_issued (s : State) (pc : BitVec 56) (n : Nat) : (s.issued pc n).cur = s.cur := rfl
theorem x_issued (s : State) (pc : BitVec 56) (n : Nat) (r : XReg) : (s.issued pc n).x r = s.x r := by
  show (s.issued pc n).me.get r = s.me.get r
  simp [Seq.get]

theorem moved_issued (s : State) (pc : BitVec 56) (n : Nat) : s.Moved (s.issued pc n) pc where
  frame := ownX_issued s pc n
  pc := by simp
  regs r := x_issued s pc n r

theorem moved_advance (s : State) (n : Nat) : s.Moved (s.advance n) (s.me.pc + .ofNat 56 n) := moved_issued ..

theorem wrote_issued (s : State) (xd : XReg) (v : Word) (pc : BitVec 56) (n : Nat) :
    s.Wrote ((s.setX xd v).issued pc n) xd v pc where
  frame := (ownX_setX s xd v).trans (ownX_issued _ pc n)
  pc := by simp
  regs r := by rw [x_issued, x_setX]

theorem wrote_advance (s : State) (xd : XReg) (v : Word) (n : Nat) :
    s.Wrote ((s.setX xd v).advance n) xd v (s.me.pc + .ofNat 56 n) := by
  have := wrote_issued s xd v (s.me.pc + .ofNat 56 n) 1
  simpa [State.advance] using this

/-- A word that computes a register from registers, when it issues. -/
theorem scalar_yes {g : Guard} {regs : List XReg} {xd : XReg} {f : State → Word} {s : State}
    (h : s.Issues streams g (xd :: regs)) :
    ∃ t, scalar g regs xd f s = .next t ∧ s.Wrote t xd (f s) (s.me.pc + 4) :=
  ⟨_, word_yes h, wrote_advance ..⟩

/-- An access enters the issue buffer. -/
theorem queued_enqueue (s : State) (op : IbOp) (xw : XReg) (v : Word) :
    s.Queued (((s.setX xw v).enqueue op).advance 4) op xw v where
  elsewhere := ((ownX_setX s xw v).elsewhere.trans (elsewhere_updMyCtx _ _)).trans (ownX_issued _ _ _).elsewhere
  context := by simp [State.advance, State.issued, State.enqueue]
  others st h := by simp [State.advance, State.issued, State.enqueue, h]
  own := by simp [State.advance, State.enqueue, Seq.kept]
  buffer := by simp [State.advance, State.enqueue, Seq.tag, Seq.level]
  pc := by simp [State.advance, State.enqueue]
  regs r := by
    rw [← x_setX]
    show (((s.setX xw v).enqueue op).advance 4).me.get r = (s.setX xw v).me.get r
    simp [State.advance, State.enqueue, Seq.get]

/-- A word that waits, where no abort line is up. -/
theorem waits_block (s : State) (h : Hold) (hl : s.lineUp s.myCtx = false) : s.Waits (s.block h) h where
  frame := by
    rw [State.block, hl]; exact ownX_updMe s _ rfl
  held := by simp [State.block, hl]
  pc := by simp [State.block, hl]
  regs r := by
    show (s.block h).me.get r = s.me.get r
    simp [State.block, hl, Seq.get]

end Sys2Proof.Machine
end

