-- ==== Sys2Proof/Laws/Course.lean ====
section
/-! SUPPORT. What the shared courses of words and events can do, said once: a word that traps, that waits, whose queue is misused;
a word with wide operands; a matrix word; a take; a step of a command. -/

namespace Sys2Proof.Machine

/-! Traps at issue (R122, R126, R231 to R234). -/

/-- A word's FAULT with no earlier access of its own left: its RUNNING context drains toward the record. -/
theorem raiseReq_drains {s : State} (t : TrapReq) (hr : s.myCtx.st = .running) (hb : s.me.ib = []) :
    s.raiseReq t = s.updMyCtx (fun c =>
      { c with st := .draining, drain := some (.trap t), eventAt := (s.core s.cur.1).cyc }) := by
  have hr' : (s.ctx s.cur.1 (s.bank s.cur.1)).st = .running := hr
  simp [State.raiseReq, hb, State.raise, State.updMyCtx, State.updAct, State.updCtx, hr']

/-- A word's FAULT behind an earlier access of its own: the word has not issued, and nothing changes. -/
theorem raiseReq_waits {s : State} (t : TrapReq) (hb : s.me.ib ≠ []) : s.raiseReq t = s.stall := by
  have : s.me.ib.isEmpty = false := by simpa using hb
  simp [State.raiseReq, this, State.stall]

theorem trap_drains {s : State} (c : Cause) (hr : s.myCtx.st = .running) (hb : s.me.ib = []) :
    s.trap c = s.updMyCtx (fun x =>
      { x with st := .draining, eventAt := (s.core s.cur.1).cyc,
               drain := some (.trap { cause := c, async := false, st := s.cur.2, wpc := s.me.pc }) }) :=
  raiseReq_drains _ hr hb

theorem trap_waits {s : State} (c : Cause) (hb : s.me.ib ≠ []) : s.trap c = s.stall := raiseReq_waits _ hb

/-- A word that waits for a register leaves all but its own standing at issue. -/
theorem ownX_stall (s : State) : s.OwnX s.stall := ownX_updMe s _ rfl
theorem x_stall (s : State) (r : XReg) : s.stall.x r = s.x r := by
  show s.stall.me.get r = s.me.get r
  simp [State.stall, Seq.get]

/-! The course of a word (R57, R58, R125, R141). -/

/-- A word in a stream that does not admit it. -/
theorem word_alien {allowed : List Stream} {g : Guard} {regs : List XReg} {onFalse eff : State → State} {s : State}
    (h : s.cur.2 ∉ allowed) : word allowed g regs onFalse eff s = .next (s.trap .illegalEnc) := by simp [word, h]

/-- A word whose guard names a level that is not active. -/
theorem word_bad {allowed : List Stream} {g : Guard} {regs : List XReg} {onFalse eff : State → State} {s : State}
    (h : slot s.me g = .bad) : word allowed g regs onFalse eff s = .next (s.trap .illegalEnc) := by
  unfold word; split <;> simp_all

/-- A word that names a register still to be written. -/
theorem word_hazard {allowed : List Stream} {g : Guard} {regs : List XReg} {onFalse eff : State → State} {s : State}
    (ha : s.cur.2 ∈ allowed) (hs : slot s.me g = .yes) (hh : hazard s.me regs = true) :
    word allowed g regs onFalse eff s = .next s.stall := by simp [word, ha, hs, hh]

/-- Every outcome of a word is a next state, and one of these five. -/
theorem word_cases {allowed : List Stream} {g : Guard} {regs : List XReg} {onFalse eff : State → State} {s : State}
    {o : Host.Outcome State Fault Refusal} (h : word allowed g regs onFalse eff s = o) :
    (o = .next (s.trap .illegalEnc) ∧ (s.cur.2 ∉ allowed ∨ slot s.me g = .bad)) ∨
    (o = .next (onFalse s) ∧ s.FalseSlot allowed g) ∨
    (o = .next s.stall ∧ s.cur.2 ∈ allowed ∧ slot s.me g = .yes ∧ hazard s.me regs = true) ∨
    (o = .next (eff s) ∧ s.Issues allowed g regs) := by
  subst h
  by_cases ha : s.cur.2 ∈ allowed
  · cases hs : slot s.me g
    · cases hh : hazard s.me regs
      · exact .inr (.inr (.inr ⟨word_yes ⟨ha, hs, hh⟩, ha, hs, hh⟩))
      · exact .inr (.inr (.inl ⟨word_hazard ha hs hh, ha, rfl, rfl⟩))
    · exact .inr (.inl ⟨word_no ⟨ha, hs⟩, ha, hs⟩)
    · exact .inl ⟨word_bad hs, .inr rfl⟩
  · exact .inl ⟨word_alien ha, .inl ha⟩

/-- A word of a queue that its stream may not use so (R61). -/
theorem wordQ_misuse {allowed : List Stream} {g : Guard} {regs : List XReg} {onFalse eff : State → State} {s : State}
    (h : s.cur.2 ∈ allowed) : wordQ allowed true g regs onFalse eff s = .next (s.trap .queueMisuse) := by simp [wordQ, h]
theorem wordQ_fit {allowed : List Stream} {g : Guard} {regs : List XReg} {onFalse eff : State → State} {s : State} :
    wordQ allowed false g regs onFalse eff s = word allowed g regs onFalse eff s := by simp [wordQ]

/-- DETAIL is 0 but for POISON, and there 0 or the mark of MARGIN events (R234, R356). -/
theorem poisonDetail_ne {s : State} {f : Cause} {again : State → Option Cause} (h : f ≠ .poison) :
    s.poisonDetail f again = 0 := by simp [State.poisonDetail, h]
theorem poisonDetail_cases (s : State) (f : Cause) (again : State → Option Cause) :
    s.poisonDetail f again = 0 ∨ s.poisonDetail f again = 0x80 := by
  unfold State.poisonDetail
  split <;> simp

/-! Words with wide operands (R66 to R69, R157). -/

section
variable {g : Guard} {regs : List XReg} {srcs : List WOp} {dst : Option WOp} {fault : State → Option Cause}
  {eff : State → State} {s : State}

theorem wideWord_empty (h : s.Issues [.e] g regs) {q : Nat} (hq : emptySource s.myCtx (sourceQueues srcs) = some q) :
    wideWord g regs srcs dst fault eff s = .next (s.block (.emptyQueue q)) := by simp [wideWord, word_yes h, hq]
theorem wideWord_full (h : s.Issues [.e] g regs) (hq : emptySource s.myCtx (sourceQueues srcs) = none)
    (hy : yFull s.myCtx dst = true) : wideWord g regs srcs dst fault eff s = .next (s.block (.wait (.yRoom ((yOf dst).getD 0)))) := by
  simp [wideWord, word_yes h, hq, hy]
theorem wideWord_fault (h : s.Issues [.e] g regs) (hq : emptySource s.myCtx (sourceQueues srcs) = none)
    (hy : yFull s.myCtx dst = false) {f : Cause} (hf : fault s = some f) :
    wideWord g regs srcs dst fault eff s = .next (s.raiseAt f 0 (s.poisonDetail f fault) 0) := by
  simp [wideWord, word_yes h, hq, hy, hf]
theorem wideWord_runs (h : s.Issues [.e] g regs) (hq : emptySource s.myCtx (sourceQueues srcs) = none)
    (hy : yFull s.myCtx dst = false) (hf : fault s = none) : wideWord g regs srcs dst fault eff s = .next (eff s) := by
  simp [wideWord, word_yes h, hq, hy, hf]
theorem wideWord_false (h : s.FalseSlot [.e] g) :
    wideWord g regs srcs dst fault eff s = .next (falsePop 12 (sourceQueues srcs) s) := by simp [wideWord, word_no h]

/-- A vector word that issues puts its result in flight. -/
theorem vissue_runs {lat : Nat} {plan : Ctx → Nat → (XReg → Word) → VPlan} (h : s.Issues [.e] g regs)
    (hq : emptySource s.myCtx (sourceQueues srcs) = none) (hy : yFull s.myCtx dst = false)
    (hf : planFault s.myCtx s.me.rb.toNat (planOf plan s) = none) :
    vissue g regs lat srcs dst plan s = .next ((s.updMyCtx
      (launchRes (s.core s.cur.1).cyc lat (sourceQueues srcs) dst s.me.tag (planOf plan s).res)).advance 12) :=
  wideWord_runs h hq hy hf
end

/-! Matrix words (R183, R185). -/

section
variable {g : Guard} {compute : Bool} {fault : Ctx → Nat → Option Cause} {entry : Ctx → Nat → MEntry} {extra : Ctx → Ctx}
  {hold : Nat} {s : State}

theorem mWord_closed (h : s.Issues [.e] g []) (hc : compute = true) (hl : s.myCtx.leaseOpen = false) :
    mWord g compute fault entry extra hold s = .next (s.trap .queueMisuse) := by
  simp [mWord, word_yes h, hc, hl, State.poisonDetail, State.trap]
theorem mWord_fault (h : s.Issues [.e] g []) (hl : (compute && !s.myCtx.leaseOpen) = false) {f : Cause}
    (hf : fault s.myCtx s.me.rb.toNat = some f) (hp : f ≠ .poison) :
    mWord g compute fault entry extra hold s = .next (s.trap f) := by
  simp only [mWord, word_yes h, hl, hf, hp, Bool.false_eq_true, if_false, State.poisonDetail, State.trap, false_and]
theorem mWord_full (h : s.Issues [.e] g []) (hl : (compute && !s.myCtx.leaseOpen) = false)
    (hf : fault s.myCtx s.me.rb.toNat = none) (ho : (orderFull s.myCtx || (compute && decide (32 ≤ s.myCtx.credit))) = true) :
    mWord g compute fault entry extra hold s = .next (s.block (.wait (.order compute))) := by
  simp only [mWord, word_yes h, hl, hf, ho, if_true, Bool.false_eq_true, if_false]
end

/-! Steps of commands (R209, R210). -/

/-- The step of a kind does nothing to a command of another kind. -/
theorem kindStep_other {opc cl id : Nat} {s : State} {c : Cmd} (h : Map.find s.cmds id = some c) (ho : c.opc ≠ opc) :
    kindStep opc cl id s = .next s := by simp [kindStep, h, ho]
theorem kindStep_own {opc cl id : Nat} {s : State} {c : Cmd} (h : Map.find s.cmds id = some c) (ho : c.opc = opc) :
    kindStep opc cl id s = .next (s.runStep cl id) := by simp [kindStep, h, ho]
theorem runStep_killed {cl id : Nat} {s : State} {c : Cmd} (h : Map.find s.cmds id = some c) (hp : s.cpeOn cl = true)
    (hr : id ∈ (s.cluster cl).cpe.run) (hk : c.killed = true) : s.runStep cl id = s.removeCmd id := by
  simp [State.runStep, h, hp, hr, hk]

@[simp] theorem find_updCmd_self (s : State) (id : Nat) (f : Cmd → Cmd) :
    Map.find (s.updCmd id f).cmds id = (Map.find s.cmds id).map f := by
  unfold State.updCmd
  cases h : Map.find s.cmds id <;> simp [h]
@[simp] theorem find_updCmd_ne (s : State) {id j : Nat} (f : Cmd → Cmd) (h : j ≠ id) :
    Map.find (s.updCmd id f).cmds j = Map.find s.cmds j := by
  unfold State.updCmd
  cases hf : Map.find s.cmds id <;> simp [h]

end Sys2Proof.Machine
end

