-- ==== Sys2Proof/Laws/Exec.lean ====
section
/-! SUPPORT. The meaning that `exec` calls for each instruction, one equation per constructor. -/

namespace Sys2Proof.Machine

@[simp] theorem exec_add (g : Guard) (xd xa xb : XReg) (s : State) :
    exec (.add g xd xa xb) s = execAdd g xd xa xb s := rfl
@[simp] theorem exec_sub (g : Guard) (xd xa xb : XReg) (s : State) :
    exec (.sub g xd xa xb) s = execSub g xd xa xb s := rfl
@[simp] theorem exec_and (g : Guard) (xd xa xb : XReg) (s : State) :
    exec (.and g xd xa xb) s = execAnd g xd xa xb s := rfl
@[simp] theorem exec_or (g : Guard) (xd xa xb : XReg) (s : State) :
    exec (.or g xd xa xb) s = execOr g xd xa xb s := rfl
@[simp] theorem exec_xor (g : Guard) (xd xa xb : XReg) (s : State) :
    exec (.xor g xd xa xb) s = execXor g xd xa xb s := rfl
@[simp] theorem exec_shl (g : Guard) (xd xa xb : XReg) (s : State) :
    exec (.shl g xd xa xb) s = execShl g xd xa xb s := rfl
@[simp] theorem exec_shr (g : Guard) (xd xa xb : XReg) (s : State) :
    exec (.shr g xd xa xb) s = execShr g xd xa xb s := rfl
@[simp] theorem exec_sra (g : Guard) (xd xa xb : XReg) (s : State) :
    exec (.sra g xd xa xb) s = execSra g xd xa xb s := rfl
@[simp] theorem exec_slt (g : Guard) (xd xa xb : XReg) (s : State) :
    exec (.slt g xd xa xb) s = execSlt g xd xa xb s := rfl
@[simp] theorem exec_sltu (g : Guard) (xd xa xb : XReg) (s : State) :
    exec (.sltu g xd xa xb) s = execSltu g xd xa xb s := rfl
@[simp] theorem exec_min (g : Guard) (xd xa xb : XReg) (s : State) :
    exec (.min g xd xa xb) s = execMin g xd xa xb s := rfl
@[simp] theorem exec_max (g : Guard) (xd xa xb : XReg) (s : State) :
    exec (.max g xd xa xb) s = execMax g xd xa xb s := rfl
@[simp] theorem exec_minu (g : Guard) (xd xa xb : XReg) (s : State) :
    exec (.minu g xd xa xb) s = execMinu g xd xa xb s := rfl
@[simp] theorem exec_maxu (g : Guard) (xd xa xb : XReg) (s : State) :
    exec (.maxu g xd xa xb) s = execMaxu g xd xa xb s := rfl
@[simp] theorem exec_mul (g : Guard) (xd xa xb : XReg) (s : State) :
    exec (.mul g xd xa xb) s = execMul g xd xa xb s := rfl
@[simp] theorem exec_mulh (g : Guard) (xd xa xb : XReg) (s : State) :
    exec (.mulh g xd xa xb) s = execMulh g xd xa xb s := rfl
@[simp] theorem exec_mulhu (g : Guard) (xd xa xb : XReg) (s : State) :
    exec (.mulhu g xd xa xb) s = execMulhu g xd xa xb s := rfl
@[simp] theorem exec_div (g : Guard) (xd xa xb : XReg) (s : State) :
    exec (.div g xd xa xb) s = execDiv g xd xa xb s := rfl
@[simp] theorem exec_divu (g : Guard) (xd xa xb : XReg) (s : State) :
    exec (.divu g xd xa xb) s = execDivu g xd xa xb s := rfl
@[simp] theorem exec_rem (g : Guard) (xd xa xb : XReg) (s : State) :
    exec (.rem g xd xa xb) s = execRem g xd xa xb s := rfl
@[simp] theorem exec_remu (g : Guard) (xd xa xb : XReg) (s : State) :
    exec (.remu g xd xa xb) s = execRemu g xd xa xb s := rfl
@[simp] theorem exec_addi (xd xa : XReg) (imm : BitVec 16) (s : State) :
    exec (.addi xd xa imm) s = execAddi xd xa imm s := rfl
@[simp] theorem exec_andi (xd xa : XReg) (imm : BitVec 16) (s : State) :
    exec (.andi xd xa imm) s = execAndi xd xa imm s := rfl
@[simp] theorem exec_ori (xd xa : XReg) (imm : BitVec 16) (s : State) :
    exec (.ori xd xa imm) s = execOri xd xa imm s := rfl
@[simp] theorem exec_xori (xd xa : XReg) (imm : BitVec 16) (s : State) :
    exec (.xori xd xa imm) s = execXori xd xa imm s := rfl
@[simp] theorem exec_shli (xd xa : XReg) (sh : BitVec 6) (s : State) :
    exec (.shli xd xa sh) s = execShli xd xa sh s := rfl
@[simp] theorem exec_shri (xd xa : XReg) (sh : BitVec 6) (s : State) :
    exec (.shri xd xa sh) s = execShri xd xa sh s := rfl
@[simp] theorem exec_srai (xd xa : XReg) (sh : BitVec 6) (s : State) :
    exec (.srai xd xa sh) s = execSrai xd xa sh s := rfl
@[simp] theorem exec_lui (xd : XReg) (imm : BitVec 20) (s : State) :
    exec (.lui xd imm) s = execLui xd imm s := rfl
@[simp] theorem exec_ext (g : Guard) (xd xa xb : XReg) (s : State) :
    exec (.ext g xd xa xb) s = execExt g xd xa xb s := rfl
@[simp] theorem exec_extu (g : Guard) (xd xa xb : XReg) (s : State) :
    exec (.extu g xd xa xb) s = execExtu g xd xa xb s := rfl
@[simp] theorem exec_ins (g : Guard) (xd xa xb : XReg) (s : State) :
    exec (.ins g xd xa xb) s = execIns g xd xa xb s := rfl
@[simp] theorem exec_clz (g : Guard) (xd xa : XReg) (s : State) :
    exec (.clz g xd xa) s = execClz g xd xa s := rfl
@[simp] theorem exec_ctz (g : Guard) (xd xa : XReg) (s : State) :
    exec (.ctz g xd xa) s = execCtz g xd xa s := rfl
@[simp] theorem exec_popc (g : Guard) (xd xa : XReg) (s : State) :
    exec (.popc g xd xa) s = execPopc g xd xa s := rfl
@[simp] theorem exec_rev8 (g : Guard) (xd xa : XReg) (s : State) :
    exec (.rev8 g xd xa) s = execRev8 g xd xa s := rfl
@[simp] theorem exec_ld (ty : Ty) (xd xa xi : XReg) (imm : BitVec 8) (s : State) :
    exec (.ld ty xd xa xi imm) s = execLd ty xd xa xi imm s := rfl
@[simp] theorem exec_st (ty : Ty) (xd xa xi : XReg) (imm : BitVec 8) (s : State) :
    exec (.st ty xd xa xi imm) s = execSt ty xd xa xi imm s := rfl
@[simp] theorem exec_beq (xa xb : XReg) (off : BitVec 12) (s : State) :
    exec (.beq xa xb off) s = execBeq xa xb off s := rfl
@[simp] theorem exec_bne (xa xb : XReg) (off : BitVec 12) (s : State) :
    exec (.bne xa xb off) s = execBne xa xb off s := rfl
@[simp] theorem exec_blt (xa xb : XReg) (off : BitVec 12) (s : State) :
    exec (.blt xa xb off) s = execBlt xa xb off s := rfl
@[simp] theorem exec_bge (xa xb : XReg) (off : BitVec 12) (s : State) :
    exec (.bge xa xb off) s = execBge xa xb off s := rfl
@[simp] theorem exec_bltu (xa xb : XReg) (off : BitVec 12) (s : State) :
    exec (.bltu xa xb off) s = execBltu xa xb off s := rfl
@[simp] theorem exec_bgeu (xa xb : XReg) (off : BitVec 12) (s : State) :
    exec (.bgeu xa xb off) s = execBgeu xa xb off s := rfl
@[simp] theorem exec_bwany (off : BitVec 12) (s : State) :
    exec (.bwany off) s = execBwany off s := rfl
@[simp] theorem exec_bwall (off : BitVec 12) (s : State) :
    exec (.bwall off) s = execBwall off s := rfl
@[simp] theorem exec_bwnone (off : BitVec 12) (s : State) :
    exec (.bwnone off) s = execBwnone off s := rfl
@[simp] theorem exec_bwcge (xa : XReg) (off : BitVec 12) (s : State) :
    exec (.bwcge xa off) s = execBwcge xa off s := rfl
@[simp] theorem exec_btk (off : BitVec 12) (s : State) :
    exec (.btk off) s = execBtk off s := rfl
@[simp] theorem exec_bnt (off : BitVec 12) (s : State) :
    exec (.bnt off) s = execBnt off s := rfl
@[simp] theorem exec_bal (off : BitVec 12) (s : State) :
    exec (.bal off) s = execBal off s := rfl
@[simp] theorem exec_jal (xd : XReg) (off : BitVec 20) (s : State) :
    exec (.jal xd off) s = execJal xd off s := rfl
@[simp] theorem exec_jalr (xd xa : XReg) (imm : BitVec 16) (s : State) :
    exec (.jalr xd xa imm) s = execJalr xd xa imm s := rfl
@[simp] theorem exec_loopReg (lvl : BitVec 3) (len : BitVec 6) (xa xd : XReg) (s : State) :
    exec (.loopReg lvl len xa xd) s = execLoopReg lvl len xa xd s := rfl
@[simp] theorem exec_loopImm (lvl : BitVec 3) (len cnt : BitVec 6) (xd : XReg) (s : State) :
    exec (.loopImm lvl len cnt xd) s = execLoopImm lvl len cnt xd s := rfl
@[simp] theorem exec_lend (lvl : BitVec 3) (rot : BitVec 8) (brk : Bool) (qm : BitVec 3) (xa xv : XReg) (s : State) :
    exec (.lend lvl rot brk qm xa xv) s = execLend lvl rot brk qm xa xv s := rfl
@[simp] theorem exec_give (g : Guard) (qn cnt : BitVec 4) (s : State) :
    exec (.give g qn cnt) s = execGive g qn cnt s := rfl
@[simp] theorem exec_take (g : Guard) (qn cnt : BitVec 4) (s : State) :
    exec (.take g qn cnt) s = execTake g qn cnt s := rfl
@[simp] theorem exec_tcnt (g : Guard) (qn : BitVec 4) (xa : XReg) (s : State) :
    exec (.tcnt g qn xa) s = execTcnt g qn xa s := rfl
@[simp] theorem exec_tryt (g : Guard) (qn : BitVec 4) (xa : XReg) (cnt : BitVec 4) (s : State) :
    exec (.tryt g qn xa cnt) s = execTryt g qn xa cnt s := rfl
@[simp] theorem exec_bqput (g : Guard) (qn : BitVec 4) (xa : XReg) (s : State) :
    exec (.bqput g qn xa) s = execBqput g qn xa s := rfl
@[simp] theorem exec_qld (g : Guard) (qn : BitVec 4) (xa : XReg) (cnt : BitVec 4) (s : State) :
    exec (.qld g qn xa cnt) s = execQld g qn xa cnt s := rfl
@[simp] theorem exec_qldi (g : Guard) (qn : BitVec 4) (xa : XReg) (cnt : BitVec 4) (s : State) :
    exec (.qldi g qn xa cnt) s = execQldi g qn xa cnt s := rfl
@[simp] theorem exec_qrow (g : Guard) (qn : BitVec 4) (xa : XReg) (cnt : BitVec 4) (s : State) :
    exec (.qrow g qn xa cnt) s = execQrow g qn xa cnt s := rfl
@[simp] theorem exec_qrowi (g : Guard) (qn : BitVec 4) (xa : XReg) (cnt : BitVec 4) (s : State) :
    exec (.qrowi g qn xa cnt) s = execQrowi g qn xa cnt s := rfl
@[simp] theorem exec_qst (g : Guard) (qn : BitVec 4) (xa : XReg) (cnt : BitVec 4) (s : State) :
    exec (.qst g qn xa cnt) s = execQst g qn xa cnt s := rfl
@[simp] theorem exec_qsti (g : Guard) (qn : BitVec 4) (xa : XReg) (cnt : BitVec 4) (s : State) :
    exec (.qsti g qn xa cnt) s = execQsti g qn xa cnt s := rfl
@[simp] theorem exec_qdrop (g : Guard) (qn cnt : BitVec 4) (s : State) :
    exec (.qdrop g qn cnt) s = execQdrop g qn cnt s := rfl
@[simp] theorem exec_push (g : Guard) (xd : XReg) (s : State) :
    exec (.push g xd) s = execPush g xd s := rfl
@[simp] theorem exec_pushb (g : Guard) (xd : XReg) (s : State) :
    exec (.pushb g xd) s = execPushb g xd s := rfl
@[simp] theorem exec_csrr (xd : XReg) (csr : BitVec 12) (s : State) :
    exec (.csrr xd csr) s = execCsrr xd csr s := rfl
@[simp] theorem exec_csrw (csr : BitVec 12) (xa : XReg) (s : State) :
    exec (.csrw csr xa) s = execCsrw csr xa s := rfl
@[simp] theorem exec_csrs (csr : BitVec 12) (xa : XReg) (s : State) :
    exec (.csrs csr xa) s = execCsrs csr xa s := rfl
@[simp] theorem exec_csrc (csr : BitVec 12) (xa : XReg) (s : State) :
    exec (.csrc csr xa) s = execCsrc csr xa s := rfl
@[simp] theorem exec_csrx (xd : XReg) (csr : BitVec 12) (xa : XReg) (s : State) :
    exec (.csrx xd csr xa) s = execCsrx xd csr xa s := rfl
@[simp] theorem exec_nop (s : State) :
    exec (.nop) s = execNop s := rfl
@[simp] theorem exec_halt (s : State) :
    exec (.halt) s = execHalt s := rfl
@[simp] theorem exec_stop (s : State) :
    exec (.stop) s = execStop s := rfl
@[simp] theorem exec_yield (s : State) :
    exec (.yield) s = execYield s := rfl
@[simp] theorem exec_abort (s : State) :
    exec (.abort) s = execAbort s := rfl
@[simp] theorem exec_fence (s : State) :
    exec (.fence) s = execFence s := rfl
@[simp] theorem exec_tide (xd : XReg) (s : State) :
    exec (.tide xd) s = execTide xd s := rfl
@[simp] theorem exec_brk (s : State) :
    exec (.brk) s = execBrk s := rfl
@[simp] theorem exec_rbset (xa : XReg) (imm : BitVec 10) (s : State) :
    exec (.rbset xa imm) s = execRbset xa imm s := rfl
@[simp] theorem exec_vrnd (mode : RMode) (s : State) :
    exec (.vrnd mode) s = execVrnd mode s := rfl
@[simp] theorem exec_reservedMajor (w : BitVec 32) (s : State) :
    exec (.reservedMajor w) s = execReservedMajor w s := rfl
@[simp] theorem exec_rinit (g : Guard) (xd xa : XReg) (s : State) :
    exec (.rinit g xd xa) s = execRinit g xd xa s := rfl
@[simp] theorem exec_rwaitf (g : Guard) (xd xa xb : XReg) (s : State) :
    exec (.rwaitf g xd xa xb) s = execRwaitf g xd xa xb s := rfl
@[simp] theorem exec_rwaite (g : Guard) (xd xa xb : XReg) (s : State) :
    exec (.rwaite g xd xa xb) s = execRwaite g xd xa xb s := rfl
@[simp] theorem exec_rclaim (g : Guard) (xd xa xb : XReg) (s : State) :
    exec (.rclaim g xd xa xb) s = execRclaim g xd xa xb s := rfl
@[simp] theorem exec_rpost (g : Guard) (xa xb : XReg) (s : State) :
    exec (.rpost g xa xb) s = execRpost g xa xb s := rfl
@[simp] theorem exec_rfree (g : Guard) (xa xb : XReg) (s : State) :
    exec (.rfree g xa xb) s = execRfree g xa xb s := rfl
@[simp] theorem exec_crecv (g : Guard) (xd xa : XReg) (c : BitVec 2) (s : State) :
    exec (.crecv g xd xa c) s = execCrecv g xd xa c s := rfl
@[simp] theorem exec_ccnt (g : Guard) (xd : XReg) (c : BitVec 2) (s : State) :
    exec (.ccnt g xd c) s = execCcnt g xd c s := rfl
@[simp] theorem exec_binit (g : Guard) (xd xa xb : XReg) (s : State) :
    exec (.binit g xd xa xb) s = execBinit g xd xa xb s := rfl
@[simp] theorem exec_binitf (g : Guard) (xd xa xb : XReg) (s : State) :
    exec (.binitf g xd xa xb) s = execBinitf g xd xa xb s := rfl
@[simp] theorem exec_bkill (g : Guard) (xa : XReg) (s : State) :
    exec (.bkill g xa) s = execBkill g xa s := rfl
@[simp] theorem exec_barr (g : Guard) (xd xa : XReg) (s : State) :
    exec (.barr g xd xa) s = execBarr g xd xa s := rfl
@[simp] theorem exec_bwait (g : Guard) (xd xa xb : XReg) (s : State) :
    exec (.bwait g xd xa xb) s = execBwait g xd xa xb s := rfl
@[simp] theorem exec_sync (g : Guard) (xd xa : XReg) (s : State) :
    exec (.sync g xd xa) s = execSync g xd xa s := rfl
@[simp] theorem exec_acq (g : Guard) (xd xa : XReg) (s : State) :
    exec (.acq g xd xa) s = execAcq g xd xa s := rfl
@[simp] theorem exec_rel (g : Guard) (xa : XReg) (s : State) :
    exec (.rel g xa) s = execRel g xa s := rfl
@[simp] theorem exec_sbind (g : Guard) (xa xb : XReg) (n : BitVec 2) (s : State) :
    exec (.sbind g xa xb n) s = execSbind g xa xb n s := rfl
@[simp] theorem exec_xbeg (g : Guard) (xd xa : XReg) (s : State) :
    exec (.xbeg g xd xa) s = execXbeg g xd xa s := rfl
@[simp] theorem exec_xend (g : Guard) (xd : XReg) (s : State) :
    exec (.xend g xd) s = execXend g xd s := rfl
@[simp] theorem exec_xabt (g : Guard) (s : State) :
    exec (.xabt g) s = execXabt g s := rfl
@[simp] theorem exec_xst (g : Guard) (xd : XReg) (s : State) :
    exec (.xst g xd) s = execXst g xd s := rfl
@[simp] theorem exec_vadd (c : VCtl) (d a b : WOp) (s : State) :
    exec (.vadd c d a b) s = execVadd c d a b s := rfl
@[simp] theorem exec_vsub (c : VCtl) (d a b : WOp) (s : State) :
    exec (.vsub c d a b) s = execVsub c d a b s := rfl
@[simp] theorem exec_vmul (c : VCtl) (d a b : WOp) (s : State) :
    exec (.vmul c d a b) s = execVmul c d a b s := rfl
@[simp] theorem exec_vfma (c : VCtl) (d a b : WOp) (s : State) :
    exec (.vfma c d a b) s = execVfma c d a b s := rfl
@[simp] theorem exec_vfms (c : VCtl) (d a b : WOp) (s : State) :
    exec (.vfms c d a b) s = execVfms c d a b s := rfl
@[simp] theorem exec_vfnma (c : VCtl) (d a b : WOp) (s : State) :
    exec (.vfnma c d a b) s = execVfnma c d a b s := rfl
@[simp] theorem exec_vmin (c : VCtl) (d a b : WOp) (s : State) :
    exec (.vmin c d a b) s = execVmin c d a b s := rfl
@[simp] theorem exec_vmax (c : VCtl) (d a b : WOp) (s : State) :
    exec (.vmax c d a b) s = execVmax c d a b s := rfl
@[simp] theorem exec_vabs (c : VCtl) (d a : WOp) (s : State) :
    exec (.vabs c d a) s = execVabs c d a s := rfl
@[simp] theorem exec_vneg (c : VCtl) (d a : WOp) (s : State) :
    exec (.vneg c d a) s = execVneg c d a s := rfl
@[simp] theorem exec_vmulh (c : VCtl) (d a b : WOp) (s : State) :
    exec (.vmulh c d a b) s = execVmulh c d a b s := rfl
@[simp] theorem exec_vavg (c : VCtl) (d a b : WOp) (s : State) :
    exec (.vavg c d a b) s = execVavg c d a b s := rfl
@[simp] theorem exec_vand (c : VCtl) (d a b : WOp) (s : State) :
    exec (.vand c d a b) s = execVand c d a b s := rfl
@[simp] theorem exec_vor (c : VCtl) (d a b : WOp) (s : State) :
    exec (.vor c d a b) s = execVor c d a b s := rfl
@[simp] theorem exec_vxor (c : VCtl) (d a b : WOp) (s : State) :
    exec (.vxor c d a b) s = execVxor c d a b s := rfl
@[simp] theorem exec_vnot (c : VCtl) (d a : WOp) (s : State) :
    exec (.vnot c d a) s = execVnot c d a s := rfl
@[simp] theorem exec_vshl (c : VCtl) (d a b : WOp) (s : State) :
    exec (.vshl c d a b) s = execVshl c d a b s := rfl
@[simp] theorem exec_vshr (c : VCtl) (d a b : WOp) (s : State) :
    exec (.vshr c d a b) s = execVshr c d a b s := rfl
@[simp] theorem exec_vsra (c : VCtl) (d a b : WOp) (s : State) :
    exec (.vsra c d a b) s = execVsra c d a b s := rfl
@[simp] theorem exec_vrol (c : VCtl) (d a b : WOp) (s : State) :
    exec (.vrol c d a b) s = execVrol c d a b s := rfl
@[simp] theorem exec_vrcp (c : VCtl) (d a : WOp) (s : State) :
    exec (.vrcp c d a) s = execVrcp c d a s := rfl
@[simp] theorem exec_vrsq (c : VCtl) (d a : WOp) (s : State) :
    exec (.vrsq c d a) s = execVrsq c d a s := rfl
@[simp] theorem exec_vsqrt (c : VCtl) (d a : WOp) (s : State) :
    exec (.vsqrt c d a) s = execVsqrt c d a s := rfl
@[simp] theorem exec_vexp2 (c : VCtl) (d a : WOp) (s : State) :
    exec (.vexp2 c d a) s = execVexp2 c d a s := rfl
@[simp] theorem exec_vlog2 (c : VCtl) (d a : WOp) (s : State) :
    exec (.vlog2 c d a) s = execVlog2 c d a s := rfl
@[simp] theorem exec_vtanh (c : VCtl) (d a : WOp) (s : State) :
    exec (.vtanh c d a) s = execVtanh c d a s := rfl
@[simp] theorem exec_vsigm (c : VCtl) (d a : WOp) (s : State) :
    exec (.vsigm c d a) s = execVsigm c d a s := rfl
@[simp] theorem exec_vcvt (c : VCtl) (d a : WOp) (sty : Ty) (s : State) :
    exec (.vcvt c d a sty) s = execVcvt c d a sty s := rfl
@[simp] theorem exec_vquant (c : VCtl) (d a b : WOp) (s : State) :
    exec (.vquant c d a b) s = execVquant c d a b s := rfl
@[simp] theorem exec_vdequant (c : VCtl) (d a b : WOp) (s : State) :
    exec (.vdequant c d a b) s = execVdequant c d a b s := rfl
@[simp] theorem exec_vclamp (c : VCtl) (d a b : WOp) (s : State) :
    exec (.vclamp c d a b) s = execVclamp c d a b s := rfl
@[simp] theorem exec_vpack (c : VCtl) (d a b : WOp) (s : State) :
    exec (.vpack c d a b) s = execVpack c d a b s := rfl
@[simp] theorem exec_vceq (c : VCtl) (md : MReg) (a b : WOp) (s : State) :
    exec (.vceq c md a b) s = execVceq c md a b s := rfl
@[simp] theorem exec_vcne (c : VCtl) (md : MReg) (a b : WOp) (s : State) :
    exec (.vcne c md a b) s = execVcne c md a b s := rfl
@[simp] theorem exec_vclt (c : VCtl) (md : MReg) (a b : WOp) (s : State) :
    exec (.vclt c md a b) s = execVclt c md a b s := rfl
@[simp] theorem exec_vcle (c : VCtl) (md : MReg) (a b : WOp) (s : State) :
    exec (.vcle c md a b) s = execVcle c md a b s := rfl
@[simp] theorem exec_vcun (c : VCtl) (md : MReg) (a b : WOp) (s : State) :
    exec (.vcun c md a b) s = execVcun c md a b s := rfl
@[simp] theorem exec_vmand (g : Guard) (md ma mb : MReg) (s : State) :
    exec (.vmand g md ma mb) s = execVmand g md ma mb s := rfl
@[simp] theorem exec_vmor (g : Guard) (md ma mb : MReg) (s : State) :
    exec (.vmor g md ma mb) s = execVmor g md ma mb s := rfl
@[simp] theorem exec_vmxor (g : Guard) (md ma mb : MReg) (s : State) :
    exec (.vmxor g md ma mb) s = execVmxor g md ma mb s := rfl
@[simp] theorem exec_vmandn (g : Guard) (md ma mb : MReg) (s : State) :
    exec (.vmandn g md ma mb) s = execVmandn g md ma mb s := rfl
@[simp] theorem exec_vflags (g : Guard) (ty : Ty) (ma : MReg) (s : State) :
    exec (.vflags g ty ma) s = execVflags g ty ma s := rfl
@[simp] theorem exec_vsel (c : VCtl) (d a b : WOp) (s : State) :
    exec (.vsel c d a b) s = execVsel c d a b s := rfl
@[simp] theorem exec_vperm (c : VCtl) (d a b : WOp) (s : State) :
    exec (.vperm c d a b) s = execVperm c d a b s := rfl
@[simp] theorem exec_vbcast (c : VCtl) (d a : WOp) (xs : XReg) (idx : BitVec 7) (s : State) :
    exec (.vbcast c d a xs idx) s = execVbcast c d a xs idx s := rfl
@[simp] theorem exec_vslup (c : VCtl) (d a : WOp) (xf : XReg) (amt : BitVec 7) (s : State) :
    exec (.vslup c d a xf amt) s = execVslup c d a xf amt s := rfl
@[simp] theorem exec_vsldn (c : VCtl) (d a : WOp) (xf : XReg) (amt : BitVec 7) (s : State) :
    exec (.vsldn c d a xf amt) s = execVsldn c d a xf amt s := rfl
@[simp] theorem exec_vzip (g : Guard) (ty : Ty) (d a b : WOp) (s : State) :
    exec (.vzip g ty d a b) s = execVzip g ty d a b s := rfl
@[simp] theorem exec_vunzip (g : Guard) (ty : Ty) (d a : WOp) (s : State) :
    exec (.vunzip g ty d a) s = execVunzip g ty d a s := rfl
@[simp] theorem exec_vrsum (c : VCtl) (d a : WOp) (s : State) :
    exec (.vrsum c d a) s = execVrsum c d a s := rfl
@[simp] theorem exec_vrmax (c : VCtl) (d a : WOp) (s : State) :
    exec (.vrmax c d a) s = execVrmax c d a s := rfl
@[simp] theorem exec_vrmin (c : VCtl) (d a : WOp) (s : State) :
    exec (.vrmin c d a) s = execVrmin c d a s := rfl
@[simp] theorem exec_vaccrd (c : VCtl) (d : WOp) (acs : AcsAddr) (s : State) :
    exec (.vaccrd c d acs) s = execVaccrd c d acs s := rfl
@[simp] theorem exec_vaccwr (c : VCtl) (acs : AcsAddr) (a : WOp) (s : State) :
    exec (.vaccwr c acs a) s = execVaccwr c acs a s := rfl
@[simp] theorem exec_wspill (g : Guard) (sp : SpAddr) (w : WStart) (cnt : BitVec 24) (s : State) :
    exec (.wspill g sp w cnt) s = execWspill g sp w cnt s := rfl
@[simp] theorem exec_wfill (g : Guard) (w : WStart) (sp : SpAddr) (cnt : BitVec 24) (s : State) :
    exec (.wfill g w sp cnt) s = execWfill g w sp cnt s := rfl
@[simp] theorem exec_defer (c : VCtl) (a : WOp) (tag : BitVec 4) (xi : XReg) (k : BitVec 5) (s : State) :
    exec (.defer c a tag xi k) s = execDefer c a tag xi k s := rfl
@[simp] theorem exec_drain (g : Guard) (ty : Ty) (d idx : WOp) (md : MReg) (tag : BitVec 4) (k : BitVec 5) (s : State) :
    exec (.drain g ty d idx md tag k) s = execDrain g ty d idx md tag k s := rfl
@[simp] theorem exec_vectorLand (core : Nat) (s : State) :
    exec (.vectorLand core) s = execVectorLand core s := rfl
@[simp] theorem exec_mma (m : Mma) (s : State) :
    exec (.mma m) s = execMma m s := rfl
@[simp] theorem exec_mlatch (g : Guard) (ty : Ty) (bbuf : Bool) (brow : BitVec 11) (btr : Bool) (s : State) :
    exec (.mlatch g ty bbuf brow btr) s = execMlatch g ty bbuf brow btr s := rfl
@[simp] theorem exec_mzero (g : Guard) (act : BitVec 4) (s : State) :
    exec (.mzero g act) s = execMzero g act s := rfl
@[simp] theorem exec_mtcopy (g : Guard) (act src : BitVec 4) (s : State) :
    exec (.mtcopy g act src) s = execMtcopy g act src s := rfl
@[simp] theorem exec_mtadd (g : Guard) (ty : Ty) (act src : BitVec 4) (s : State) :
    exec (.mtadd g ty act src) s = execMtadd g ty act src s := rfl
@[simp] theorem exec_mtscale (g : Guard) (ty : Ty) (act : BitVec 4) (tfill : BitVec 16) (s : State) :
    exec (.mtscale g ty act tfill) s = execMtscale g ty act tfill s := rfl
@[simp] theorem exec_mtout (g : Guard) (ty : Ty) (act : BitVec 4) (mm1 : BitVec 7) (rows : SpRows) (s : State) :
    exec (.mtout g ty act mm1 rows) s = execMtout g ty act mm1 rows s := rfl
@[simp] theorem exec_mrnd (g : Guard) (mode : RMode) (s : State) :
    exec (.mrnd g mode) s = execMrnd g mode s := rfl
@[simp] theorem exec_mlease (g : Guard) (s : State) :
    exec (.mlease g) s = execMlease g s := rfl
@[simp] theorem exec_mfree (g : Guard) (s : State) :
    exec (.mfree g) s = execMfree g s := rfl
@[simp] theorem exec_mwait (g : Guard) (s : State) :
    exec (.mwait g) s = execMwait g s := rfl
@[simp] theorem exec_matrixOrderHead (core : Nat) (s : State) :
    exec (.matrixOrderHead core) s = execMatrixOrderHead core s := rfl
@[simp] theorem exec_vaccwrApply (core : Nat) (s : State) :
    exec (.vaccwrApply core) s = execVaccwrApply core s := rfl
@[simp] theorem exec_grant (cl : Nat) (s : State) :
    exec (.grant cl) s = execGrant cl s := rfl
@[simp] theorem exec_mxaStart (cl : Nat) (s : State) :
    exec (.mxaStart cl) s = execMxaStart cl s := rfl
@[simp] theorem exec_matrixComplete (cl : Nat) (s : State) :
    exec (.matrixComplete cl) s = execMatrixComplete cl s := rfl
@[simp] theorem exec_termIdle (cl : Nat) (s : State) :
    exec (.termIdle cl) s = execTermIdle cl s := rfl
@[simp] theorem exec_accessPerform (core : Nat) (st : Stream) (s : State) :
    exec (.accessPerform core st) s = execAccessPerform core st s := rfl
@[simp] theorem exec_storeDrain (core : Nat) (s : State) :
    exec (.storeDrain core) s = execStoreDrain core s := rfl
@[simp] theorem exec_cpeDequeue (cl : Nat) (s : State) :
    exec (.cpeDequeue cl) s = execCpeDequeue cl s := rfl
@[simp] theorem exec_cpeStep (cl id : Nat) (s : State) :
    exec (.cpeStep cl id) s = execCpeStep cl id s := rfl
@[simp] theorem exec_commandComplete (cl id : Nat) (s : State) :
    exec (.commandComplete cl id) s = execCommandComplete cl id s := rfl
@[simp] theorem exec_copy1 (cl id : Nat) (s : State) :
    exec (.copy1 cl id) s = execCopy1 cl id s := rfl
@[simp] theorem exec_copy2 (cl id : Nat) (s : State) :
    exec (.copy2 cl id) s = execCopy2 cl id s := rfl
@[simp] theorem exec_copy3 (cl id : Nat) (s : State) :
    exec (.copy3 cl id) s = execCopy3 cl id s := rfl
@[simp] theorem exec_gather (cl id : Nat) (s : State) :
    exec (.gather cl id) s = execGather cl id s := rfl
@[simp] theorem exec_scatter (cl id : Nat) (s : State) :
    exec (.scatter cl id) s = execScatter cl id s := rfl
@[simp] theorem exec_accum (cl id : Nat) (s : State) :
    exec (.accum cl id) s = execAccum cl id s := rfl
@[simp] theorem exec_fill (cl id : Nat) (s : State) :
    exec (.fill cl id) s = execFill cl id s := rfl
@[simp] theorem exec_coll (cl id : Nat) (s : State) :
    exec (.coll cl id) s = execColl cl id s := rfl
@[simp] theorem exec_culvert (cl id : Nat) (s : State) :
    exec (.culvert cl id) s = execCulvert cl id s := rfl
@[simp] theorem exec_signal (cl id : Nat) (s : State) :
    exec (.signal cl id) s = execSignal cl id s := rfl
@[simp] theorem exec_t2pf (cl id : Nat) (s : State) :
    exec (.t2pf cl id) s = execT2pf cl id s := rfl
@[simp] theorem exec_migrate (cl id : Nat) (s : State) :
    exec (.migrate cl id) s = execMigrate cl id s := rfl
@[simp] theorem exec_inval (cl id : Nat) (s : State) :
    exec (.inval cl id) s = execInval cl id s := rfl
@[simp] theorem exec_launch (cl id : Nat) (s : State) :
    exec (.launch cl id) s = execLaunch cl id s := rfl
@[simp] theorem exec_owner (cl id : Nat) (s : State) :
    exec (.owner cl id) s = execOwner cl id s := rfl
@[simp] theorem exec_invalidationComplete (id : Nat) (s : State) :
    exec (.invalidationComplete id) s = execInvalidationComplete id s := rfl
@[simp] theorem exec_trap (core : Nat) (s : State) :
    exec (.trap core) s = execTrap core s := rfl
@[simp] theorem exec_clear (core : Nat) (s : State) :
    exec (.clear core) s = execClear core s := rfl
@[simp] theorem exec_faultRecordWrite (core : Nat) (s : State) :
    exec (.faultRecordWrite core) s = execFaultRecordWrite core s := rfl
@[simp] theorem exec_faultPolicy (core bank : Nat) (s : State) :
    exec (.faultPolicy core bank) s = execFaultPolicy core bank s := rfl
@[simp] theorem exec_swap (core : Nat) (s : State) :
    exec (.swap core) s = execSwap core s := rfl
@[simp] theorem exec_swapDone (core : Nat) (s : State) :
    exec (.swapDone core) s = execSwapDone core s := rfl
@[simp] theorem exec_resume (terp : Nat) (value : BitVec 32) (s : State) :
    exec (.resume terp value) s = execResume terp value s := rfl
@[simp] theorem exec_ceFreeze (u : FreezeUnit) (s : State) :
    exec (.ceFreeze u) s = execCeFreeze u s := rfl
@[simp] theorem exec_freezeEnd (u : FreezeUnit) (s : State) :
    exec (.freezeEnd u) s = execFreezeEnd u s := rfl
@[simp] theorem exec_clockHopDone (island : Nat) (s : State) :
    exec (.clockHopDone island) s = execClockHopDone island s := rfl
@[simp] theorem exec_doorbell (q off : Nat) (data : List Byte) (s : State) :
    exec (.doorbell q off data) s = execDoorbell q off data s := rfl
@[simp] theorem exec_qsync (terp : Nat) (index : BitVec 20) (s : State) :
    exec (.qsync terp index) s = execQsync terp index s := rfl
@[simp] theorem exec_qsyncRelease (terp : Nat) (index : BitVec 20) (s : State) :
    exec (.qsyncRelease terp index) s = execQsyncRelease terp index s := rfl
@[simp] theorem exec_qsyncWriteback (terp : Nat) (s : State) :
    exec (.qsyncWriteback terp) s = execQsyncWriteback terp s := rfl
@[simp] theorem exec_rfetch (rd rs1 rs2 : BitVec 5) (s : State) :
    exec (.rfetch rd rs1 rs2) s = execRfetch rd rs1 rs2 s := rfl
@[simp] theorem exec_bfx (rd rs1 rs2 : BitVec 5) (s : State) :
    exec (.bfx rd rs1 rs2) s = execBfx rd rs1 rs2 s := rfl
@[simp] theorem exec_swait (rd rs1 rs2 : BitVec 5) (s : State) :
    exec (.swait rd rs1 rs2) s = execSwait rd rs1 rs2 s := rfl
@[simp] theorem exec_dispatch (rd rs1 rs2 : BitVec 5) (s : State) :
    exec (.dispatch rd rs1 rs2) s = execDispatch rd rs1 rs2 s := rfl
@[simp] theorem exec_nopEntry (q : Nat) (s : State) :
    exec (.nopEntry q) s = execNopEntry q s := rfl
@[simp] theorem exec_chainEntry (q : Nat) (s : State) :
    exec (.chainEntry q) s = execChainEntry q s := rfl
@[simp] theorem exec_swaitEntry (q : Nat) (s : State) :
    exec (.swaitEntry q) s = execSwaitEntry q s := rfl
@[simp] theorem exec_queueSignal (q : Nat) (s : State) :
    exec (.queueSignal q) s = execQueueSignal q s := rfl
@[simp] theorem exec_swriteEntry (q : Nat) (s : State) :
    exec (.swriteEntry q) s = execSwriteEntry q s := rfl
@[simp] theorem exec_fenceEntry (q : Nat) (s : State) :
    exec (.fenceEntry q) s = execFenceEntry q s := rfl
@[simp] theorem exec_operatorActivate (fep : Nat) (s : State) :
    exec (.operatorActivate fep) s = execOperatorActivate fep s := rfl
@[simp] theorem exec_watchdogExpiry (q : Nat) (s : State) :
    exec (.watchdogExpiry q) s = execWatchdogExpiry q s := rfl
@[simp] theorem exec_scrubComplete (polder : Nat) (s : State) :
    exec (.scrubComplete polder) s = execScrubComplete polder s := rfl
@[simp] theorem exec_noticeWrite (fep : Nat) (s : State) :
    exec (.noticeWrite fep) s = execNoticeWrite fep s := rfl
@[simp] theorem exec_stageEvaluation (rcb : Nat) (s : State) :
    exec (.stageEvaluation rcb) s = execStageEvaluation rcb s := rfl
@[simp] theorem exec_groupPlace (rcb stage : Nat) (s : State) :
    exec (.groupPlace rcb stage) s = execGroupPlace rcb stage s := rfl
@[simp] theorem exec_groupRetire (core bank : Nat) (s : State) :
    exec (.groupRetire core bank) s = execGroupRetire core bank s := rfl
@[simp] theorem exec_preempt (core : Nat) (s : State) :
    exec (.preempt core) s = execPreempt core s := rfl
@[simp] theorem exec_groupRestore (rcb stage gidx : Nat) (s : State) :
    exec (.groupRestore rcb stage gidx) s = execGroupRestore rcb stage gidx s := rfl
@[simp] theorem exec_thermalMigration (core : Nat) (s : State) :
    exec (.thermalMigration core) s = execThermalMigration core s := rfl
@[simp] theorem exec_migrationRequest (core reading : Nat) (s : State) :
    exec (.migrationRequest core reading) s = execMigrationRequest core reading s := rfl
@[simp] theorem exec_thermalRelease (core reading : Nat) (s : State) :
    exec (.thermalRelease core reading) s = execThermalRelease core reading s := rfl
@[simp] theorem exec_pageMove (id : Nat) (s : State) :
    exec (.pageMove id) s = execPageMove id s := rfl
@[simp] theorem exec_pageEngineScan (polder : Nat) (s : State) :
    exec (.pageEngineScan polder) s = execPageEngineScan polder s := rfl
@[simp] theorem exec_hostInval (terp : Nat) (value : BitVec 64) (s : State) :
    exec (.hostInval terp value) s = execHostInval terp value s := rfl
@[simp] theorem exec_dredgerStep (line : Nat) (s : State) :
    exec (.dredgerStep line) s = execDredgerStep line s := rfl
@[simp] theorem exec_lowtideUpdate (terp : Nat) (s : State) :
    exec (.lowtideUpdate terp) s = execLowtideUpdate terp s := rfl
@[simp] theorem exec_patrolScrub (line : Nat) (found : ScrubFinding) (s : State) :
    exec (.patrolScrub line found) s = execPatrolScrub line found s := rfl
@[simp] theorem exec_undervoltWindow (island : Nat) (ends : Bool) (found : Option ErrSite) (s : State) :
    exec (.undervoltWindow island ends found) s = execUndervoltWindow island ends found s := rfl
@[simp] theorem exec_arbiterInterval (s : State) :
    exec (.arbiterInterval) s = execArbiterInterval s := rfl
@[simp] theorem exec_droopStart (island : Nat) (s : State) :
    exec (.droopStart island) s = execDroopStart island s := rfl
@[simp] theorem exec_droopEnd (island : Nat) (s : State) :
    exec (.droopEnd island) s = execDroopEnd island s := rfl
@[simp] theorem exec_unitArrival (sv : Server) (polder : Nat) (line : LineUnit) (s : State) :
    exec (.unitArrival sv polder line) s = execUnitArrival sv polder line s := rfl
@[simp] theorem exec_unitService (sv : Server) (s : State) :
    exec (.unitService sv) s = execUnitService sv s := rfl
@[simp] theorem exec_dlkTrain (port : Nat) (s : State) :
    exec (.dlkTrain port) s = execDlkTrain port s := rfl
@[simp] theorem exec_dlkDisable (port : Nat) (s : State) :
    exec (.dlkDisable port) s = execDlkDisable port s := rfl
@[simp] theorem exec_trainDone (port delay pdev pport : Nat) (s : State) :
    exec (.trainDone port delay pdev pport) s = execTrainDone port delay pdev pport s := rfl
@[simp] theorem exec_trainTimeout (port : Nat) (s : State) :
    exec (.trainTimeout port) s = execTrainTimeout port s := rfl
@[simp] theorem exec_loss (port : Nat) (s : State) :
    exec (.loss port) s = execLoss port s := rfl
@[simp] theorem exec_dlkDrained (port : Nat) (s : State) :
    exec (.dlkDrained port) s = execDlkDrained port s := rfl
@[simp] theorem exec_idleFlit (port : Nat) (s : State) :
    exec (.idleFlit port) s = execIdleFlit port s := rfl
@[simp] theorem exec_flitWrite (port : Nat) (f : Flit) (s : State) :
    exec (.flitWrite port f) s = execFlitWrite port f s := rfl
@[simp] theorem exec_flitReduce (port : Nat) (f : Flit) (rt : Nat) (s : State) :
    exec (.flitReduce port f rt) s = execFlitReduce port f rt s := rfl
@[simp] theorem exec_signalFlit (port : Nat) (f : Flit) (add : Bool) (s : State) :
    exec (.signalFlit port f add) s = execSignalFlit port f add s := rfl
@[simp] theorem exec_ack (port seq : Nat) (refused : Bool) (s : State) :
    exec (.ack port seq refused) s = execAck port seq refused s := rfl
@[simp] theorem exec_nak (port seq : Nat) (s : State) :
    exec (.nak port seq) s = execNak port seq s := rfl
@[simp] theorem exec_credit (port n : Nat) (s : State) :
    exec (.credit port n) s = execCredit port n s := rfl
@[simp] theorem exec_remapack (port : Nat) (f : Flit) (len : Nat) (s : State) :
    exec (.remapack port f len) s = execRemapack port f len s := rfl
@[simp] theorem exec_fwddone (port : Nat) (f : Flit) (len : Nat) (s : State) :
    exec (.fwddone port f len) s = execFwddone port f len s := rfl
@[simp] theorem exec_lrswWrite (value : BitVec 64) (s : State) :
    exec (.lrswWrite value) s = execLrswWrite value s := rfl
@[simp] theorem exec_fwdStateWrite (idx : Nat) (state : BitVec 2) (s : State) :
    exec (.fwdStateWrite idx state) s = execFwdStateWrite idx state s := rfl
@[simp] theorem exec_t2PortLost (port : Nat) (unread unwritten : List Nat) (s : State) :
    exec (.t2PortLost port unread unwritten) s = execT2PortLost port unread unwritten s := rfl
@[simp] theorem exec_hostLinkDown (s : State) :
    exec (.hostLinkDown) s = execHostLinkDown s := rfl
@[simp] theorem exec_hostLinkUp (s : State) :
    exec (.hostLinkUp) s = execHostLinkUp s := rfl
@[simp] theorem exec_polderStart (polder : Nat) (s : State) :
    exec (.polderStart polder) s = execPolderStart polder s := rfl
@[simp] theorem exec_polderStop (polder : Nat) (s : State) :
    exec (.polderStop polder) s = execPolderStop polder s := rfl
@[simp] theorem exec_sliceend (polder : Nat) (s : State) :
    exec (.sliceend polder) s = execSliceend polder s := rfl
@[simp] theorem exec_slicestart (polder : Nat) (s : State) :
    exec (.slicestart polder) s = execSlicestart polder s := rfl
@[simp] theorem exec_polderReset (polder : Nat) (s : State) :
    exec (.polderReset polder) s = execPolderReset polder s := rfl
@[simp] theorem exec_islandPowerState (island : Nat) (pst : BitVec 2) (s : State) :
    exec (.islandPowerState island pst) s = execIslandPowerState island pst s := rfl
@[simp] theorem exec_islandDivisorPermit (island : Nat) (divok : BitVec 15) (s : State) :
    exec (.islandDivisorPermit island divok) s = execIslandDivisorPermit island divok s := rfl
@[simp] theorem exec_sensovrWrite (terp : Nat) (value : BitVec 32) (s : State) :
    exec (.sensovrWrite terp value) s = execSensovrWrite terp value s := rfl
@[simp] theorem exec_revoke (own : Nat) (s : State) :
    exec (.revoke own) s = execRevoke own s := rfl
@[simp] theorem exec_assign (own polder : Nat) (s : State) :
    exec (.assign own polder) s = execAssign own polder s := rfl
@[simp] theorem exec_weight (polder cls wgt : Nat) (s : State) :
    exec (.weight polder cls wgt) s = execWeight polder cls wgt s := rfl
@[simp] theorem exec_leveeEvaluate (s : State) :
    exec (.leveeEvaluate) s = execLeveeEvaluate s := rfl
@[simp] theorem exec_registerWrite (terp off : Nat) (value : BitVec 64) (s : State) :
    exec (.registerWrite terp off value) s = execRegisterWrite terp off value s := rfl
@[simp] theorem exec_packageReset (img : Option ConfigImage) (s : State) :
    exec (.packageReset img) s = execPackageReset img s := rfl
@[simp] theorem exec_hostMemoryWrite (w : HostWrite) (s : State) :
    exec (.hostMemoryWrite w) s = execHostMemoryWrite w s := rfl
@[simp] theorem exec_nominalVoltageRestored (island : Nat) (s : State) :
    exec (.nominalVoltageRestored island) s = execNominalVoltageRestored island s := rfl
@[simp] theorem exec_tileRowWrite (cl : Nat) (s : State) :
    exec (.tileRowWrite cl) s = execTileRowWrite cl s := rfl
@[simp] theorem exec_imageLoad (polder : Nat) (img : ImageFile) (s : State) :
    exec (.imageLoad polder img) s = execImageLoad polder img s := rfl

end Sys2Proof.Machine
end

