-- ==== Sys2Proof/Laws/Memory.lean ====
section
/-! SUPPORT. Memory: reads after writes, byte by byte and range by range, and the canonical form that every memory operation
keeps. -/

namespace Sys2Proof.Machine

/-! Reads after writes. -/

@[simp] theorem readByte_writeByte_self (s : State) (a : Nat) (b : Byte) : (s.writeByte a b).readByte a = b := by
  simp [State.readByte, State.writeByte]
@[simp] theorem readByte_writeByte_ne (s : State) {a j : Nat} (b : Byte) (h : j ≠ a) :
    (s.writeByte a b).readByte j = s.readByte j := by
  simp [State.readByte, State.writeByte, h]

/-- A write of bytes is seen at each of its bytes and nowhere else. -/
theorem readByte_writeBytes (l : List Byte) (s : State) (pa a : Nat) :
    (s.writeBytes pa l).readByte a = if pa ≤ a ∧ a < pa + l.length then l.getD (a - pa) 0 else s.readByte a := by
  induction l generalizing s pa with
  | nil => simp [State.writeBytes] <;> omega
  | cons b t ih =>
    rw [State.writeBytes, ih]
    by_cases h : a = pa
    · subst h; rw [if_neg (by omega), if_pos (by simp)]; simp
    · by_cases h2 : pa + 1 ≤ a ∧ a < pa + 1 + t.length
      · rw [if_pos h2, if_pos (by simp; omega)]
        have : a - pa = (a - (pa + 1)) + 1 := by omega
        simp [this]
      · rw [if_neg h2, if_neg (by simp; omega), readByte_writeByte_ne _ _ h]

/-- A write of bytes leaves every byte outside it. -/
theorem readByte_writeBytes_out (s : State) {pa a : Nat} {l : List Byte} (h : a < pa ∨ pa + l.length ≤ a) :
    (s.writeBytes pa l).readByte a = s.readByte a := by
  rw [readByte_writeBytes, if_neg (by omega)]

@[simp] theorem length_readBytes (s : State) (pa n : Nat) : (s.readBytes pa n).length = n := by
  induction n generalizing pa with
  | zero => rfl
  | succ n ih => simp [State.readBytes, ih]

/-- A range read is the bytes it covers. -/
theorem readBytes_congr {s t : State} {pa n : Nat} (h : ∀ a, pa ≤ a → a < pa + n → t.readByte a = s.readByte a) :
    t.readBytes pa n = s.readBytes pa n := by
  induction n generalizing pa with
  | zero => rfl
  | succ n ih =>
    rw [State.readBytes, State.readBytes, h pa (Nat.le_refl _) (by omega), ih (fun a h1 h2 => h a (by omega) (by omega))]

/-- What was written is what is read. -/
theorem readBytes_writeBytes_self (l : List Byte) (s : State) (pa : Nat) :
    (s.writeBytes pa l).readBytes pa l.length = l := by
  induction l generalizing s pa with
  | nil => rfl
  | cons b t ih =>
    rw [State.writeBytes, List.length_cons, State.readBytes, ih, readByte_writeBytes_out _ (Or.inl (by omega)),
      readByte_writeByte_self]

/-- A range apart from a write reads as before. -/
theorem readBytes_writeBytes_out (s : State) {pa a n : Nat} {l : List Byte} (h : a + n ≤ pa ∨ pa + l.length ≤ a) :
    (s.writeBytes pa l).readBytes a n = s.readBytes a n :=
  readBytes_congr (fun _ _ _ => readByte_writeBytes_out _ (by omega))

@[simp] theorem length_leBytes (n v : Nat) : (leBytes n v).length = n := by
  induction n generalizing v with
  | zero => rfl
  | succ n ih => simp [leBytes, ih]

theorem leOf_leBytes (n v : Nat) (h : v < 256 ^ n) : leOf (leBytes n v) = v := by
  induction n generalizing v with
  | zero => simp at h; subst h; rfl
  | succ n ih =>
    have h1 : v / 256 < 256 ^ n := by rw [Nat.div_lt_iff_lt_mul (by omega)]; rwa [Nat.pow_succ] at h
    simp only [leBytes, leOf, ih _ h1, BitVec.toNat_ofNat]
    omega

/-- A little-endian number read back from where it was written (R3). -/
theorem readLE_writeLE_self (s : State) (pa n v : Nat) (h : v < 256 ^ n) : (s.writeLE pa n v).readLE pa n = v := by
  have := readBytes_writeBytes_self (leBytes n v) s pa
  rw [length_leBytes] at this
  rw [State.readLE, State.writeLE, this, leOf_leBytes n v h]

/-- A number apart from a write reads as before. -/
theorem readLE_writeBytes_out (s : State) {pa a n : Nat} {l : List Byte} (h : a + n ≤ pa ∨ pa + l.length ≤ a) :
    (s.writeBytes pa l).readLE a n = s.readLE a n := by
  rw [State.readLE, readBytes_writeBytes_out s h, State.readLE]

theorem get_filter_out {α : Type} (d : α) (m : Map α) (p : Nat × α → Bool) {k : Nat} (h : ∀ v, p (k, v) = true) :
    Map.get d (m.filter p) k = Map.get d m k := by
  induction m with
  | nil => rfl
  | cons e t ih =>
    obtain ⟨j, v⟩ := e
    simp only [List.filter_cons, Map.get]
    by_cases hj : j = k
    · subst hj; simp [h v, Map.get]
    · split <;> simp [Map.get, hj, ih]

theorem get_filter_in {α : Type} (d : α) (m : Map α) (p : Nat × α → Bool) {k : Nat} (h : ∀ v, p (k, v) = false) :
    Map.get d (m.filter p) k = d := by
  induction m with
  | nil => rfl
  | cons e t ih =>
    obtain ⟨j, v⟩ := e
    simp only [List.filter_cons]
    by_cases hj : j = k
    · subst hj; simp [h v, ih]
    · split <;> simp [Map.get, hj, ih]

/-- A cleared range reads 0, and the rest as before. -/
theorem readByte_zeroRange (s : State) (lo n a : Nat) :
    (s.zeroRange lo n).readByte a = if lo ≤ a ∧ a < lo + n then 0 else s.readByte a := by
  unfold State.readByte State.zeroRange
  split
  · exact get_filter_in _ _ _ (fun v => by simp; omega)
  · exact get_filter_out _ _ _ (fun v => by simp; omega)

/-! The canonical form. -/

theorem inv_of_mem {s t : State} (hm : t.mem = s.mem) (h : s.Inv) : t.Inv := by
  unfold State.Inv; rw [hm]; exact h
theorem inv_reset : Memory.wf State.reset.mem := rfl
theorem inv_writeByte {s : State} (a : Nat) (b : Byte) (h : s.Inv) : (s.writeByte a b).Inv := Map.wf_set a b h
theorem inv_writeBytes {s : State} (a : Nat) (l : List Byte) (h : s.Inv) : (s.writeBytes a l).Inv := by
  induction l generalizing s a with
  | nil => exact h
  | cons b t ih => exact ih _ (inv_writeByte a b h)
theorem inv_writeLE {s : State} (a n v : Nat) (h : s.Inv) : (s.writeLE a n v).Inv := inv_writeBytes _ _ h
theorem inv_zeroRange {s : State} (lo n : Nat) (h : s.Inv) : (s.zeroRange lo n).Inv := Map.wf_filter _ h

/-! What the writes leave alone: every field but memory. -/

theorem writeByte_rest (s : State) (a : Nat) (b : Byte) : { s.writeByte a b with mem := s.mem } = s := rfl
theorem writeBytes_rest (l : List Byte) (s : State) (a : Nat) : { s.writeBytes a l with mem := s.mem } = s := by
  induction l generalizing s a with
  | nil => rfl
  | cons b t ih =>
    have := congrArg (fun u : State => { u with mem := s.mem }) (ih (s.writeByte a b) (a + 1))
    exact this
theorem writeBytes_eq (s : State) (a : Nat) (l : List Byte) : s.writeBytes a l = { s with mem := (s.writeBytes a l).mem } := by
  have := congrArg (fun u : State => { u with mem := (s.writeBytes a l).mem }) (writeBytes_rest l s a)
  exact this

end Sys2Proof.Machine
end

