-- ==== Sys2Proof/Laws/Keeps.lean ====
section
/-! SUPPORT. The shared operations and the canonical form of memory: most of them write no memory at all; those that do keep the
form. A proof about a word or an event cites these and unfolds none of the operations. -/

namespace Sys2Proof.Machine

/-! Operations that write no memory. -/

@[simp] theorem mem_updCtx (s : State) (k : Nat) (b : Bool) (f : Ctx → Ctx) : (s.updCtx k b f).mem = s.mem := rfl
@[simp] theorem mem_updMyCtx (s : State) (f : Ctx → Ctx) : (s.updMyCtx f).mem = s.mem := rfl
@[simp] theorem mem_updMe (s : State) (f : Seq → Seq) : (s.updMe f).mem = s.mem := rfl
@[simp] theorem mem_setX (s : State) (r : XReg) (v : Word) : (s.setX r v).mem = s.mem := rfl
@[simp] theorem mem_updCmd (s : State) (id : Nat) (f : Cmd → Cmd) : (s.updCmd id f).mem = s.mem := by
  unfold State.updCmd; split <;> rfl
@[simp] theorem mem_updOid (s : State) (oid : Nat) (f : Ctx → Ctx) : (s.updOid oid f).mem = s.mem := by
  unfold State.updOid; split <;> rfl
@[simp] theorem mem_deliver (s : State) (oid : Nat) (t : TrapReq) : (s.deliver oid t).mem = s.mem := mem_updOid ..
@[simp] theorem mem_addPoison (s : State) (a : Nat) : (s.addPoison a).mem = s.mem := rfl
@[simp] theorem mem_raise (s : State) (k : Nat) (st : Stream) (t : TrapReq) : (s.raise k st t).mem = s.mem := rfl
@[simp] theorem mem_raiseReq (s : State) (t : TrapReq) : (s.raiseReq t).mem = s.mem := by
  unfold State.raiseReq; split <;> rfl
@[simp] theorem mem_raiseAt (s : State) (c : Cause) (f d i : Nat) : (s.raiseAt c f d i).mem = s.mem := mem_raiseReq ..
@[simp] theorem mem_trap (s : State) (c : Cause) : (s.trap c).mem = s.mem := mem_raiseAt ..
@[simp] theorem mem_stall (s : State) : s.stall.mem = s.mem := rfl
@[simp] theorem mem_enqueue (s : State) (op : IbOp) : (s.enqueue op).mem = s.mem := rfl
@[simp] theorem mem_issued (s : State) (pc : BitVec 56) (n : Nat) : (s.issued pc n).mem = s.mem := rfl
@[simp] theorem mem_advance (s : State) (n : Nat) : (s.advance n).mem = s.mem := rfl
@[simp] theorem mem_resumeCtx (s : State) (k : Nat) (b : Bool) : (s.resumeCtx k b).mem = s.mem := rfl
@[simp] theorem mem_commit (s : State) (o : Owner) (p : Version → Bool) : (s.commit o p).mem = s.mem := rfl

/-! Operations that write memory. -/

theorem inv_walked {s : State} (v : Via) (va : Nat) (x : Xlat) (h : s.Inv) : (s.walked v va x).Inv := by
  have hw : ∀ l, (if leafBit (s.readLE x.leafAt 8) 8 = true then s else s.writeLE x.leafAt 8 l).Inv := by
    intro l
    split
    · exact h
    · exact inv_writeLE _ _ _ h
  unfold State.walked
  split
  · exact h
  · dsimp only
    generalize (if leafBit (s.readLE x.leafAt 8) 8 = true then s.readLE x.leafAt 8 else _) = l
    split
    · exact hw _
    · exact inv_of_mem rfl (hw l)

theorem inv_qWriteBack {s : State} (q : Nat) (e : Qcb) (h : s.Inv) : (s.qWriteBack q e).Inv :=
  inv_writeBytes _ _ (inv_writeBytes _ _ h)

theorem inv_qEvict {s : State} (t : Nat) (v : Option (Nat × Qcb)) (h : s.Inv) : (s.qEvict t v).Inv := by
  unfold State.qEvict; split
  · exact h
  · next n e => exact inv_of_mem (State.updTerp_mem ..) (inv_qWriteBack n e h)

@[simp] theorem mem_updQcb (s : State) (q : Nat) (f : Qcb → Qcb) : (s.updQcb q f).mem = s.mem := by
  unfold State.updQcb; split <;> rfl

theorem inv_qFill {s : State} (q : Nat) (h : s.Inv) : (s.qFill q).Inv := by
  unfold State.qFill; split
  · exact inv_of_mem rfl h
  · have h1 := inv_qEvict (s.qHome q) (victim (s.terp (s.qHome q)).cache q) h
    refine inv_of_mem (s := s.qEvict (s.qHome q) (victim (s.terp (s.qHome q)).cache q)) ?_ h1
    dsimp only
    split <;> split <;> rw [State.updTerp_mem] <;> first | rfl | rw [State.updLive_mem]

/-- A write to a doorbell changes memory only where the fill of its queue's entry evicts another. -/
theorem inv_ring {s : State} (q off : Nat) (d : List Byte) (h : s.Inv) : (s.ring q off d).Inv := by
  unfold State.ring; dsimp only
  split <;> exact inv_of_mem (mem_updQcb ..) (inv_qFill q h)

theorem inv_ringAll (f : Nat) {s : State} (pa : Nat) (d : List Byte) (h : s.Inv) : (s.ringAll pa f d).Inv := by
  induction f generalizing s pa d with
  | zero => exact h
  | succ f ih =>
    unfold State.ringAll; dsimp only
    split
    · exact h
    · exact h
    · exact ih _ _ (inv_ring _ _ _ h)

theorem inv_plainWrite {s : State} (pa : Nat) (d : List Byte) (h : s.Inv) : (s.plainWrite pa d).Inv := by
  unfold State.plainWrite; split
  · exact inv_ring _ _ _ h
  · split
    · exact inv_writeBytes _ _ (inv_of_mem rfl h)
    · split
      · exact h
      · exact inv_writeBytes _ _ h

theorem inv_feWrite {s : State} (p va : Nat) (d : List Byte) (h : s.Inv) : (s.feWrite p va d).Inv := by
  unfold State.feWrite; split
  · split
    · exact inv_ringAll _ _ _ h
    · exact inv_writeBytes _ _ h
  · exact h

theorem inv_writeRecord {s : State} (rk : Nat) (d : List Byte) (h : s.Inv) : (s.writeRecord rk d).Inv :=
  inv_feWrite _ _ _ (inv_feWrite _ _ _ h)

theorem inv_takeTrap {s : State} (k : Nat) (b : Bool) (t : TrapReq) (h : s.Inv) : (s.takeTrap k b t).Inv := by
  unfold State.takeTrap
  simp only
  split
  · exact inv_of_mem rfl (inv_writeRecord _ _ h)
  · exact h

theorem inv_setWaiters {s : State} (pa : Nat) (ws : List Waiter) (h : s.Inv) : (s.setWaiters pa ws).Inv := by
  have h1 : ((s.updObj pa (fun o => { o with waiters := ws })).writeLE (pa + 12) 4 ws.length).Inv := inv_writeLE _ _ _ h
  unfold State.setWaiters
  simp only
  split
  · exact inv_writeLE _ _ _ h1
  · exact h1

theorem inv_dropWaitersIn (test : Waiter → Bool) (l : List (Nat × ObjX)) {s : State} (h : s.Inv) :
    (dropWaitersIn test l s).Inv := by
  induction l generalizing s with
  | nil => exact h
  | cons e t ih =>
    apply ih
    split
    · exact inv_setWaiters _ _ h
    · exact h

theorem inv_dropWaiters {s : State} (oid : Nat) (h : s.Inv) : (s.dropWaiters oid).Inv := inv_dropWaitersIn _ _ h

/-- A word held at issue: under the abort line its waiters are dropped (R279). -/
theorem inv_block {s : State} (w : Hold) (h : s.Inv) : (s.block w).Inv := by
  unfold State.block
  split
  · exact inv_of_mem rfl (inv_dropWaitersIn _ _ (inv_of_mem (mem_updMe ..) h))
  · exact h

theorem inv_addUsed (ver : Bool) (d : Int) (l : List Nat) {s : State} (h : s.Inv) : (addUsed ver d l s).Inv := by
  induction l generalizing s with
  | nil => exact h
  | cons n t ih => exact ih (inv_writeLE _ _ _ h)

theorem inv_charge {s t : State} {ver : Bool} {l : List Nat} (h : s.Inv) (hc : charge s ver l = .ok t) : t.Inv := by
  unfold charge at hc
  split at hc
  · cases hc
  · cases hc; exact inv_addUsed _ _ _ h

/-- The same value written at some addresses. -/
theorem inv_writeEach (l : List Nat) (v : Nat) {s : State} (h : s.Inv) : (l.foldl (fun s a => s.writeLE a 8 v) s).Inv := by
  induction l generalizing s with
  | nil => exact h
  | cons a t ih => rw [List.foldl_cons]; exact ih (inv_writeLE a 8 v h)

theorem inv_frameFor {s t : State} {p : Nat} {l : List Nat} {x : Xlat} (h : s.Inv) (hf : frameFor s p l x = .ok t) : t.Inv := by
  unfold frameFor at hf
  split at hf
  · cases hf
  · next s1 hc =>
    dsimp only at hf
    split at hf
    · cases hf
    · cases hf; exact inv_writeEach _ _ (inv_zeroRange _ _ (inv_of_mem (s := s1) rfl (inv_charge h hc)))

theorem inv_dropIn (test : Version → Bool) (l : List Version) {s : State} (h : s.Inv) : (dropIn test l s).Inv := by
  induction l generalizing s with
  | nil => exact h
  | cons v t ih =>
    unfold dropIn
    split
    · exact ih (inv_addUsed _ _ _ h)
    · exact ih h

theorem inv_dropVersions (test : Version → Bool) (l : List (Nat × List Version)) {s : State} (h : s.Inv) :
    (dropVersions test l s).Inv := by
  induction l generalizing s with
  | nil => exact h
  | cons e t ih =>
    apply ih
    split
    · exact inv_of_mem rfl (inv_dropIn test e.2 h)
    · exact inv_dropIn test e.2 h

theorem inv_dropOwner {s : State} (o : Owner) (h : s.Inv) : (s.dropOwner o).Inv := inv_dropVersions _ _ h

/-! What a plain write does, and what ends commands and groups. -/

theorem inv_removeCmd {s : State} (id : Nat) (h : s.Inv) : (s.removeCmd id).Inv := by
  unfold State.removeCmd
  split
  · exact h
  · exact inv_of_mem rfl (inv_dropOwner _ h)

theorem inv_killCmds (oid : Nat) (l : List (Nat × Cmd)) {s : State} (h : s.Inv) : (killCmds oid l s).Inv := by
  induction l generalizing s with
  | nil => exact h
  | cons e t ih =>
    apply ih
    split
    · split
      · exact inv_of_mem (mem_updCmd ..) h
      · exact inv_removeCmd _ h
    · exact h

theorem inv_freeCtx {s : State} (k : Nat) (b : Bool) (h : s.Inv) : (s.freeCtx k b).Inv := by
  have h1 := inv_dropOwner (.group (s.ctx k b).oid) (inv_dropWaiters (s.ctx k b).oid h)
  have h2 : (match (s.ctx k b).txn with
      | some t => ((s.dropWaiters (s.ctx k b).oid).dropOwner (.group (s.ctx k b).oid)).dropOwner (.txn t.id)
      | none => (s.dropWaiters (s.ctx k b).oid).dropOwner (.group (s.ctx k b).oid)).Inv := by
    split
    · exact inv_dropOwner _ h1
    · exact h1
  exact inv_of_mem rfl h2

theorem inv_restartGroup {s : State} (oid : Nat) (h : s.Inv) : (s.restartGroup oid).Inv := by
  unfold State.restartGroup
  split
  · exact inv_of_mem rfl (inv_freeCtx _ _ (inv_killCmds _ _ h))
  · split
    · have h1 := inv_dropOwner (.group oid) (inv_dropWaiters oid (inv_killCmds oid s.cmds h))
      dsimp only
      split
      · exact inv_of_mem rfl (inv_dropOwner _ h1)
      · exact inv_of_mem rfl h1
    · exact h

/-! The common course of a word. -/

/-- Whatever a word does, it keeps the form if its own effect and its false slot do. -/
theorem inv_word {allowed : List Stream} {g : Guard} {regs : List XReg} {onFalse eff : State → State} {s t : State}
    (hf : (onFalse s).Inv) (he : (eff s).Inv) (h : s.Inv) (ht : word allowed g regs onFalse eff s = .next t) : t.Inv := by
  unfold word at ht
  cases ht
  split
  · exact inv_of_mem (mem_trap ..) h
  · split
    · exact inv_of_mem (mem_trap ..) h
    · exact hf
    · split
      · exact h
      · exact he

/-- A word that computes a register from registers keeps it. -/
theorem inv_scalar {g : Guard} {regs : List XReg} {xd : XReg} {f : State → Word} {s t : State} (h : s.Inv)
    (ht : scalar g regs xd f s = .next t) : t.Inv := inv_word (inv_of_mem rfl h) (inv_of_mem rfl h) h ht

end Sys2Proof.Machine
end

