-- ==== Sys2Proof/Tests/Slice0.lean ====
section
/-! SUPPORT. Tests: decoding by words written out field by field from the layouts of R32, R59, R62, R73 and the word tables, with
a value of its own in each field; ill-formed terms; single steps with values worked by hand. -/

open Sys2Proof.Machine

namespace Sys2Proof.Tests

/-- The parcels of a word decode to a well-formed instruction, with nothing left over. -/
def reads (e : List Nat × Instr) : Bool :=
  decide ((decode (e.1.flatMap (leBytes 4))).toOption = some (e.2, [])) && e.2.wf

theorem test_decode_scalar : ∀ e ∈ ([
    ([0x00037104], .add { first := 0, last := 0 } 1 7 3),
    ([0x64148204], .sub { first := 1, last := 3 } 2 8 4),
    ([0xC8259304], .and { first := 2, last := 6 } 3 9 5),
    ([0x4C36A404], .or { first := 3, last := 2 } 4 10 6),
    ([0xB047B504], .xor { first := 4, last := 5 } 5 11 7),
    ([0x3458C604], .shl { first := 5, last := 1 } 6 12 8),
    ([0x9869D704], .shr { first := 6, last := 4 } 7 13 9),
    ([0x007AE804], .sra { first := 0, last := 0 } 8 14 10),
    ([0x648BF904], .slt { first := 1, last := 3 } 9 15 11),
    ([0xC89C0A04], .sltu { first := 2, last := 6 } 10 0 12),
    ([0x4CAD1B04], .min { first := 3, last := 2 } 11 1 13),
    ([0xB0BE2C04], .max { first := 4, last := 5 } 12 2 14),
    ([0x34CF3D04], .minu { first := 5, last := 1 } 13 3 15),
    ([0x98D04E04], .maxu { first := 6, last := 4 } 14 4 0),
    ([0x00E15F04], .mul { first := 0, last := 0 } 15 5 1),
    ([0x64F26004], .mulh { first := 1, last := 3 } 0 6 2),
    ([0xC9037104], .mulhu { first := 2, last := 6 } 1 7 3),
    ([0x4D148204], .div { first := 3, last := 2 } 2 8 4),
    ([0xB1259304], .divu { first := 4, last := 5 } 3 9 5),
    ([0x3536A404], .rem { first := 5, last := 1 } 4 10 6),
    ([0x9947B504], .remu { first := 6, last := 4 } 5 11 7),
    ([0x80016108], .addi 1 6 32769),
    ([0x8112720C], .andi 2 7 33042),
    ([0x82238310], .ori 3 8 33315),
    ([0x83349414], .xori 4 9 33588),
    ([0x00214D18], .shli 13 4 33),
    ([0x00224D1C], .shri 13 4 34),
    ([0x00234D20], .srai 13 4 35),
    ([0x81234724], .lui 7 0x81234),
    ([0xA8098F28], .ext { first := 2, last := 5 } 15 8 9),
    ([0xA8198F28], .extu { first := 2, last := 5 } 15 8 9),
    ([0xA8298F28], .ins { first := 2, last := 5 } 15 8 9),
    ([0xA8308F28], .clz { first := 2, last := 5 } 15 8),
    ([0xA8408F28], .ctz { first := 2, last := 5 } 15 8),
    ([0xA8508F28], .popc { first := 2, last := 5 } 15 8),
    ([0xA8608F28], .rev8 { first := 2, last := 5 } 15 8)] : List (List Nat × Instr)), reads e = true := by decide

theorem test_decode_memory : ∀ e ∈ ([
    ([0xFE135C2C], .ld .s8 12 5 3 (-2)),
    ([0xFE235C2C], .ld .s16 12 5 3 (-2)),
    ([0xFE335C2C], .ld .s32 12 5 3 (-2)),
    ([0xFE435C2C], .ld .s64 12 5 3 (-2)),
    ([0xFE635C2C], .ld .z8 12 5 3 (-2)),
    ([0xFE735C2C], .ld .z16 12 5 3 (-2)),
    ([0xFE835C2C], .ld .z32 12 5 3 (-2)),
    ([0xFE935C2C], .ld .z64 12 5 3 (-2)),
    ([0x7F70E130], .st .z16 1 14 0 127)] : List (List Nat × Instr)), reads e = true := by decide

theorem test_decode_branches : ∀ e ∈ ([
    ([0xFFB06B34], .beq 11 6 (-5)),
    ([0xFFC16B34], .bne 11 6 (-4)),
    ([0xFFD26B34], .blt 11 6 (-3)),
    ([0xFFE36B34], .bge 11 6 (-2)),
    ([0xFFF46B34], .bltu 11 6 (-1)),
    ([0x00056B34], .bgeu 11 6 (0)),
    ([0x06460034], .bwany 100),
    ([0x06570034], .bwall 101),
    ([0x06680034], .bwnone 102),
    ([0x00790D34], .bwcge 13 7),
    ([0x800A0034], .btk (-2048)),
    ([0x801B0034], .bnt (-2047)),
    ([0x802C0034], .bal (-2046)),
    ([0x80001538], .jal 5 0x80001),
    ([0xFFFC213C], .jalr 1 2 0xFFFC),
    ([0x68E10940], .loopImm 3 17 33 9),
    ([0xBF80C940], .loopReg 5 63 12 9),
    ([0x991AA344], .lend 4 200 true 5 10 3),
    ([0x20400344], .lend 1 2 false 0 0 3)] : List (List Nat × Instr)), reads e = true := by decide

theorem test_decode_queues : ∀ e ∈ ([
    ([0xA80F0448], .give { first := 2, last := 5 } 4 15),
    ([0xA8170C48], .take { first := 2, last := 5 } 12 7),
    ([0xA8206348], .tcnt { first := 2, last := 5 } 3 6),
    ([0xA8396348], .tryt { first := 2, last := 5 } 3 6 9),
    ([0xA8006E60], .bqput { first := 2, last := 5 } 14 6),
    ([0xA80F374C], .qld { first := 2, last := 5 } 7 3 15),
    ([0xA81E364C], .qldi { first := 2, last := 5 } 6 3 14),
    ([0xA82D354C], .qrow { first := 2, last := 5 } 5 3 13),
    ([0xA83C344C], .qrowi { first := 2, last := 5 } 4 3 12),
    ([0xA8413B4C], .qst { first := 2, last := 5 } 11 3 1),
    ([0xA8523A4C], .qsti { first := 2, last := 5 } 10 3 2),
    ([0xA862094C], .qdrop { first := 2, last := 5 } 9 2),
    ([0xA8000450], .push { first := 2, last := 5 } 4),
    ([0xA8100450], .pushb { first := 2, last := 5 } 4)] : List (List Nat × Instr)), reads e = true := by decide

theorem test_decode_system : ∀ e ∈ ([
    ([0x00620354], .csrr 3 0x62),
    ([0x10409054], .csrw 0x40 9),
    ([0x20419054], .csrs 0x41 9),
    ([0x30429054], .csrc 0x42 9),
    ([0x4ABC9754], .csrx 7 0xABC 9),
    ([0x00000058], .nop),
    ([0x10000058], .halt),
    ([0x20000058], .stop),
    ([0x30000058], .yield),
    ([0x40000058], .abort),
    ([0x50000058], .fence),
    ([0x60000B58], .tide 11),
    ([0x70000058], .brk),
    ([0x02FF405C], .rbset 4 767),
    ([0x00000064], .vrnd .rne),
    ([0x00010064], .vrnd .rtz),
    ([0x00020064], .vrnd .rup),
    ([0x00030064], .vrnd .rdn),
    ([0x00040064], .vrnd .rna),
    ([0xDEADBE11], .reservedMajor 0xDEADBE11),
    ([0xFFFFFFFD], .reservedMajor 0xFFFFFFFD)] : List (List Nat × Instr)), reads e = true := by decide

theorem test_decode_objects : ∀ e ∈ ([
    ([0xA8005601], .rinit { first := 2, last := 5 } 6 5),
    ([0xA8175601], .rwaitf { first := 2, last := 5 } 6 5 7),
    ([0xA8275601], .rwaite { first := 2, last := 5 } 6 5 7),
    ([0xA8375601], .rclaim { first := 2, last := 5 } 6 5 7),
    ([0xA8475001], .rpost { first := 2, last := 5 } 5 7),
    ([0xA8575001], .rfree { first := 2, last := 5 } 5 7),
    ([0xA8735601], .crecv { first := 2, last := 5 } 6 5 3),
    ([0xA8830601], .ccnt { first := 2, last := 5 } 6 3),
    ([0xA8075605], .binit { first := 2, last := 5 } 6 5 7),
    ([0xA8175605], .binitf { first := 2, last := 5 } 6 5 7),
    ([0xA8205005], .bkill { first := 2, last := 5 } 5),
    ([0xA8305605], .barr { first := 2, last := 5 } 6 5),
    ([0xA8475605], .bwait { first := 2, last := 5 } 6 5 7),
    ([0xA8005609], .sync { first := 2, last := 5 } 6 5),
    ([0xA8105609], .acq { first := 2, last := 5 } 6 5),
    ([0xA8205009], .rel { first := 2, last := 5 } 5),
    ([0xA8375209], .sbind { first := 2, last := 5 } 5 7 2),
    ([0xA800560D], .xbeg { first := 2, last := 5 } 6 5),
    ([0xA810060D], .xend { first := 2, last := 5 } 6),
    ([0xA820000D], .xabt { first := 2, last := 5 }),
    ([0xA830060D], .xst { first := 2, last := 5 } 6)] : List (List Nat × Instr)), reads e = true := by decide

theorem test_decode_vector1 : ∀ e ∈ ([
    ([0x07A8B202, 0x91F4240C, 0x0503F8F5], .vadd { g := { first := 2, last := 5 }, pred := 3, ty := .s16 } { row := 7, slc := 3, wid := 2, dir := .r, str := 1, rb := true } { row := 500, slc := 100, wid := 2, dir := .d, str := 7, rb := false } { row := 1016, slc := 64, wid := 2, dir := .r, str := 0, rb := false }),
    ([0x08A8BB06, 0x91F5240C, 0x0503F9F5], .vsub { g := { first := 2, last := 5 }, pred := 3, ty := .bf } { row := 8, slc := 3, wid := 2, dir := .r, str := 1, rb := true } { row := 501, slc := 100, wid := 2, dir := .d, str := 7, rb := false } { row := 1017, slc := 64, wid := 2, dir := .r, str := 0, rb := false }),
    ([0x09A8B60A, 0x91F6220C, 0x0303FAF3], .vmul { g := { first := 2, last := 5 }, pred := 3, ty := .z8 } { row := 9, slc := 3, wid := 1, dir := .r, str := 1, rb := true } { row := 502, slc := 100, wid := 1, dir := .d, str := 7, rb := false } { row := 1018, slc := 64, wid := 1, dir := .r, str := 0, rb := false }),
    ([0x0AA8BC0E, 0x91F7260C, 0x0703FBF7], .vfma { g := { first := 2, last := 5 }, pred := 3, ty := .f } { row := 10, slc := 3, wid := 3, dir := .r, str := 1, rb := true } { row := 503, slc := 100, wid := 3, dir := .d, str := 7, rb := false } { row := 1019, slc := 64, wid := 3, dir := .r, str := 0, rb := false }),
    ([0x0BA8B312, 0x91F8260C, 0x0703FCF7], .vfms { g := { first := 2, last := 5 }, pred := 3, ty := .s32 } { row := 11, slc := 3, wid := 3, dir := .r, str := 1, rb := true } { row := 504, slc := 100, wid := 3, dir := .d, str := 7, rb := false } { row := 1020, slc := 64, wid := 3, dir := .r, str := 0, rb := false }),
    ([0x0CA8BA16, 0x91F9240C, 0x0503FDF5], .vfnma { g := { first := 2, last := 5 }, pred := 3, ty := .h } { row := 12, slc := 3, wid := 2, dir := .r, str := 1, rb := true } { row := 505, slc := 100, wid := 2, dir := .d, str := 7, rb := false } { row := 1021, slc := 64, wid := 2, dir := .r, str := 0, rb := false }),
    ([0x0DA8B21A, 0x91FA240C, 0x0503FEF5], .vmin { g := { first := 2, last := 5 }, pred := 3, ty := .s16 } { row := 13, slc := 3, wid := 2, dir := .r, str := 1, rb := true } { row := 506, slc := 100, wid := 2, dir := .d, str := 7, rb := false } { row := 1022, slc := 64, wid := 2, dir := .r, str := 0, rb := false }),
    ([0x0EA8BB1E, 0x91FB240C, 0x0503FFF5], .vmax { g := { first := 2, last := 5 }, pred := 3, ty := .bf } { row := 14, slc := 3, wid := 2, dir := .r, str := 1, rb := true } { row := 507, slc := 100, wid := 2, dir := .d, str := 7, rb := false } { row := 1023, slc := 64, wid := 2, dir := .r, str := 0, rb := false }),
    ([0x0FA8B622, 0x91FC220C, 0x000000F3], .vabs { g := { first := 2, last := 5 }, pred := 3, ty := .z8 } { row := 15, slc := 3, wid := 1, dir := .r, str := 1, rb := true } { row := 508, slc := 100, wid := 1, dir := .d, str := 7, rb := false }),
    ([0x10A8BC26, 0x91FD260C, 0x000000F7], .vneg { g := { first := 2, last := 5 }, pred := 3, ty := .f } { row := 16, slc := 3, wid := 3, dir := .r, str := 1, rb := true } { row := 509, slc := 100, wid := 3, dir := .d, str := 7, rb := false }),
    ([0x11A8B32A, 0x91FE260C, 0x0703FAF7], .vmulh { g := { first := 2, last := 5 }, pred := 3, ty := .s32 } { row := 17, slc := 3, wid := 3, dir := .r, str := 1, rb := true } { row := 510, slc := 100, wid := 3, dir := .d, str := 7, rb := false } { row := 1018, slc := 64, wid := 3, dir := .r, str := 0, rb := false }),
    ([0x12A8B32E, 0x91FF260C, 0x0703FBF7], .vavg { g := { first := 2, last := 5 }, pred := 3, ty := .s32 } { row := 18, slc := 3, wid := 3, dir := .r, str := 1, rb := true } { row := 511, slc := 100, wid := 3, dir := .d, str := 7, rb := false } { row := 1019, slc := 64, wid := 3, dir := .r, str := 0, rb := false }),
    ([0x13A8B632, 0x9200220C, 0x0303FCF3], .vand { g := { first := 2, last := 5 }, pred := 3, ty := .z8 } { row := 19, slc := 3, wid := 1, dir := .r, str := 1, rb := true } { row := 512, slc := 100, wid := 1, dir := .d, str := 7, rb := false } { row := 1020, slc := 64, wid := 1, dir := .r, str := 0, rb := false }),
    ([0x14A8B636, 0x9201220C, 0x0303FDF3], .vor { g := { first := 2, last := 5 }, pred := 3, ty := .z8 } { row := 20, slc := 3, wid := 1, dir := .r, str := 1, rb := true } { row := 513, slc := 100, wid := 1, dir := .d, str := 7, rb := false } { row := 1021, slc := 64, wid := 1, dir := .r, str := 0, rb := false }),
    ([0x15A8B63A, 0x9202220C, 0x0303FEF3], .vxor { g := { first := 2, last := 5 }, pred := 3, ty := .z8 } { row := 21, slc := 3, wid := 1, dir := .r, str := 1, rb := true } { row := 514, slc := 100, wid := 1, dir := .d, str := 7, rb := false } { row := 1022, slc := 64, wid := 1, dir := .r, str := 0, rb := false }),
    ([0x16A8B63E, 0x9203220C, 0x000000F3], .vnot { g := { first := 2, last := 5 }, pred := 3, ty := .z8 } { row := 22, slc := 3, wid := 1, dir := .r, str := 1, rb := true } { row := 515, slc := 100, wid := 1, dir := .d, str := 7, rb := false }),
    ([0x17A8B642, 0x9204220C, 0x0303F8F3], .vshl { g := { first := 2, last := 5 }, pred := 3, ty := .z8 } { row := 23, slc := 3, wid := 1, dir := .r, str := 1, rb := true } { row := 516, slc := 100, wid := 1, dir := .d, str := 7, rb := false } { row := 1016, slc := 64, wid := 1, dir := .r, str := 0, rb := false })] : List (List Nat × Instr)), reads e = true := by decide

theorem test_decode_vector2 : ∀ e ∈ ([
    ([0x18A8B646, 0x9205220C, 0x0303F9F3], .vshr { g := { first := 2, last := 5 }, pred := 3, ty := .z8 } { row := 24, slc := 3, wid := 1, dir := .r, str := 1, rb := true } { row := 517, slc := 100, wid := 1, dir := .d, str := 7, rb := false } { row := 1017, slc := 64, wid := 1, dir := .r, str := 0, rb := false }),
    ([0x19A8B64A, 0x9206220C, 0x0303FAF3], .vsra { g := { first := 2, last := 5 }, pred := 3, ty := .z8 } { row := 25, slc := 3, wid := 1, dir := .r, str := 1, rb := true } { row := 518, slc := 100, wid := 1, dir := .d, str := 7, rb := false } { row := 1018, slc := 64, wid := 1, dir := .r, str := 0, rb := false }),
    ([0x1AA8B64E, 0x9207220C, 0x0303FBF3], .vrol { g := { first := 2, last := 5 }, pred := 3, ty := .z8 } { row := 26, slc := 3, wid := 1, dir := .r, str := 1, rb := true } { row := 519, slc := 100, wid := 1, dir := .d, str := 7, rb := false } { row := 1019, slc := 64, wid := 1, dir := .r, str := 0, rb := false }),
    ([0x1BA8BA52, 0x9208240C, 0x000000F5], .vrcp { g := { first := 2, last := 5 }, pred := 3, ty := .h } { row := 27, slc := 3, wid := 2, dir := .r, str := 1, rb := true } { row := 520, slc := 100, wid := 2, dir := .d, str := 7, rb := false }),
    ([0x1CA8BA56, 0x9209240C, 0x000000F5], .vrsq { g := { first := 2, last := 5 }, pred := 3, ty := .h } { row := 28, slc := 3, wid := 2, dir := .r, str := 1, rb := true } { row := 521, slc := 100, wid := 2, dir := .d, str := 7, rb := false }),
    ([0x1DA8BA5A, 0x920A240C, 0x000000F5], .vsqrt { g := { first := 2, last := 5 }, pred := 3, ty := .h } { row := 29, slc := 3, wid := 2, dir := .r, str := 1, rb := true } { row := 522, slc := 100, wid := 2, dir := .d, str := 7, rb := false }),
    ([0x1EA8BA5E, 0x920B240C, 0x000000F5], .vexp2 { g := { first := 2, last := 5 }, pred := 3, ty := .h } { row := 30, slc := 3, wid := 2, dir := .r, str := 1, rb := true } { row := 523, slc := 100, wid := 2, dir := .d, str := 7, rb := false }),
    ([0x1FA8BA62, 0x920C240C, 0x000000F5], .vlog2 { g := { first := 2, last := 5 }, pred := 3, ty := .h } { row := 31, slc := 3, wid := 2, dir := .r, str := 1, rb := true } { row := 524, slc := 100, wid := 2, dir := .d, str := 7, rb := false }),
    ([0x20A8BA66, 0x920D240C, 0x000000F5], .vtanh { g := { first := 2, last := 5 }, pred := 3, ty := .h } { row := 32, slc := 3, wid := 2, dir := .r, str := 1, rb := true } { row := 525, slc := 100, wid := 2, dir := .d, str := 7, rb := false }),
    ([0x21A8BA6A, 0x920E240C, 0x000000F5], .vsigm { g := { first := 2, last := 5 }, pred := 3, ty := .h } { row := 33, slc := 3, wid := 2, dir := .r, str := 1, rb := true } { row := 526, slc := 100, wid := 2, dir := .d, str := 7, rb := false }),
    ([0x22A8BC7A, 0x920F260C, 0x0703FBF7], .vclamp { g := { first := 2, last := 5 }, pred := 3, ty := .f } { row := 34, slc := 3, wid := 3, dir := .r, str := 1, rb := true } { row := 527, slc := 100, wid := 3, dir := .d, str := 7, rb := false } { row := 1019, slc := 64, wid := 3, dir := .r, str := 0, rb := false }),
    ([0x23A8B3AA, 0x9210260C, 0x0703FCF7], .vsel { g := { first := 2, last := 5 }, pred := 3, ty := .s32 } { row := 35, slc := 3, wid := 3, dir := .r, str := 1, rb := true } { row := 528, slc := 100, wid := 3, dir := .d, str := 7, rb := false } { row := 1020, slc := 64, wid := 3, dir := .r, str := 0, rb := false }),
    ([0x24A8BAAE, 0x9211240C, 0x0503FDF5], .vperm { g := { first := 2, last := 5 }, pred := 3, ty := .h } { row := 36, slc := 3, wid := 2, dir := .r, str := 1, rb := true } { row := 529, slc := 100, wid := 2, dir := .d, str := 7, rb := false } { row := 1021, slc := 64, wid := 2, dir := .r, str := 0, rb := false }),
    ([0x25A8B2C6, 0x9212240C, 0x000000F5], .vrsum { g := { first := 2, last := 5 }, pred := 3, ty := .s16 } { row := 37, slc := 3, wid := 2, dir := .r, str := 1, rb := true } { row := 530, slc := 100, wid := 2, dir := .d, str := 7, rb := false }),
    ([0x26A8BBCA, 0x9213240C, 0x000000F5], .vrmax { g := { first := 2, last := 5 }, pred := 3, ty := .bf } { row := 38, slc := 3, wid := 2, dir := .r, str := 1, rb := true } { row := 531, slc := 100, wid := 2, dir := .d, str := 7, rb := false }),
    ([0x27A8B6CE, 0x9214220C, 0x000000F3], .vrmin { g := { first := 2, last := 5 }, pred := 3, ty := .z8 } { row := 39, slc := 3, wid := 1, dir := .r, str := 1, rb := true } { row := 532, slc := 100, wid := 1, dir := .d, str := 7, rb := false })] : List (List Nat × Instr)), reads e = true := by decide

theorem test_decode_vector3 : ∀ e ∈ ([
    ([0x07A93C6E, 0x00090E0C, 0x00000B5C], .vcvt { g := { first := 2, last := 5 }, pred := 3, ty := .f } { row := 7, slc := 3, wid := 3, dir := .c, str := 0, rb := false } { row := 9, slc := 0, wid := 2, dir := .a, str := 2, rb := true } .bf),
    ([0x07AB3D72, 0x0009000C, 0x06140B5C], .vquant { g := { first := 2, last := 5 }, pred := 3, ty := .qa4 } { row := 7, slc := 3, wid := 0, dir := .r, str := 0, rb := false } { row := 9, slc := 0, wid := 2, dir := .a, str := 2, rb := true } { row := 11, slc := 5, wid := 3, dir := .r, str := 0, rb := true }),
    ([0x09AABE76, 0x0C075C00, 0x06140B02], .vdequant { g := { first := 2, last := 5 }, pred := 3, ty := .qa8 } { row := 9, slc := 0, wid := 2, dir := .a, str := 2, rb := true } { row := 7, slc := 3, wid := 1, dir := .r, str := 0, rb := false } { row := 11, slc := 5, wid := 3, dir := .r, str := 0, rb := true }),
    ([0x09AABB7E, 0x0C075C00, 0x06140B0E], .vpack { g := { first := 2, last := 5 }, pred := 3, ty := .bf } { row := 9, slc := 0, wid := 2, dir := .a, str := 2, rb := true } { row := 7, slc := 3, wid := 3, dir := .c, str := 0, rb := false } { row := 11, slc := 5, wid := 3, dir := .r, str := 0, rb := true }),
    ([0x01AA3C82, 0x0C070000, 0x06140B0E], .vceq { g := { first := 2, last := 5 }, pred := 3, ty := .f } 1 { row := 7, slc := 3, wid := 3, dir := .c, str := 0, rb := false } { row := 11, slc := 5, wid := 3, dir := .r, str := 0, rb := true }),
    ([0x02AA3C86, 0x0C070000, 0x06140B0E], .vcne { g := { first := 2, last := 5 }, pred := 3, ty := .f } 2 { row := 7, slc := 3, wid := 3, dir := .c, str := 0, rb := false } { row := 11, slc := 5, wid := 3, dir := .r, str := 0, rb := true }),
    ([0x03AA3C8A, 0x0C070000, 0x06140B0E], .vclt { g := { first := 2, last := 5 }, pred := 3, ty := .f } 3 { row := 7, slc := 3, wid := 3, dir := .c, str := 0, rb := false } { row := 11, slc := 5, wid := 3, dir := .r, str := 0, rb := true }),
    ([0x04AA3C8E, 0x0C070000, 0x06140B0E], .vcle { g := { first := 2, last := 5 }, pred := 3, ty := .f } 4 { row := 7, slc := 3, wid := 3, dir := .c, str := 0, rb := false } { row := 11, slc := 5, wid := 3, dir := .r, str := 0, rb := true }),
    ([0x05AA3C92, 0x0C070000, 0x06140B0E], .vcun { g := { first := 2, last := 5 }, pred := 3, ty := .f } 5 { row := 7, slc := 3, wid := 3, dir := .c, str := 0, rb := false } { row := 11, slc := 5, wid := 3, dir := .r, str := 0, rb := true }),
    ([0x01A80096, 0x00040000, 0x00000000], .vmand { first := 2, last := 5 } 1 4 0),
    ([0x02A8009A, 0x00050000, 0x00000100], .vmor { first := 2, last := 5 } 2 5 1),
    ([0x03A8009E, 0x00060000, 0x00000200], .vmxor { first := 2, last := 5 } 3 6 2),
    ([0x04A800A2, 0x00070000, 0x00000300], .vmandn { first := 2, last := 5 } 4 7 3),
    ([0x00A805A6, 0x00060000, 0x00000000], .vflags { first := 2, last := 5 } .z4 6),
    ([0x07A83CB2, 0x00000E0C, 0x00048000], .vbcast { g := { first := 2, last := 5 }, pred := 3, ty := .f } { row := 7, slc := 3, wid := 3, dir := .c, str := 0, rb := false } { row := 0, slc := 0, wid := 0, dir := .r, str := 0, rb := false } 9 0),
    ([0x07A93CB2, 0x140B0E0C, 0x00000F06], .vbcast { g := { first := 2, last := 5 }, pred := 3, ty := .f } { row := 7, slc := 3, wid := 3, dir := .c, str := 0, rb := false } { row := 11, slc := 5, wid := 3, dir := .r, str := 0, rb := true } 0 15),
    ([0x07A93CB6, 0x140B0E0C, 0x00048E06], .vslup { g := { first := 2, last := 5 }, pred := 3, ty := .f } { row := 7, slc := 3, wid := 3, dir := .c, str := 0, rb := false } { row := 11, slc := 5, wid := 3, dir := .r, str := 0, rb := true } 9 14),
    ([0x07A93CBA, 0x140B0E0C, 0x00048E06], .vsldn { g := { first := 2, last := 5 }, pred := 3, ty := .f } { row := 7, slc := 3, wid := 3, dir := .c, str := 0, rb := false } { row := 11, slc := 5, wid := 3, dir := .r, str := 0, rb := true } 9 14),
    ([0x07A90CBE, 0x140B0E0C, 0x0E0C0706], .vzip { first := 2, last := 5 } .f { row := 7, slc := 3, wid := 3, dir := .c, str := 0, rb := false } { row := 11, slc := 5, wid := 3, dir := .r, str := 0, rb := true } { row := 7, slc := 3, wid := 3, dir := .c, str := 0, rb := false }),
    ([0x07A90CC2, 0x140B0E0C, 0x00000006], .vunzip { first := 2, last := 5 } .f { row := 7, slc := 3, wid := 3, dir := .c, str := 0, rb := false } { row := 11, slc := 5, wid := 3, dir := .r, str := 0, rb := true }),
    ([0x07A83CE2, 0xEE3B0E0C, 0x00000001], .vaccrd { g := { first := 2, last := 5 }, pred := 3, ty := .f } { row := 7, slc := 3, wid := 3, dir := .c, str := 0, rb := false } { tile := 11, row := 99, cg := 5, xr := 7 }),
    ([0x3BA933E6, 0x140B01EE, 0x00000006], .vaccwr { g := { first := 2, last := 5 }, pred := 3, ty := .s32 } { tile := 11, row := 99, cg := 5, xr := 7 } { row := 11, slc := 5, wid := 3, dir := .r, str := 0, rb := true }),
    ([0xFFA900EA, 0x92FF017F, 0x62469701], .wspill { first := 2, last := 5 } { bank := 23, off := 0x1234, xs := 6 } { row := 767, slc := 100, rb := true } 98303),
    ([0x01A900EE, 0x92FF0000, 0x62469701], .wfill { first := 2, last := 5 } { row := 767, slc := 100, rb := true } { bank := 23, off := 0x1234, xs := 6 } 1),
    ([0x3FA93AF2, 0x0009001B, 0x0000005C], .defer { g := { first := 2, last := 5 }, pred := 3, ty := .h } { row := 9, slc := 0, wid := 2, dir := .a, str := 2, rb := true } 13 9 31),
    ([0x09A88AF6, 0x1FD65C00, 0x0E0C0700], .drain { first := 2, last := 5 } .h { row := 9, slc := 0, wid := 2, dir := .a, str := 2, rb := true } { row := 7, slc := 3, wid := 3, dir := .c, str := 0, rb := false } 6 13 31)] : List (List Nat × Instr)), reads e = true := by decide

theorem test_decode_matrix : ∀ e ∈ ([
    ([0x9564C883, 0x9F081C8B, 0x00FF0B7F, 0x00000578, 0x00000000, 0x00000000], .mma { g := { first := 2, last := 5 }, ty := .s8, act := 9, acc := true, mm1 := 100, a := .sp { bank := 23, row := 200, step := 129 }, bbuf := false, bld := true, brow := 1999, btr := true, gen := 3, tri := true, tdiag := 0x85, tfill := 0x7F, grow := 700, gsz := 0, zpa := false, zpb := false, sca := { bank := 0, off := 0 }, scb := { bank := 0, off := 0 } }),
    ([0x75011F03, 0x00979B5E, 0x00000000, 0xC91A5000, 0x004E1901, 0x00000000], .mma { g := { first := 2, last := 5 }, ty := .qa8, act := 3, acc := false, mm1 := 1, a := .w { row := 700, slc := 77, wid := 3, dir := .c, str := 1, rb := true }, bbuf := true, bld := false, brow := 0, btr := false, gen := 0, tri := false, tdiag := 0, tfill := 0, grow := 0, gsz := 2, zpa := false, zpb := true, sca := { bank := 7, off := 0x1234 }, scb := { bank := 19, off := 0x4320 } }),
    ([0x15000587, 0x02800000, 0x00000018, 0x00000000, 0x00000000, 0x00000000], .mlatch { first := 2, last := 5 } .bf true 1025 true),
    ([0x1500680B, 0x00000000, 0x00000000, 0x00000000, 0x00000000, 0x00000000], .mzero { first := 2, last := 5 } 13),
    ([0x1503000F, 0x00000000, 0x00000000, 0x00000000, 0x00000000, 0x00000000], .mrnd { first := 2, last := 5 } .rdn),
    ([0x15000013, 0x00000000, 0x00000000, 0x00000000, 0x00000000, 0x00000000], .mlease { first := 2, last := 5 }),
    ([0x15000017, 0x00000000, 0x00000000, 0x00000000, 0x00000000, 0x00000000], .mfree { first := 2, last := 5 }),
    ([0x1500681B, 0x00000003, 0x00000000, 0x00000000, 0x00000000, 0x00000000], .mtcopy { first := 2, last := 5 } 13 6),
    ([0x1500699F, 0x00000003, 0x00000000, 0x00000000, 0x00000000, 0x00000000], .mtadd { first := 2, last := 5 } .s32 13 6),
    ([0x15006E23, 0x00000000, 0x579A0000, 0x00000001, 0x00000000, 0x00000000], .mtscale { first := 2, last := 5 } .f 13 0xABCD),
    ([0x157F6BA7, 0x000FF03B, 0x00000000, 0x00000000, 0x00000000, 0x00000000], .mtout { first := 2, last := 5 } .z16 13 127 { bank := 22, row := 3, step := 255 }),
    ([0x1500002B, 0x00000000, 0x00000000, 0x00000000, 0x00000000, 0x00000000], .mwait { first := 2, last := 5 })] : List (List Nat × Instr)), reads e = true := by decide


/-! Ill-formed terms: for each check of `legalWord` an instruction that it refuses, beside one that it admits. -/

/-- A guard, a mask and a type. -/
def vc (ty : Ty) : VCtl := { g := { first := 0, last := 0 }, pred := 0, ty := ty }
/-- A W operand by row, width code and direction. -/
def wo (row wid : Nat) (dir : Dir := .r) (rb : Bool := false) : WOp :=
  { row := .ofNat 10 row, slc := 0, wid := .ofNat 2 wid, dir := dir, str := 0, rb := rb }
/-- A tile step that every check admits: s8 rows of the scratchpad. -/
def tile : Mma :=
  { g := { first := 0, last := 0 }, ty := .s8, act := 0, acc := false, mm1 := 127, a := .sp { bank := 0, row := 0, step := 1 },
    bbuf := false, bld := false, brow := 0, btr := false, gen := 0, tri := false, tdiag := 0, tfill := 0, grow := 0, gsz := 0,
    zpa := false, zpb := false, sca := { bank := 0, off := 0 }, scb := { bank := 0, off := 0 } }
/-- No condition. -/
def g0 : Guard := { first := 0, last := 0 }

/-- R59: FIRST and LAST of 7. -/
theorem test_ill_guard :
    [Instr.add ⟨7, 0⟩ 1 2 3, .take ⟨0, 7⟩ 0 1, .qld ⟨7, 0⟩ 0 1 0, .vadd { vc .s8 with g := ⟨7, 0⟩ } (wo 0 1) (wo 1 1) (wo 2 1),
      .mzero ⟨0, 7⟩ 1, .xabt ⟨7, 7⟩].map Instr.wf = List.replicate 6 false ∧
    [Instr.add ⟨6, 6⟩ 1 2 3, .xabt ⟨6, 0⟩].map Instr.wf = [true, true] := by decide

/-- R59: ld and st admit only the integer types of 8 to 64 bits. -/
theorem test_ill_memory_type : ([Ty.s4, .z4, .h, .bf, .f, .qa4, .qa8].all (fun t => !(Instr.ld t 1 2 0 0).wf)) = true := by decide

/-- R138, R139, R142: levels 6 and 7, no body, no count, a base of 768. -/
theorem test_ill_loops :
    [Instr.loopReg 6 1 1 0, .loopReg 0 0 1 0, .loopImm 0 1 0 0, .loopImm 7 1 1 0, .lend 6 0 false 0 0 0, .rbset 0 768].map Instr.wf =
      List.replicate 6 false ∧
    [Instr.loopReg 5 63 1 0, .loopImm 0 1 1 0, .lend 5 0 false 0 0 0, .rbset 0 767].map Instr.wf = List.replicate 4 true := by decide

/-- R147, R149: no tokens, and a queue move of QN 12. -/
theorem test_ill_queues :
    [Instr.give g0 0 0, .take g0 0 0, .tryt g0 0 1 0, .qld g0 12 1 0, .qdrop g0 15 0].map Instr.wf = List.replicate 5 false ∧
    [Instr.give g0 15 1, .qld g0 11 1 0].map Instr.wf = [true, true] := by decide

/-- R76: a reserved major lies in class 1, above the four assigned ones. -/
theorem test_ill_reserved_major :
    [Instr.reservedMajor 0x10, .reservedMajor 0x0D, .reservedMajor 0x11].map Instr.wf = [false, false, true] := by decide

/-- R62, R64: rows 768 to 1015; a queue with a direction or RB; destination rows 1020 to 1023. -/
theorem test_ill_rows :
    [Instr.vadd (vc .s8) (wo 0 1) (wo 768 1) (wo 2 1), .vadd (vc .s8) (wo 0 1) (wo 1015 1) (wo 2 1),
      .vadd (vc .s8) (wo 0 1) (wo 1016 1 .c) (wo 2 1), .vadd (vc .s8) (wo 0 1) (wo 1016 1 .r true) (wo 2 1),
      .vadd (vc .s8) (wo 1020 1) (wo 1 1) (wo 2 1)].map Instr.wf = List.replicate 5 false ∧
    [Instr.vadd (vc .s8) (wo 1019 1) (wo 1023 1) (wo 767 1 .a true)].map Instr.wf = [true] := by decide

/-- R65: a source wider than the type, or narrower under a float; a destination of another width; WID under a 64-bit type. -/
theorem test_ill_widths :
    [Instr.vadd (vc .s8) (wo 0 1) (wo 1 2) (wo 2 1), .vadd (vc .h) (wo 0 2) (wo 1 1) (wo 2 2), .vadd (vc .s16) (wo 0 1) (wo 1 1) (wo 2 2),
      .vadd (vc .s64) (wo 0 3) (wo 1 2) (wo 2 3), .vcvt (vc .f) (wo 0 3) (wo 1 3) .h, .vquant (vc .qa8) (wo 0 1) (wo 1 2) (wo 2 2),
      .vdequant (vc .qa8) (wo 0 1) (wo 1 1) (wo 2 3), .vpack (vc .h) (wo 0 2) (wo 1 2) (wo 2 3)].map Instr.wf = List.replicate 8 false ∧
    [Instr.vadd (vc .s16) (wo 0 2) (wo 1 0) (wo 2 2), .vcvt (vc .f) (wo 0 3) (wo 1 2) .h, .vquant (vc .qa8) (wo 0 1) (wo 1 2) (wo 2 3),
      .vdequant (vc .qa8) (wo 0 2) (wo 1 1) (wo 2 3), .vpack (vc .h) (wo 0 2) (wo 1 3) (wo 2 3)].map Instr.wf = List.replicate 5 true := by
  decide

/-- R156: types that a word does not admit. -/
theorem test_ill_types :
    [Instr.vadd (vc .qa8) (wo 0 1) (wo 1 1) (wo 2 1), .vmul (vc .s64) (wo 0 3) (wo 1 3) (wo 2 3), .vmulh (vc .h) (wo 0 2) (wo 1 2) (wo 2 2),
      .vxor (vc .f) (wo 0 3) (wo 1 3) (wo 2 3), .vrcp (vc .s16) (wo 0 2) (wo 1 2), .vcun (vc .s8) 1 (wo 1 1) (wo 2 1),
      .vpack (vc .s32) (wo 0 3) (wo 1 3) (wo 2 3), .vaccrd (vc .z32) (wo 0 3) { tile := 0, row := 0, cg := 0, xr := 0 },
      .vquant (vc .z8) (wo 0 1) (wo 1 2) (wo 2 3)].map Instr.wf = List.replicate 9 false := by decide

/-- R63, R157, R172: m0 as a destination, a fused word into a y queue, a slide of n lanes or more, vbcast with both sources. -/
theorem test_ill_vector_fields :
    [Instr.vceq (vc .s8) 0 (wo 1 1) (wo 2 1), .vmand g0 0 1 2, .vfma (vc .h) (wo 1016 2) (wo 1 2) (wo 2 2),
      .vslup (vc .f) (wo 0 3) (wo 1 3) 0 16, .vbcast (vc .f) (wo 0 3) (wo 1 3) 5 0, .vbcast (vc .f) (wo 0 3) (wo 0 0) 5 1,
      .vbcast (vc .f) (wo 0 3) (wo 1 3) 0 16].map Instr.wf = List.replicate 7 false ∧
    [Instr.vslup (vc .f) (wo 0 3) (wo 1 3) 0 15, .vbcast (vc .f) (wo 0 3) (wo 0 0) 5 0, .vbcast (vc .f) (wo 0 3) (wo 1 3) 0 15].map Instr.wf =
      List.replicate 3 true := by decide

/-- R178, R181, R182: banks, rows and counts of wspill; records of more than 128 slices; a queue as record or index; MD 0. -/
theorem test_ill_spill_and_records :
    [Instr.wspill g0 { bank := 24, off := 0, xs := 0 } { row := 0, slc := 0, rb := false } 0,
      .wspill g0 { bank := 0, off := 0, xs := 0 } { row := 768, slc := 0, rb := false } 0,
      .wfill g0 { row := 0, slc := 0, rb := false } { bank := 0, off := 0, xs := 0 } 98304,
      .defer (vc .f) (wo 0 3) 0 0 16, .defer (vc .f) (wo 1016 3) 0 0 0, .drain g0 .f (wo 0 3) (wo 1016 3) 1 0 0,
      .drain g0 .f (wo 0 3) (wo 1 2) 1 0 0, .drain g0 .f (wo 0 3) (wo 1 3) 0 0 0, .drain g0 .f (wo 1016 3) (wo 1 3) 1 0 0].map Instr.wf =
      List.replicate 9 false ∧
    [Instr.wfill g0 { row := 767, slc := 127, rb := true } { bank := 23, off := 0x7FFF, xs := 15 } 98303,
      .defer (vc .f) (wo 0 3) 0 0 15, .drain g0 .f (wo 0 3) (wo 1 3) 1 0 15].map Instr.wf = List.replicate 3 true := by decide

/-- R184, R202: types and banks of the other matrix words. -/
theorem test_ill_matrix_words :
    [Instr.mlatch g0 .f false 0 false, .mlatch g0 .s4 false 0 true, .mlatch g0 .h false 2047 true, .mtadd g0 .h 0 0, .mtscale g0 .s32 0 0,
      .mtout g0 .s32 0 0 { bank := 0, row := 0, step := 0 }, .mtout g0 .f 0 0 { bank := 24, row := 0, step := 0 }].map Instr.wf =
      List.replicate 7 false ∧
    [Instr.mlatch g0 .h false 2046 true, .mtout g0 .f 0 0 { bank := 23, row := 0, step := 0 }].map Instr.wf = [true, true] := by decide

/-- R73, R74, R78, R186: the checks of the tile step, one by one. -/
theorem test_ill_tile_step :
    [{ tile with ty := .f }, { tile with a := .sp { bank := 24, row := 0, step := 1 } }, { tile with a := .w (wo 768 3 .c) },
      { tile with a := .w (wo 0 3 .r) }, { tile with a := .w (wo 0 2 .c) }, { tile with gen := 6 },
      { tile with gen := 3, grow := 767 }, { tile with grow := 1 }, { tile with btr := true }, { tile with brow := 1 },
      { tile with ty := .s4, bld := true, btr := true }, { tile with ty := .h, bld := true, btr := true, brow := 2047 },
      { tile with tfill := 1 }, { tile with tdiag := 1 }, { tile with tri := true, tfill := 256 }, { tile with gsz := 1 },
      { tile with zpa := true }, { tile with scb := { bank := 0, off := 4 } }, { tile with ty := .qa8 },
      { tile with ty := .qa8, gsz := 1, gen := 1 }, { tile with ty := .qa8, gsz := 1, sca := { bank := 24, off := 0 } },
      { tile with ty := .qa8, gsz := 1, scb := { bank := 0, off := 2 } }, { tile with gen := 1, bbuf := true }].map mmaOk =
      List.replicate 23 false := by decide

/-- The same step with each field at a value that the checks admit. -/
theorem test_wf_tile_step :
    [tile, { tile with a := .w (wo 767 3 .c true) }, { tile with gen := 3, grow := 766 }, { tile with bld := true, brow := 2047, btr := true },
      { tile with ty := .h, bld := true, btr := true, brow := 2046 }, { tile with tri := true, tfill := 255, tdiag := 0x80 },
      { tile with ty := .qa8, gsz := 1, sca := { bank := 23, off := 32764 }, zpb := true }, { tile with gen := 5, bbuf := true, bld := true },
      { tile with gen := 5 }].map (fun m => (Instr.mma m).wf) = List.replicate 9 true := by decide

/-- R58, R76 to R78: words that the decoder refuses by name. -/
theorem test_decode_refuses :
    [[0x00000000], [0x00000068], [0x000000FC], [0x01500004], [0x00DD0034], [0x80000058], [0x00010058], [0x00410048],
      [0x000000FA, 0, 0], [0x00000F02, 0, 0], [0x0000002F, 0, 0, 0, 0, 0], [0x00000013, 0, 0, 0, 0x00800000, 0]].map
      (fun w => (decode (w.flatMap (leBytes 4))).toOption) = List.replicate 12 none := by decide

/-- R256: the words of a front-end processor. -/
theorem test_decode_front_end :
    [0x01F0850B, 0x00C5950B, 0x0015A00B, 0x4005B50B, 0x0000C50B, 0x02C5850B].map decodeFep =
      [some (.rfetch 10 1 31), some (.bfx 10 11 12), some (.swait 0 11 1), none, none, none] := by decide

/-! Single steps on small states. The expected values are worked by hand from the rules named. -/

/-- Core 0 with a RUNNING context. -/
def on (c : Ctx) (st : Stream) : State := { cur := (0, st), cores := [(0, { a := { c with st := .running } })] }
/-- The context of a sequencer. -/
def only (st : Stream) (q : Seq) : Ctx := Ctx.setSeq {} st q
/-- What a step shows of the state after it. -/
def after {α : Type} (i : Instr) (s : State) (f : State → α) : Option α :=
  match exec i s with
  | .next t => some (f t)
  | _ => none
/-- x3 after a word of C that reads x1 and x2, and writes x3. -/
def x3 (i : Instr) (a b : Word) : Option Word := after i (on (only .c { x := [(1, a), (2, b), (3, 0xFF)] }) .c) (fun t => t.x 3)
/-- The pc after a word of a sequencer at 100. -/
def pcOf (i : Instr) (st : Stream) (q : Seq) (c : Ctx := {}) : Option (BitVec 56) :=
  after i (on (c.setSeq st { q with pc := 100 }) st) (fun t => t.me.pc)
/-- −1 as a word. -/
def m1 : Word := 0xFFFFFFFFFFFFFFFF

/-- R129: one value per alu word, signed and unsigned apart. -/
theorem test_alu :
    [x3 (.add g0 3 1 2) m1 2, x3 (.sub g0 3 1 2) 1 2, x3 (.and g0 3 1 2) 12 10, x3 (.or g0 3 1 2) 12 10, x3 (.xor g0 3 1 2) 12 10,
      x3 (.shl g0 3 1 2) 3 65, x3 (.shr g0 3 1 2) m1 63, x3 (.sra g0 3 1 2) m1 63, x3 (.slt g0 3 1 2) m1 0, x3 (.sltu g0 3 1 2) m1 0,
      x3 (.min g0 3 1 2) m1 1, x3 (.max g0 3 1 2) m1 1, x3 (.minu g0 3 1 2) m1 1, x3 (.maxu g0 3 1 2) m1 1, x3 (.mul g0 3 1 2) m1 3,
      x3 (.mulh g0 3 1 2) m1 3, x3 (.mulhu g0 3 1 2) m1 3, x3 (.div g0 3 1 2) (0 - 7) 2, x3 (.divu g0 3 1 2) m1 2,
      x3 (.rem g0 3 1 2) (0 - 7) 2, x3 (.remu g0 3 1 2) m1 10] =
    [1, m1, 8, 14, 6, 6, 1, m1, 1, 0, m1, 1, 1, m1, 0xFFFFFFFFFFFFFFFD, m1, 2, 0xFFFFFFFFFFFFFFFD, 0x7FFFFFFFFFFFFFFF, m1, 5].map
      (fun (v : Word) => some v) := by decide

/-- R129: division by zero, and −2^63 by −1. -/
theorem test_division_corners :
    [x3 (.div g0 3 1 2) 7 0, x3 (.divu g0 3 1 2) 7 0, x3 (.rem g0 3 1 2) 7 0, x3 (.remu g0 3 1 2) 7 0,
      x3 (.div g0 3 1 2) 0x8000000000000000 m1, x3 (.rem g0 3 1 2) 0x8000000000000000 m1] =
    [m1, m1, 7, 7, 0x8000000000000000, 0].map (fun (v : Word) => some v) := by decide

/-- R130, R131: which immediates are signed; lui sign-extends its 32 bits. -/
theorem test_immediates :
    [x3 (.addi 3 1 0xFFFF) 5 0, x3 (.andi 3 1 0xFFFF) m1 0, x3 (.ori 3 1 0x8000) 1 0, x3 (.xori 3 1 0xFFFF) m1 0, x3 (.shli 3 1 63) 3 0,
      x3 (.shri 3 1 60) m1 0, x3 (.srai 3 1 4) (0 - 32) 0, x3 (.lui 3 0x80001) 0 0] =
    [4, 0xFFFF, 0x8001, 0xFFFFFFFFFFFF0000, 0x8000000000000000, 15, 0 - 2, 0xFFFFFFFF80001000].map (fun (v : Word) => some v) := by decide

/-- R132: fields at position 4 of length 8 (0x804), of length 0, and one that passes bit 63. -/
theorem test_bit_fields :
    [x3 (.ext g0 3 1 2) 0xF80 0x804, x3 (.extu g0 3 1 2) 0xF80 0x804, x3 (.ins g0 3 1 2) 0x5A 0x804, x3 (.ext g0 3 1 2) m1 0x004,
      x3 (.extu g0 3 1 2) 0xF000000000000000 0x4F3C, x3 (.clz g0 3 1) 1 0, x3 (.ctz g0 3 1) 0 0, x3 (.popc g0 3 1) 0xF0F 0,
      x3 (.rev8 g0 3 1) 0x0102030405060708 0] =
    [0 - 8, 0xF8, 0x5AF, 0, 15, 63, 64, 8, 0x0807060504030201].map (fun (v : Word) => some v) := by decide

/-- R135: signed and unsigned conditions, a target before the word, and the next word. -/
theorem test_branches :
    [pcOf (.blt 1 2 (-3)) .c { x := [(1, m1)] }, pcOf (.bltu 1 2 (-3)) .c { x := [(1, m1)] }, pcOf (.bge 1 2 5) .c { x := [(1, m1)] },
      pcOf (.bgeu 1 2 5) .c { x := [(1, m1)] }, pcOf (.beq 1 2 5) .c {}, pcOf (.bne 1 2 5) .c {}, pcOf (.bwnone 5) .c {},
      pcOf (.bwcge 1 5) .c { x := [(1, 128)] } { wf := 0x180 }, pcOf (.bwall 5) .c {} { wf := 0x180 }, pcOf (.bwany 5) .c {},
      pcOf (.btk 5) .l {} { bq := [(13, [true])] }, pcOf (.bnt 5) .e {} { bq := [(14, [true])] }, pcOf (.bal (-25)) .s {}] =
    [88, 104, 104, 120, 120, 104, 120, 120, 120, 104, 120, 104, 0].map (fun (v : BitVec 56) => some v) := by decide

/-- R136: jalr reads its base before the link is written, and ignores the low two bits of the target. -/
theorem test_jumps :
    pcOf (.jal 1 (-25)) .c {} = some 0 ∧ pcOf (.jalr 1 1 7) .c { x := [(1, 200)] } = some 204 ∧
    after (.jalr 1 1 7) (on (only .c { pc := 100, x := [(1, 200)] }) .c) (fun t => t.x 1) = some 104 := by decide

/-- R138: a loop opens its level. -/
theorem test_loop_opens :
    after (.loopImm 1 4 33 6) (on (only .c { pc := 100, x := [(6, 9)] }) .c) (fun t =>
      (t.me.level 1, t.me.pc)) =
    some ({ act := true, lc := 33, ls := 9, it := 0, top := 104, len := 4, lendAt := 116, inst := 1 }, 104) := by decide

/-- R139: `lend 1, rot=2, xv=x3` in its last iteration but one, and in its last. -/
theorem test_lend :
    let l : Level := { act := true, lc := 2, ls := 5, it := 6, top := 84, len := 5, lendAt := 100 }
    let s (n : BitVec 32) := on (only .c { pc := 100, x := [(3, 40)], rb := 767, lv := [(1, { l with lc := n })] }) .c
    let f (t : State) := (t.me.pc, t.x 3, t.me.rb, t.me.level 1)
    after (.lend 1 2 false 0 0 3) (s 2) f = some (84, 45, 1, { l with lc := 1, it := 7 }) ∧
    after (.lend 1 2 false 0 0 3) (s 1) f = some (104, 45, 1, { l with lc := 0, act := false }) := by decide

/-- R139, R144: `lend 0, brk=1, xa=x6, qm=0b110` puts its outcome into bqe and bqs, and an outcome of 1 cuts the loop. -/
theorem test_lend_breaks :
    after (.lend 0 0 true 6 6 0)
      (on (only .c { pc := 100, x := [(6, 7)], lv := [(0, { act := true, lc := 9, it := 2, top := 84, lendAt := 100, inst := 3 })] }) .c)
      (fun t => (t.me.pc, t.myCtx.bq, t.myCtx.cuts)) =
    some (104, [(14, [true]), (15, [true])], [{ lvl := 0, inst := 3, iter := 2 }]) := by decide

/-- R142: rb wraps at 768. -/
theorem test_rbset : after (.rbset 1 767) (on (only .c { x := [(1, 3)] }) .c) (fun t => t.me.rb) = some 2 := by decide

/-- R147: tryt, tcnt and take; a take waits for its tokens; bqput waits at 16. -/
theorem test_tokens :
    let s := on { only .e { pc := 100 } with tok := [(1, 2)] } .e
    after (.tryt g0 1 5 3) s (fun t => (t.x 5, t.myCtx.tokens 1)) = some (0, 2) ∧
    after (.tryt g0 1 5 2) s (fun t => (t.x 5, t.myCtx.tokens 1)) = some (1, 0) ∧
    after (.tcnt g0 1 5) s (fun t => t.x 5) = some 2 ∧
    after (.take g0 1 3) s (fun t => (t.me.pc, t.me.held)) = some (100, .take 1 3) ∧
    after (.take g0 1 1) s (fun t => (t.me.pc, t.myCtx.tokens 1)) = some (104, 1) ∧
    after (.bqput g0 13 2) (on { bq := [(13, List.replicate 16 true)] } .c) (fun t => (t.me.pc, t.me.held)) = some (0, .wait (.bqRoom 13)) ∧
    after (.give g0 0 4) (on {} .c) (fun t => t.me.ib.map (·.op)) = some [.give 0 4] := by decide

set_option exponentiation.threshold 600 in
set_option maxRecDepth 4000 in
/-- R149: qrow pushes a W row; qst pops a landed entry into the issue buffer; qldi advances at its last entry. -/
theorem test_queue_moves :
    after (.qrow g0 3 1 0) (on { only .l { x := [(1, 2)] } with w := [(256, 9), (257, 1)] } .l)
      (fun t => t.myCtx.q.map (fun e => (e.1, e.2.map (·.data)))) = some [(3, [0x19])] ∧
    after (.qst g0 8 1 0) (on { only .s { x := [(1, 130)] } with y := [(0, [{ ready := true, data := 5 }])] } .s)
      (fun t => (t.me.ib.map (·.op), Map.get [] t.myCtx.y 0)) = some ([.qst 128 (5 :: List.replicate 63 0)], []) ∧
    after (.qldi g0 0 1 1) (on (only .l { x := [(1, 64)], prog := 1 }) .l) (fun t => (t.x 1, t.me.prog, t.me.ib.map (·.op))) =
      some (192, 0, [.qld 0 128]) := by decide

set_option maxRecDepth 4000 in
/-- R134, R126: the element address comes before the post-increment; a stored register that the word increments is read after it. -/
theorem test_loads_and_stores :
    let s := on (only .c { x := [(1, 0x1002), (2, 16), (5, 0xABCDEF)] }) .c
    after (.ld .s32 5 1 2 (-1)) s (fun t => (t.me.ib.map (·.op), t.x 1)) = some ([.load .s32 5 0xFFC], 0x1012) ∧
    after (.st .z16 5 1 0 1) s (fun t => (t.me.ib.map (·.op), t.x 1)) = some ([.store 0x1004 [0xEF, 0xCD]], 0x1002) ∧
    after (.st .z8 1 1 2 0) s (fun t => t.me.ib.map (·.op)) = some [.store 0x1002 [0x12]] := by decide

/-- R127, R151, R7: a csrw of NSTAT clears; csrs of a format register; csrx of a stride; a read of CLKDIV. -/
theorem test_control_registers :
    let s := on { only .c { x := [(1, 0x2)], lv := [(2, { ls := 9 })] } with nstat := 7 } .c
    after (.csrw 0x30 1) s (fun t => t.myCtx.nstat) = some 5 ∧
    after (.csrw 0x41 1) s (fun t => Map.get 15 (t.core 0).bfmt 1) = some 2 ∧
    after (.csrx 3 0x0A 1) s (fun t => (t.x 3, (t.me.level 2).ls)) = some (9, 2) ∧
    after (.csrr 3 0x62) s (fun t => t.x 3) = some 0x2000 ∧
    after (.csrr 3 0x20) s (fun t => t.x 3) = some 0x200 := by decide

/-- R152, R153, R279: the system words. -/
theorem test_system_words :
    after .nop (on {} .e) (fun t => t.me.pc) = some 4 ∧ after .stop (on {} .l) (fun t => t.me.stopped) = some true ∧
    after .halt (on {} .c) (fun t => (t.me.stopped, t.myCtx.retiring)) = some (true, true) ∧
    after .stop (on {} .c) (fun t => t.myCtx.st) = some .draining ∧
    after .yield (on { persist := true } .c) (fun t => (t.me.held, t.me.pc)) = some (.yield, 0) ∧
    after .abort { on {} .c with regions := [(0, { st := .running })] } (fun t => ((t.region 0).line, (t.region 0).st)) =
      some (true, .aborting) ∧
    after .brk { on {} .c with brkArmed := [0] } (fun t => (t.myCtx.st, t.myCtx.drain)) = some (.draining, some .debugStop) ∧
    after (.vrnd .rup) (on {} .e) (fun t => t.myCtx.vmode) = some .rup ∧
    after .fence (on (only .c { ib := [{ op := .tide 1 }] }) .c) (fun t => t.me.held) = some (.wait .fence) ∧
    after (.tide 4) (on {} .c) (fun t => t.me.ib.map (·.op)) = some [.tide 4] ∧
    after (.reservedMajor 0x11) (on {} .e) (fun t => t.myCtx.st) = some .draining := by decide

/-- R231, R234, R235: a word that traps drains its context toward a record that names the word. -/
theorem test_trap_drains :
    after (.csrr 1 0x99) (on (only .c { pc := 100 }) .c) (fun t => (t.myCtx.st, t.myCtx.drain, t.me.pc)) =
    some (.draining, some (.trap { cause := .illegalEnc, st := .c, wpc := 100 }), 100) := by decide

/-! Vector and matrix words. -/

/-- E with lane 0 alone active under m1, and s8 elements of 100 in lane 0 of rows 1 and 2. -/
def lane0 : Ctx := { masks := [(1, 1)], w := [(128, 4), (129, 6), (256, 4), (257, 6)] }
/-- The control fields of a word under m1. -/
def v1 (ty : Ty) : VCtl := { g := g0, pred := 1, ty := ty }
/-- The results in flight after a word of E: of each its cycle, its NSTAT bits, and its slices, position before value. -/
def inFlight (i : Instr) (c : Ctx) : Option (List Nat) :=
  after i (on c .e) (fun t => t.myCtx.pend.flatMap (fun p => p.due :: p.nstat.toNat :: p.slices.flatMap (fun e => [e.1, e.2.toNat])))

/-- R69, R90, R95, R161, R162: 100 + 100 saturates to 127 and sets SAT; 100 − 100; 100·100 / 256 = 39; the average rounds. -/
theorem test_integer_lanes :
    [inFlight (.vadd (v1 .s8) (wo 0 1) (wo 1 1) (wo 2 1)) lane0,
      inFlight (.vsub (v1 .s8) (wo 0 1) (wo 1 1) (wo 2 1)) lane0,
      inFlight (.vmulh (v1 .s8) (wo 0 1) (wo 1 1) (wo 2 1)) lane0,
      inFlight (.vavg (v1 .s8) (wo 0 1) (wo 1 1) (wo 3 1)) lane0,
      inFlight (.vneg (v1 .z8) (wo 0 1) (wo 1 1)) lane0,
      inFlight (.vrol (v1 .z8) (wo 0 1) (wo 1 1) (wo 2 1)) lane0] =
    [some [3, 1, 0, 15, 1, 7],
      some [3, 0, 0, 0, 1, 0],
      some [3, 0, 0, 7, 1, 2],
      some [3, 0, 0, 2, 1, 3],
      some [3, 1, 0, 0, 1, 0],
      some [3, 0, 0, 6, 1, 4]] := by decide

/-- The h value 1 in row 1 and the f value 1 + 2^-11 in row 2: lane 0. -/
def floats : Ctx := { masks := [(1, 1)], w := [(130, 12), (131, 3), (259, 1), (261, 8), (262, 15), (263, 3)] }

/-- R89, R91, R161: 1 + 1 under h; a tie of a conversion goes to even; a square root of −1 is a NaN and sets NV. -/
theorem test_floating_lanes :
    [inFlight (.vadd (v1 .h) (wo 0 2) (wo 1 2) (wo 1 2)) floats,
      inFlight (.vcvt (v1 .h) (wo 0 2) (wo 2 3) .f) floats,
      inFlight (.vcvt (v1 .h) (wo 0 2) (wo 2 3) .f) { floats with vmode := .rup },
      inFlight (.vsqrt (v1 .h) (wo 0 2) (wo 1 2)) { floats with w := [(130, 12), (131, 11)] }] =
    [some [5, 0, 0, 0, 1, 0, 2, 0, 3, 4],
      some [4, 0, 0, 0, 1, 0, 2, 12, 3, 3],
      some [4, 0, 0, 1, 1, 0, 2, 12, 3, 3],
      some [9, 2, 0, 0, 1, 0, 2, 14, 3, 7]] := by decide

set_option maxRecDepth 4000 in
/-- R128, R168, R169: bits above n are cleared by a compare; the flag word of a mask. -/
theorem test_masks :
    after (.vceq (v1 .s8) 2 (wo 1 1) (wo 2 1)) (on lane0 .e) (fun t => t.myCtx.pend.map (·.masks)) =
      some [[(2, 0xFFFFFFFFFFFFFFFF0000000000000001, 1)]] ∧
    after (.vmxor g0 2 1 0) (on lane0 .e) (fun t => t.myCtx.pend.map (·.masks)) =
      some [[(2, 0xFFFFFFFFFFFFFFFFFFFFFFFFFFFFFFFF, 0xFFFFFFFFFFFFFFFFFFFFFFFFFFFFFFFE)]] ∧
    after (.vflags g0 .s8 1) (on lane0 .e) (fun t => t.myCtx.pend.map (·.wf)) = some [some 0x481] ∧
    after (.vflags g0 .s4 0) (on lane0 .e) (fun t => t.myCtx.pend.map (·.wf)) = some [some 0x180] := by decide

/-- R170 to R174: a broadcast, a slide that fills, a sum of two active lanes. -/
theorem test_moves_and_sums :
    [inFlight (.vbcast (v1 .s8) (wo 0 1) (wo 0 0) 5 0) { only .e { x := [(5, 0x1AB)] } with masks := [(1, 4)] },
      inFlight (.vslup (v1 .s8) (wo 0 1) (wo 1 1) 5 2) { only .e { x := [(5, 7)] } with masks := [(1, 6)], w := [(128, 4)] },
      inFlight (.vrsum (v1 .s8) (wo 0 1) (wo 1 1)) { masks := [(1, 3)], w := [(128, 5), (130, 15), (131, 15)] }] =
    [some [3, 0, 4, 11, 5, 10],
      some [3, 0, 2, 7, 3, 0, 4, 4, 5, 0],
      some [3, 0, 0, 4, 1, 0]] := by decide

/-- R66, R67, R72: an element above row 767 raises W_RANGE; a word waits for an empty queue. -/
theorem test_vector_faults :
    after (.vadd (v1 .s16) { wo 0 2 with row := 767, slc := 126 } (wo 1 2) (wo 2 2)) (on { masks := [(1, 1)] } .e) (fun t => t.myCtx.drain) =
      some (some (.trap { cause := .wRange, st := .e })) ∧
    after (.vadd (v1 .s8) (wo 0 1) (wo 1018 1) (wo 2 1)) (on lane0 .e) (fun t => (t.me.held, t.me.pc)) = some (.emptyQueue 2, 0) := by
  decide

/-- R181: defer appends a record per active lane. -/
theorem test_defer :
    after (.defer (v1 .s8) (wo 1 1) 7 5 0) (on { lane0 with seqE := { x := [(5, 50)] } } .e) (fun t => t.myCtx.back) =
      some [{ tag := 7, k := 1, width := 2, lane := 0, index := 50, elems := [100] }] := by decide

/-- R182: drain takes the oldest record of its tag, writes its element and its index, and sets its mask. -/
theorem test_drain :
    after (.drain g0 .s8 (wo 0 1) (wo 3 3) 4 7 0)
      (on { back := [{ tag := 6, k := 1, width := 2, lane := 0, index := 1, elems := [1] },
        { tag := 7, k := 1, width := 2, lane := 3, index := 50, elems := [100] }] } .e)
      (fun t => (t.myCtx.back.map (·.tag), t.myCtx.pend.flatMap (·.slices))) =
      some ([6], [(0, 4), (1, 6), (384, 2), (385, 3), (386, 0), (387, 0), (388, 0), (389, 0), (390, 6), (391, 0)]) := by decide

/-- R178, R179: the first byte that wspill stores, and the first slices that wfill loads: the lower slice is the low nibble. -/
theorem test_spill_and_fill :
    after (.wspill g0 { bank := 1, off := 4, xs := 0 } { row := 1, slc := 0, rb := false } 2) (on { lane0 with bankSet := 2 } .e)
      (fun t => (t.me.ib.map (·.op), t.me.next)) = some ([.spill 32772 [0x64, 0]], 1) ∧
    inFlight (.wfill g0 { row := 1, slc := 0, rb := false } { bank := 0, off := 4, xs := 0 } 2) { bankSet := 1 } =
      some [3, 0, 128, 0, 129, 0, 130, 0] := by decide

/-- R69, R70, R128: a result lands at its cycle, its flag word six cycles later at C. -/
theorem test_landing :
    after (.vectorLand 0) (on { pend := [{ no := 4, due := 0, slices := [(5, 3)], wf := some 0x481, nstat := 1 }] } .e)
      (fun t => ((t.act 0).w, (t.act 0).wfNext, (t.act 0).nstat, (t.act 0).pend)) = some ([(5, 3)], [(6, 0x481)], 1, []) := by decide

/-- R183, R185, R190, R191: a compute word without a lease traps; with one it enters the order and takes a credit; a lease is parked
at the head of the order; a token comes with completion. -/
theorem test_matrix_order :
    after (.mzero g0 5) (on {} .e) (fun t => t.myCtx.drain) = some (some (.trap { cause := .queueMisuse, st := .e })) ∧
    after (.mzero g0 5) (on { leaseOpen := true } .e) (fun t => (t.myCtx.order.map (·.op), t.myCtx.credit, t.me.pc)) =
      some ([.mzero 5], 1, 24) ∧
    after (.matrixOrderHead 0) (on { order := [{ op := .mlease }], mxOut := 1 } .e) (fun t => (t.myCtx.lease, t.myCtx.order, t.myCtx.mxOut)) =
      some (.parked, [], 0) ∧
    after (.mwait g0) (on { mxOut := 1 } .e) (fun t => t.me.held) = some (.wait .array) := by decide

/-! Objects, accesses and memory. -/

/-- Polder p's tables for virtual page 0, whose leaf has these flags and the AC bit, with the frame's first bytes. -/
def cells (p flags : Nat) (bytes : List Host.Cell) : List Host.Cell :=
  [(256 * p + 19, 0x10),
   (0x10000000, 1), (0x10000001, 0x20), (0x10000003, 0x10),
   (0x10002000, 1), (0x10002001, 0x40), (0x10002003, 0x10),
   (0x10004000, 1), (0x10004001, 0x60), (0x10004003, 0x10),
   (0x10006000, .ofNat 8 flags), (0x10006001, 1), (0x10006002, 1),
   (0x10006003, 0x10)] ++ bytes
/-- Bytes of the frame at offsets. -/
def frame (l : List (Nat × Byte)) : List Host.Cell := l.map (fun e => (0x10010000 + e.1, e.2))
/-- C of core 0 with x1 to x3, over polder 0's page 0 with these flags and bytes. -/
def mapped (flags : Nat) (l : List (Nat × Byte)) (x : Map Word) (c : Ctx := {}) : State :=
  { on { c with seqC := { x := x } } .c with mem := cells 0 flags (frame l) }

/-- R301: with SLOTS 4, PUB 3 and TKN 1, rwaitf of two slots returns 1 and TKN becomes 3; of three slots it waits. -/
theorem test_ring_wait :
    after (.rwaitf g0 3 1 2) (mapped 9 [(0, 1), (4, 4), (16, 3), (20, 3), (24, 1)] [(2, 2)]) (fun t =>
      (t.x 3, t.tkn 0x10010000, t.me.pc)) = some (1, 3, 4) ∧
    after (.rwaitf g0 3 1 2) (mapped 9 [(0, 1), (4, 4), (16, 3), (20, 3), (24, 1)] [(2, 3)]) (fun t => (t.me.held, t.me.pc)) =
      some (.obj (.rwaitf 0x10010000 3), 0) := by decide

/-- R297, R298: the last of two parties completes phase 6; its barr returns 6. -/
theorem test_barrier :
    after (.barr g0 3 1) (mapped 9 [(0, 2), (1, 1), (4, 2), (8, 1), (16, 6)] []) (fun t =>
      (t.x 3, t.phase 0x10010000, t.arrived 0x10010000)) = some (6, 7, 0) := by decide

/-- R303: crecv moves the oldest entry to the scratchpad. -/
theorem test_culvert :
    let s := on { seqC := { x := [(1, 0xFFFFFFFFF00040)] }, bankSet := 1, culs := [0, 0, 8, 0] } .c
    after (.crecv g0 3 1 2) (s.updCore 0 (fun c => { c with cul := [(2, { size := 8, entries := [[7], [9]] })] })) (fun t =>
      (t.x 3, (t.core 0).sp, t.me.pc)) = some (1, [(64, 7)], 4) := by decide

/-- R133, R134: a byte load from the scratchpad extends its sign. -/
theorem test_scratchpad_load :
    let c : Ctx := { seqL := { ib := [{ op := .load .s8 5 0xFFFFFFFFF00004 }] }, bankSet := 1 }
    after (.accessPerform 0 .l) ((on c .l).updCore 0 (fun k => { k with sp := [(4, 0x80)] })) (fun t => (t.x 5, t.me.ib)) =
      some (0xFFFFFFFFFFFFFF80, []) := by decide

/-- R104: a plain store enters the store buffer at its physical address, and reaches memory when it drains. -/
theorem test_store :
    after (.accessPerform 0 .c) (mapped 1 [] [] |>.updMe (fun q => { q with ib := [{ op := .store 0x20 [5] }] })) (fun t =>
      (t.core 0).sb.map (fun e => (e.pa, e.data))) = some [(0x10010020, [5])] ∧
    after (.storeDrain 0) { cores := [(0, { sb := [{ pa := 0x10010020, data := [5] }] })] } (fun t => t.mem) =
      some [(0x10010020, 5)] := by decide

/-! Commands, queues, the front end, and the host's side. -/

/-- Command 1 of core 0, started, with these words. -/
def command (words : List Word) (mem : List Host.Cell) : State :=
  { cmds := [(1, { id := 1, words := words, oid := 0, started := true })], clusters := [(0, { cpe := { run := [1] } })], mem := mem }

/-- R214: fill writes its pattern from its first byte on. -/
theorem test_fill :
    after (.fill 0 1) (command [7, 0x1122334455667788, 6, 3, 0, 0, 0, 0] (cells 0 1 [])) (fun t =>
      ((List.range 5).map (fun i => t.readByte (0x10010005 + i)), (Map.find t.cmds 1).map (fun c => (c.ending, c.done)))) =
    some ([0, 0x88, 0x77, 0x66, 0], some (.stepped, 3)) := by decide

/-- R211: a copy of three bytes. -/
theorem test_copy :
    after (.copy1 0 1) (command [1, 0, 16, 3, 0, 0, 0, 0] (cells 0 1 (frame [(0, 9), (1, 8), (2, 7)]))) (fun t =>
      t.readBytes 0x10010010 4) = some [9, 8, 7, 0] := by decide

/-- R218: an accum adds its source to an element. -/
theorem test_accum :
    after (.accum 0 1) (command [6, 0, 16, 1, 0, 0, 0, 0] (cells 0 1 (frame [(0, 9), (16, 0xFF)]))) (fun t =>
      t.readBytes 0x10010010 4) = some [8, 1, 0, 0] := by decide

/-- R247: TAIL moves forward; a doorbell beyond the ring, or at another offset, sets DBERR. -/
theorem test_doorbell :
    let s : State := { terps := [(0, { cache := [(5, { log2 := 2, st := .idle })] })] }
    let f (t : State) := (t.cached 5).map (fun e => (e.2.tail, e.2.st, e.2.dberr))
    after (.doorbell 5 0 [4, 0, 0, 0]) s f = some (some (4, .active, false)) ∧
    after (.doorbell 5 0 [5, 0, 0, 0]) s f = some (some (0, .idle, true)) ∧
    after (.doorbell 5 4 [1, 0, 0, 0]) s f = some (some (0, .idle, true)) := by decide

/-- R260: bfx of the field at 4 of length 8, and its fault 26. -/
theorem test_front_end_word :
    after (.bfx 10 11 12) { feps := [(0, { x := [(11, 0xABCD), (12, 0x804)] })] } (fun t => (t.fep 0).get 10) = some 0xBC ∧
    after (.bfx 10 11 12) { feps := [(0, { x := [(11, 0xABCD), (12, 0x004)], pc := 8, mtvec := 0x101 })] } (fun t =>
      ((t.fep 0).mcause, (t.fep 0).mepc, (t.fep 0).mtval, (t.fep 0).pc)) = some (26, 8, 4, 0x100) := by decide

/-- R366: SENSOVR 0x80006005 forces core 5 to 96, at or above TMIG. -/
theorem test_sensor_override :
    after (.sensovrWrite 0 0x80006005) {} (fun t => ((t.core 5).migReq, (t.terp 0).ovEn, (t.terp 0).ovTemp)) = some (true, true, 96) := by
  decide

/-- R351: with divisors 5 and 9 permitted, an island at 2 hops to 5; DIVOK 0 is refused. -/
theorem test_divisors :
    after (.islandDivisorPermit 7 0x88) {} (fun t => ((t.island 7).hop.map (·.1), (t.island 7).divok)) = some (some 5, 0x88) ∧
    after (.islandDivisorPermit 7 0) {} (fun t => ((t.island 7).perr, (t.island 7).divok)) = some (true, 0x7FFF) := by decide

/-- R325: a port trains, locks with the latency 250 + 2·delay, and has its credit. -/
theorem test_training :
    after (.dlkTrain 3) {} (fun t => ((t.port 3).st, (t.port 3).en)) = some (.training, true) ∧
    after (.trainDone 3 100 7 2) { ports := [(3, { st := .training, timeout := 10 })] } (fun t =>
      ((t.port 3).st, (t.port 3).tlat, (t.port 3).pdev, (t.port 3).credit)) = some (.up, 450, 7, 64) := by decide

/-- R350: the unit with the smaller start tag is served, and virtual time becomes its tag. -/
theorem test_server :
    let a : UnitW := { polder := 1, owner := 0, tag := some (3, 1), no := 0 }
    let b : UnitW := { polder := 2, owner := 0, tag := some (5, 2), no := 1 }
    after (.unitService .fabric) { mem := [(266, 1), (522, 2)], fab := { waiting := [a, b] } } (fun t => (t.fab.v, t.fab.waiting)) = some ((5, 2), [a]) := by decide

/-! The worked admission of chapter 23. -/

/-- A path over DRAM and the copy engine, from its rates in bytes/ns and its bursts. -/
def path23 (r0 s0 r1 s1 : Nat) : List PStep :=
  [{ cls := 0, sigma := s0, rho := r0 * 65536 }, { cls := 2, sigma := s1, rho := r1 * 65536 }]
/-- Polders 2 and 4 carry a DRAM weight of 1, cluster 5 is polder 4's, and these owners of it are admitted. -/
def levee23 (l : List (Nat × Nat × List PStep)) : State :=
  { mem := [(512, 1), (520, 1), (1024, 1), (1028, 0x20),
      (1032, 1)],
    owners := [(14, { st := .free, polder := 4 })] ++ l.map (fun e => (e.1, { st := .admitted, polder := 4, path := e.2.2, pub := e.2.1 })) }
/-- Owners 12 and 13 as they are admitted. -/
def twelve : Nat × Nat × List PStep := (12, 600, path23 600 24000 100 0)
/-- The second of them. -/
def thirteen : Nat × Nat × List PStep := (13, 560, path23 1200 12000 150 1100)
/-- DK and BK of each step of a declaration of owner 14, with REASON, NAMED, EXCESS and NEWB. -/
def figures (s : State) (path : List PStep) : List (Nat × Nat) × Nat × Option Nat × Nat × Nat :=
  let e := verdictOn s 14 4 path 620
  (path.zip (bursts e.db 4 none path) |>.map (fun x => (Map.get 0 e.d (nodeKey 4 x.1.cls), x.2)),
    e.reason, e.named, e.excess, curOf e { own := 14, polder := 4, path := path })

/-- R337 to R342: the figures of the first verdict, here for one owner alone, of the refusal, and of the retry. -/
theorem test_admission :
    figures (levee23 []) (path23 600 24000 100 0) = ([(5507122, 24000), (10903225, 50420)], 0, some 14, 0, 251) ∧
    figures (levee23 [twelve, thirteen]) (path23 50 42000 50 0) = ([(6096946, 42000), (31021303, 4652)], 1, some 13, 7, 567) ∧
    figures (levee23 [twelve, thirteen]) (path23 50 30000 50 0) = ([(5965874, 30000), (30415095, 4552)], 0, some 14, 0, 556) := by decide

end Sys2Proof.Tests
end

