-- ==== Sys2Proof/Tests/Witness.lean ====
section
/-! SUPPORT. Witnesses: for every statement with hypotheses, and for each clause of one, a concrete state and operands that meet
all of them together, at the ends of ranges where a clause has one. Scalar, control, queue and object words. -/

open Sys2Proof Sys2Proof.Machine

namespace Sys2Proof.Tests

/-- A sequencer of core 0, with these registers, is about to issue: its context is RUNNING. -/
def at_ (st : Stream) (x : Map Word := []) (c : Ctx := {}) : State := on (c.setSeq st { c.seq st with x := x }) st

/-- An answer, by the option that holds it. -/
theorem ok_of {α ε : Type} {e : Except ε α} {x : α} (h : e.toOption = some x) : e = .ok x := by
  cases e with
  | ok a => exact congrArg Except.ok (Option.some.inj h)
  | error a => cases h
/-- The error of an answer. -/
def errorOf {α ε : Type} : Except ε α → Option ε
  | .ok _ => none
  | .error f => some f
/-- An error, by the option that holds it. -/
theorem error_of {α ε : Type} {e : Except ε α} {f : ε} (h : errorOf e = some f) : e = .error f := by
  cases e with
  | ok a => cases h
  | error a => exact congrArg Except.error (Option.some.inj h)

theorem witness_AluWordsWriteTheirResult : ∀ st, (at_ st).Issues streams noGuard [1, 2, 3] := by
  intro st; cases st <;> exact ⟨by decide, by decide, by decide⟩

/-- A guard on the first iteration of level 5 that holds. -/
theorem witness_guarded_words :
    (on (only .e { lv := [(5, { act := true, lc := 2 })] }) .e).Issues streams ⟨6, 0⟩ [15] := ⟨by decide, by decide, by decide⟩

theorem witness_ImmediateWordsWriteTheirResult : (at_ .c).Issues streams noGuard [15, 0] := ⟨by decide, by decide, by decide⟩

theorem witness_BitFieldWordsWriteTheirResult : (at_ .s).Issues streams noGuard [3, 1, 2] := ⟨by decide, by decide, by decide⟩

/-- Equal; below signed and not unsigned; below unsigned: every condition holds of one and fails of another. -/
theorem witness_RegisterBranchesMoveThePc :
    ∀ x ∈ ([[], [(1, m1)], [(2, 1)]] : List (Map Word)), (at_ .c x).Issues [.c] noGuard [1, 2] ∧
      leavesBody (at_ .c x).me (Claims.target (at_ .c x) (BitVec.toInt (-2048 : BitVec 12))) = false := by
  intro x h
  simp only [List.mem_cons, List.not_mem_nil, or_false] at h
  rcases h with rfl | rfl | rfl <;> exact ⟨⟨by decide, by decide, by decide⟩, by decide⟩
theorem witness_register_branch_sides :
    let s0 := at_ .c; let s1 := at_ .c [(1, m1)]; let s2 := at_ .c [(2, 1)]
    s0.x 1 = s0.x 2 ∧ s1.x 1 ≠ s1.x 2 ∧ (s1.x 1).toInt < (s1.x 2).toInt ∧ ¬ (s0.x 1).toInt < (s0.x 2).toInt ∧
      ¬ (s1.x 1).toNat < (s1.x 2).toNat ∧ (s2.x 1).toNat < (s2.x 2).toNat := by decide

theorem witness_FlagBranchesMoveThePc :
    (at_ .c [] { wf := 0x180 }).Issues [.c] noGuard [1] ∧
      leavesBody (at_ .c).me (Claims.target (at_ .c) (BitVec.toInt (2047 : BitVec 12))) = false ∧
      ((0x180 : BitVec 32).getLsbD 7 = true ∧ (0x180 : BitVec 32).getLsbD 8 = true ∧ (0x180 : BitVec 32).getLsbD 9 = false) ∧
      ((0x200 : BitVec 32).getLsbD 7 = false ∧ (0x200 : BitVec 32).getLsbD 8 = false ∧ (0x200 : BitVec 32).getLsbD 9 = true) ∧
      (128 ≤ Claims.wfCnt 0x180 ∧ ¬ 1 ≤ Claims.wfCnt 0x200) ∧ ∀ st, (at_ st).Issues streams noGuard [] := by
  refine ⟨⟨by decide, by decide, by decide⟩, by decide, by decide, by decide, by decide, fun st => ?_⟩
  cases st <;> exact ⟨by decide, by decide, by decide⟩

theorem witness_QueueBranchesPopAnOutcome :
    (∀ st ∈ ([.l, .e, .s] : List Stream), (at_ st).Issues [.l, .e, .s] noGuard []) ∧
    Map.get [] (at_ .l [] { bq := [(13, [true])] }).myCtx.bq (Claims.ownQueue .l) = true :: [] ∧
    Map.get [] (at_ .s [] { bq := [(15, [false, true])] }).myCtx.bq (Claims.ownQueue .s) = false :: [true] ∧
    leavesBody (at_ .l).me (Claims.target (at_ .l) (BitVec.toInt (3 : BitVec 12))) = false ∧
    Map.get [] (at_ .e).myCtx.bq (Claims.ownQueue .e) = [] ∧ (at_ .e).lineUp (at_ .e).myCtx = false := by
  refine ⟨?_, by decide, by decide, by decide, by decide, by decide⟩
  intro st h
  simp only [List.mem_cons, List.not_mem_nil, or_false] at h
  rcases h with rfl | rfl | rfl <;> exact ⟨by decide, by decide, by decide⟩

theorem witness_JumpsLinkAndGo :
    (at_ .e [(1, m1)]).Issues streams noGuard [1, 1] ∧
      leavesBody (at_ .e).me (Claims.target (at_ .e) (BitVec.toInt (0x80000 : BitVec 20))) = false ∧
      leavesBody (at_ .e).me 0xFFFFFFFFFFFFFC = false := ⟨⟨by decide, by decide, by decide⟩, by decide, by decide⟩

/-- A body of two words at 4 and 8, with the word at 8 about to issue. -/
def inBodyOf (st : Stream) (x : Map Word := []) (c : Ctx := {}) : State :=
  on (c.setSeq st { x := x, pc := 8, lv := [(0, { act := true, lc := 2, top := 4, lendAt := 8 })] }) st
/-- The same in C. -/
def inBody : State := inBodyOf .c
theorem witness_JumpOutOfTheBodyTraps :
    (inBody.Issues streams noGuard [0] ∧ Claims.faultReady inBody ∧ inBody.me.innermost = some 0 ∧
      Claims.target inBody 1 > (inBody.me.level 0).lendAt ∧ Claims.target inBody (-2) < (inBody.me.level 0).top) ∧
    (∀ st, (inBodyOf st).Issues streams noGuard [1, 2] ∧ Claims.faultReady (inBodyOf st) ∧ (inBodyOf st).Issues streams noGuard [] ∧
      (inBodyOf st).me.innermost = some 0 ∧ ((inBodyOf st).me.level 0).lendAt < 0xC) ∧
    (((inBodyOf .c [(1, m1)]).x 1).toInt < ((inBodyOf .c [(1, m1)]).x 2).toInt ∧ (inBodyOf .c [(2, 1)]).x 1 ≠ (inBodyOf .c [(2, 1)]).x 2 ∧
      ((inBodyOf .c [(2, 1)]).x 1).toNat < ((inBodyOf .c [(2, 1)]).x 2).toNat ∧ (inBodyOf .c).x 1 = (inBodyOf .c).x 2) ∧
    ((0x180 : BitVec 32).getLsbD 7 = true ∧ (0x180 : BitVec 32).getLsbD 8 = true ∧ (0x200 : BitVec 32).getLsbD 9 = true ∧
      (inBodyOf .c [] { wf := 0x180 }).myCtx.wf = 0x180 ∧ ((inBodyOf .c).x 1).toNat ≤ Claims.wfCnt 0x200 ∧
      (inBodyOf .c).Issues [.c] noGuard [1, 2]) ∧
    (∀ st ∈ ([.l, .e, .s] : List Stream), (inBodyOf st).Issues [.l, .e, .s] noGuard []) ∧
    Map.get [] (inBodyOf .e [] { bq := [(14, [true])] }).myCtx.bq (Claims.ownQueue .e) = true :: [] ∧
    Map.get [] (inBodyOf .s [] { bq := [(15, [false])] }).myCtx.bq (Claims.ownQueue .s) = false :: [] := by
  refine ⟨⟨⟨by decide, by decide, by decide⟩, ⟨by decide, by decide⟩, by decide, by decide, by decide⟩, fun st => ?_, by decide,
    ⟨by decide, by decide, by decide, by decide, by decide, by decide, by decide, by decide⟩, ?_, by decide, by decide⟩
  · cases st <;> exact ⟨⟨by decide, by decide, by decide⟩, ⟨by decide, by decide⟩, ⟨by decide, by decide, by decide⟩, by decide, by decide⟩
  · intro st h
    simp only [List.mem_cons, List.not_mem_nil, or_false] at h
    rcases h with rfl | rfl | rfl <;> exact ⟨by decide, by decide, by decide⟩

theorem witness_LoopWordsOpenTheirLevel :
    -- a loop that passes its body by: one word that is read, and one that no page holds
    (let s := mapped 1 [] []
     unreadable s s.cur.1 s.cur.2 (s.me.pc + 4) 1 = none ∧
       unreadable (at_ .e) 0 .e ((at_ .e).me.pc + 4) 1 = some (4, .fault .pageAbsent)) ∧
    (at_ .l [(1, 0x100000000)]).Issues streams noGuard [1, 2] ∧
      (∀ n, n = 0 ∨ n = 5 → ∀ k, n ≤ k → k < 6 → ((at_ .l).me.level k).act = false) ∧
      ((at_ .l [(1, 63)]).x 1).toNat % 2 ^ 32 ≠ 0 ∧ ((at_ .l [(1, 0x100000000)]).x 1).toNat % 2 ^ 32 = 0 ∧
      inBody.Issues streams noGuard [1, 2] ∧ Claims.faultReady inBody ∧ (inBody.me.level 0).act = true := by
  refine ⟨by decide, ⟨by decide, by decide, by decide⟩, ?_, by decide, by decide, ⟨by decide, by decide, by decide⟩, ⟨by decide, by decide⟩,
    by decide⟩
  intro n _ k _ h
  exact (by decide : ∀ k < 6, ((at_ .l).me.level k).act = false) k h

/-- The last word of a loop at level 5 of a sequencer, with a count. -/
def atLend (st : Stream) (n : BitVec 32) (c : Ctx := {}) : State :=
  on (c.setSeq st { x := [(6, 7)], pc := 8, lv := [(5, { act := true, lc := n, top := 4, lendAt := 8, inst := 2 })] }) st
theorem witness_LendClosesAnIteration :
    (atLend .l 1).Issues streams noGuard [0, 3] ∧ (atLend .l 1).me.innermost = some 5 ∧
      ((atLend .l 1).me.level 5).lendAt = (atLend .l 1).me.pc ∧ (atLend .l 1).lineUp (atLend .l 1).myCtx = false ∧
      cutReached (atLend .l 1).myCtx 5 ((atLend .l 1).me.level 5) = none ∧
      ((atLend .l 1).me.level 5).lc - 1 = 0 ∧ ((atLend .l 2).me.level 5).lc - 1 ≠ 0 :=
  ⟨⟨by decide, by decide, by decide⟩, by decide, by decide, by decide, by decide, by decide, by decide⟩

theorem witness_BreakingLendPutsItsOutcome :
    (atLend .c 2).cur.2 = .c ∧ (atLend .c 2).Issues streams noGuard [6, 0] ∧ (atLend .c 2).me.innermost = some 5 ∧
      ((atLend .c 2).me.level 5).lendAt = (atLend .c 2).me.pc ∧ (atLend .c 2).lineUp (atLend .c 2).myCtx = false ∧
      (∀ k, k < 3 → (7 : BitVec 3).getLsbD k = true →
        (Map.get [] (atLend .c 2 { bq := [(13, List.replicate 15 true)] }).myCtx.bq (13 + k)).length < 16) ∧
      (atLend .c 2).x 6 ≠ 0 ∧ (atLend .c 2).x 1 = 0 ∧
      (∃ k, k < 3 ∧ (4 : BitVec 3).getLsbD k = true ∧ 16 ≤ (Map.get [] (atLend .c 2 { bq := [(15, List.replicate 16 true)] }).myCtx.bq (13 + k)).length) :=
  ⟨by decide, ⟨by decide, by decide, by decide⟩, by decide, by decide, by decide, by decide, by decide, by decide, ⟨2, by decide⟩⟩

theorem witness_FollowingLendsLeaveByOutcomeOrCut :
    ∀ st ∈ ([.l, .e, .s] : List Stream), let s := atLend st 2
      s.cur.2 ≠ .c ∧ s.Issues streams noGuard [3] ∧ s.me.innermost = some 5 ∧ (s.me.level 5).lendAt = s.me.pc ∧
      s.lineUp s.myCtx = false ∧ Map.get [] s.myCtx.bq (Claims.ownQueue st) = [] ∧ (s.me.level 5).lc - 1 ≠ 0 ∧
      Map.get [] (atLend st 1 { bq := [(Claims.ownQueue st, [true])] }).myCtx.bq (Claims.ownQueue st) = true :: [] ∧
      Map.get [] (atLend st 1 { bq := [(Claims.ownQueue st, [false])] }).myCtx.bq (Claims.ownQueue st) = false :: [] ∧
      ((atLend st 1).me.level 5).lc - 1 = 0 ∧
      (atLend st 2 { cuts := [{ lvl := 5, inst := 2, iter := 0 }] }).myCtx.cuts = [{ lvl := 5, inst := 2, iter := 0 }] ∧
      ({ lvl := 5, inst := 2, iter := 0 } : Cut).iter ≤ (s.me.level 5).it.toNat ∧ (s.me.level 5).inst = 2 := by
  intro st h
  simp only [List.mem_cons, List.not_mem_nil, or_false] at h
  rcases h with rfl | rfl | rfl <;> exact ⟨by decide, ⟨by decide, by decide, by decide⟩, by decide⟩

theorem witness_LendsUnderTheAbortLineStop :
    ∀ st, let s : State := { atLend st 2 with regions := [(0, { st := .aborting, line := true })] }
      s.Issues streams noGuard [0, 3] ∧ s.me.innermost = some 5 ∧ (s.me.level 5).lendAt = s.me.pc ∧ s.lineUp s.myCtx = true ∧
      s.myCtx.cuts = [] := by
  intro st; cases st <;> exact ⟨⟨by decide, by decide, by decide⟩, by decide⟩

theorem witness_RbsetSetsTheRotatingBase :
    (at_ .e [(1, m1)]).Issues streams noGuard [1] ∧ (767 : BitVec 10).toNat < 768 := ⟨⟨by decide, by decide, by decide⟩, by decide⟩

theorem witness_TokenWordsMoveTokens :
    (at_ .c).Issues [.c, .l, .e, .s] noGuard [1] ∧ giverOf 0 = some .c ∧ giverOf 11 = some .s ∧ takerOf 3 = some .c ∧
      (at_ .e).Issues streams noGuard [1] ∧ takerOf 12 = some .e ∧
      1 ≤ (at_ .e [] { kme := [none, none] }).myCtx.tokens 12 ∧ (∀ m ∈ (at_ .e [] { kme := [none, none] }).myCtx.kme, m = none) ∧
      15 ≤ (at_ .c [] { tok := [(3, 15)] }).myCtx.tokens 3 ∧ (at_ .c).myCtx.tokens 3 < 1 ∧ (at_ .c).lineUp (at_ .c).myCtx = false :=
  ⟨⟨by decide, by decide, by decide⟩, by decide, by decide, by decide, ⟨by decide, by decide, by decide⟩, by decide, by decide, by decide,
    by decide, by decide, by decide⟩

theorem witness_QueueMisuseTraps :
    Claims.faultReady (at_ .c) ∧ giverOf 12 ≠ some .c ∧ giverOf 3 ≠ some .c ∧ takerOf 0 ≠ some .c ∧ takerOf 15 ≠ some .c ∧
      (at_ .c).cur.2 = .c ∧ (12 : BitVec 4).toNat < 13 :=
  ⟨⟨by decide, by decide⟩, by decide, by decide, by decide, by decide, by decide, by decide⟩

theorem witness_BqputPutsAnOutcome :
    (at_ .c).Issues [.c] noGuard [1] ∧ (Map.get [] (at_ .c [] { bq := [(13, List.replicate 15 true)] }).myCtx.bq 13).length < 16 ∧
      16 ≤ (Map.get [] (at_ .c [] { bq := [(15, List.replicate 16 true)] }).myCtx.bq 15).length ∧ (at_ .c).lineUp (at_ .c).myCtx = false :=
  ⟨⟨by decide, by decide, by decide⟩, by decide, by decide, by decide⟩

theorem witness_QueueLoadsEnterTheIssueBuffer :
    (at_ .l).Issues [.l] noGuard [1] ∧ gatherTo (at_ .l) (at_ .l).myCtx.oid 7 = false ∧ roomQ (at_ .l) 7 = true ∧
      (at_ .l).me.prog < (15 : BitVec 4).toNat ∧ ¬ (at_ .l).me.prog < (0 : BitVec 4).toNat :=
  ⟨⟨by decide, by decide, by decide⟩, by decide, by decide, by decide, by decide⟩

theorem witness_QueueRowsPushWRows :
    (at_ .l [(1, 752)]).Issues [.l] noGuard [1] ∧ gatherTo (at_ .l) (at_ .l).myCtx.oid 0 = false ∧ roomQ (at_ .l) 0 = true ∧
      pendingQ (at_ .l).me 0 = 0 ∧ ((at_ .l [(1, 752)]).x 1).toNat + (15 : BitVec 4).toNat ≤ 767 ∧ (at_ .l).me.prog ≤ (15 : BitVec 4).toNat ∧
      (at_ .l).myCtx.wPoison = [] :=
  ⟨⟨by decide, by decide, by decide⟩, by decide, by decide, by decide, by decide, by decide, by decide⟩

/-- S with a landed entry in y3. -/
def landed (lv : Map Level := []) : State := on { seqS := { lv := lv }, y := [(3, [{ ready := true, data := 5 }])] } .s
theorem witness_QueueStoresPopLandedEntries :
    Map.get [] landed.myCtx.y ((11 : BitVec 4).toNat - 8) = { ready := true, data := 5 } :: [] ∧ landed.Issues [.s] noGuard [1] ∧
      (landed [(0, { act := true, lc := 2 })]).FalseSlot [.s] ⟨0, 1⟩ ∧
      Map.get [] (landed [(0, { act := true, lc := 2 })]).myCtx.y 3 = { ready := true, data := 5 } :: [] ∧
      Map.get [] landed.myCtx.y ((8 : BitVec 4).toNat - 8) = [] ∧ landed.lineUp landed.myCtx = false ∧
      Map.get [] (at_ .s [] { y := [(0, [{ ready := false }])] }).myCtx.y 0 = { ready := false } :: [] ∧
      (at_ .s [] { y := [(0, [{ ready := false }])] }).Issues [.s] noGuard [1] ∧
      (landed [(0, { act := true, lc := 2 })]).lineUp (landed [(0, { act := true, lc := 2 })]).myCtx = false :=
  ⟨rfl, ⟨by decide, by decide, by decide⟩, ⟨by decide, by decide⟩, rfl, rfl, by decide, rfl,
    ⟨by decide, by decide, by decide⟩, by decide⟩

theorem witness_PushWordsTakeTheCommand :
    (at_ .l [(8, 7)]).Issues [.c, .l, .s] noGuard (1 :: (List.range 8).map (fun i => (.ofNat 4 (8 + i) : XReg))) ∧
      (at_ .l).me.ib = [] ∧ (at_ .l).drained 0 false .l = true ∧
      (((at_ .l).updCore 0 (fun c => { c with inflight := 63 })).core 0).inflight < 64 ∧ (at_ .l).islandOn (6 * (0 / 4) + 5) = true ∧
      ¬ (({ at_ .l with islands := [(5, { droop := true })] } : State).islandOn 5 = true ∧ (at_ .l).me.ib ≠ []) ∧ (at_ .l).lineUp (at_ .l).myCtx = false ∧
      -- a command, and a launch with a version of its group
      ((at_ .l [(8, 7)]).x 8).toNat % 256 ≠ 14 ∧ ((at_ .l [(8, 14)]).x 8).toNat % 256 = 14 ∧
      ({ at_ .l with vers := [(0x10010000, [{ owner := some (.group 0) }])] } : State).chain 0x10010000 = [{ owner := some (.group 0) }] :=
  ⟨⟨by decide, by decide, by decide⟩, by decide, by decide, by decide, by decide, by decide, by decide, by decide, by decide, rfl⟩

theorem witness_LoadsAndStoresEnterTheIssueBuffer :
    (at_ .s [(1, 7)]).Issues [.c, .l, .s] noGuard [1, 1, 2] ∧ tyLd .s8 = true ∧ tyLd .z64 = true :=
  ⟨⟨by decide, by decide, by decide⟩, by decide, by decide⟩

theorem witness_CsrReadsReturnTheRegister :
    (at_ .e).Issues streams noGuard [1] ∧ (at_ .c).Issues streams noGuard [1] ∧ (at_ .c).cur.2 = .c ∧
      (0x06 : BitVec 12).toNat ∉ Claims.registers.map Prod.fst ∧ (0xFFF : BitVec 12).toNat ∉ Claims.registers.map Prod.fst ∧
      (at_ .e).cur.2 ≠ .c ∧ Claims.faultReady (at_ .e) :=
  ⟨⟨by decide, by decide, by decide⟩, ⟨by decide, by decide, by decide⟩, by decide, by decide, by decide, by decide, ⟨by decide, by decide⟩⟩

theorem witness_CsrWritesReachTheRegister : (at_ .e [(1, m1)]).Issues streams noGuard [2, 1] := ⟨by decide, by decide, by decide⟩

theorem witness_CsrWritesKeepTheirAccess : (at_ .e [(1, 2)] { nstat := 7 }).Issues streams noGuard [1] ∧ Claims.faultReady (at_ .e) :=
  ⟨⟨by decide, by decide, by decide⟩, ⟨by decide, by decide⟩⟩

/-- Islands 0 and 4, that of core 0 and that of the copy engine, with a hop in progress at island 5. -/
def hops (v : Word) : State := { at_ .c [(1, v)] with islands := [(5, { hop := some (4, 40) })] }
theorem witness_ClkdivWritesStartAHop :
    (hops 0).Issues streams noGuard [2, 1] ∧ Claims.hopIsland (hops 2) 2 = 0 ∧ Claims.hopIsland (hops 0x402) 0x402 = 4 ∧
      ((hops 2).island 0).hop = none ∧ ¬ Claims.permitted ((hops 17).island 0) 17 ∧ Claims.permitted ((hops 2).island 0) 2 ∧
      Claims.permitted ((hops 16).island 0) 16 ∧ ((hops 2).island 0).div.toNat = 2 ∧ ((hops 16).island 0).div.toNat ≠ 16 ∧
      Claims.hopIsland (hops 0x802) 0x802 = 5 ∧ ((hops 0x802).island 5).hop ≠ none ∧ (hops 0x802).lineUp (hops 0x802).myCtx = false ∧
      BitVec.ofNat 2 ((0xC02 : Word).toNat / 1024) = 3 ∧ Claims.faultReady (hops 0xC02) :=
  ⟨⟨by decide, by decide, by decide⟩, by decide, by decide, by decide, by unfold Claims.permitted; decide, by unfold Claims.permitted; decide,
    by unfold Claims.permitted; decide, by decide, by decide, by decide, by decide, by decide, by decide, ⟨by decide, by decide⟩⟩

theorem witness_PlainSystemWordsHaveTheirEffect :
    (∀ st, (at_ st).Issues streams noGuard []) ∧ (at_ .c).brkArmed.contains 0 = false ∧
      ({ at_ .c with brkArmed := [0] } : State).brkArmed.contains (at_ .c).myCtx.polder = true ∧ (at_ .c).myCtx.st = .running ∧
      (at_ .e).Issues [.e] noGuard [] ∧ (at_ .l).Issues [.c, .l, .s] noGuard [3] ∧ (at_ .l).Issues [.c, .l, .s] noGuard [] ∧
      (at_ .l).me.ib = [] ∧ (at_ .l).drained 0 false .l = true ∧ (at_ .l [] { seqL := { ib := [{ op := .tide 1 }] } }).me.ib ≠ [] ∧
      ((at_ .l).updCore 0 (fun c => { c with sb := [{ pa := 0, data := [1], st := .l }] })).drained 0 false .l = false ∧
      (at_ .l).lineUp (at_ .l).myCtx = false := by
  refine ⟨fun st => ?_, by decide, by decide, by decide, ⟨by decide, by decide, by decide⟩, ⟨by decide, by decide, by decide⟩,
    ⟨by decide, by decide, by decide⟩, by decide, by decide, by decide, by decide, by decide⟩
  cases st <;> exact ⟨by decide, by decide, by decide⟩

theorem witness_StopAndHaltEndTheirSequencer :
    (at_ .s).Issues [.l, .e, .s] noGuard [] ∧ (at_ .c).Issues [.c] noGuard [] ∧ (at_ .c).me.ib.any (fun e => isTxnOp e.op) = false ∧
      (at_ .c).myCtx.txn = none ∧ (at_ .c [] { seqC := { ib := [{ op := .xend 1 }] } }).me.ib.any (fun e => isTxnOp e.op) = true ∧
      (at_ .c).lineUp (at_ .c).myCtx = false ∧ (at_ .c [] { txn := some { id := 1, begin := 0, snap := 0 } }).myCtx.txn ≠ none ∧
      Claims.faultReady (at_ .c [] { txn := some { id := 1, begin := 0, snap := 0 } }) :=
  ⟨⟨by decide, by decide, by decide⟩, ⟨by decide, by decide, by decide⟩, by decide, by decide, by decide, by decide, by decide,
    ⟨by decide, by decide⟩⟩

/-- A persistent group of C whose other sequencers have stopped. -/
def resting (f : Core → Core := id) : State :=
  let q : Seq := { stopped := true }
  (on { persist := true, save := 1, seqL := q, seqE := q, seqS := q } .c).updCore 0 f
theorem witness_YieldOffersTheGroupBoundary :
    (at_ .c).Issues [.c] noGuard [] ∧ (at_ .c).myCtx.persist = false ∧ Claims.faultReady (at_ .c) ∧
      (let s := resting
       s.Issues [.c] noGuard [] ∧ s.myCtx.persist = true ∧ s.lineUp s.myCtx = false ∧
         (∀ st ∈ ([.l, .e, .s] : List Stream), s.restsForYield 0 false st = true) ∧ (∀ st ∈ streams, (s.myCtx.seq st).ib = []) ∧
         (s.core 0).a.pend = [] ∧ (s.core 0).b.pend = [] ∧ (s.core 0).a.mxOut = 0 ∧ (s.core 0).b.mxOut = 0 ∧
         ¬ (((s.region s.myCtx.group.region).st = .preempted ∧ s.myCtx.save ≠ 0) ∨ (s.core 0).migReq = true)) ∧
      ((resting (fun c => { c with migReq := true })).core 0).migReq = true ∧
      ((({ resting with regions := [(0, { st := .preempted })] } : State).region 0).st = .preempted ∧ resting.myCtx.save ≠ 0) ∧
      (at_ .c [] { persist := true }).restsForYield 0 false .l = false ∧ (at_ .c [] { persist := true }).myCtx.boundary = false ∧
      (at_ .c [] { persist := true, boundary := true }).myCtx.boundary = true := by
  refine ⟨⟨by decide, by decide, by decide⟩, by decide, ⟨by decide, by decide⟩, ⟨⟨by decide, by decide, by decide⟩, ?_⟩, ?_⟩ <;> decide

theorem witness_AbortAssertsTheRegionsLine :
    (at_ .c).Issues [.c] noGuard [] ∧ (at_ .c).myCtx.st = .running ∧
      (let s : State := { mapped 1 [] [] with regions := [(0, { st := .running, guest := 0x40 })] }
       s.Issues [.c] noGuard [] ∧ s.myCtx.st = .running ∧ (s.region s.myCtx.group.region).st = .running ∧ s.objs = [] ∧
         s.feAddr (s.region 0).polder (s.region 0).guest = some 0x10010040 ∧
         s.blocked 0 false .l = false ∧
         (s.updCtx 0 false (fun c => { c with seqL := { c.seqL with held := .emptyQueue 0 } })).blocked 0 false .l = true) :=
  ⟨⟨by decide, by decide, by decide⟩, by decide, ⟨by decide, by decide, by decide⟩, by decide⟩

/-- Iteration 1 of a loop at level 0, in which FIRST of level 0 fails. -/
def later (st : Stream) : State := on (Ctx.setSeq {} st { lv := [(0, { act := true, it := 1, lc := 2 })] }) st
theorem witness_FalseSlotsOnlyPassBy :
    (later .e).FalseSlot streams ⟨1, 0⟩ ∧ (later .s).FalseSlot [.c, .l, .s] ⟨1, 0⟩ ∧ (later .c).FalseSlot [.c] ⟨1, 0⟩ :=
  ⟨⟨by decide, by decide⟩, ⟨by decide, by decide⟩, ⟨by decide, by decide⟩⟩

theorem witness_IllegalStreamsAndGuardsTrap :
    Claims.faultReady (at_ .e) ∧ (at_ .e).cur.2 ∉ [Stream.c, .l, .s] ∧ (at_ .e).cur.2 ∉ [Stream.c] ∧
      ((6 : BitVec 3) ≠ 0 ∧ ((at_ .e).me.level ((6 : BitVec 3).toNat - 1)).act = false) ∧ (at_ .l).cur.2 ≠ .c ∧ (at_ .c).cur.2 = .c ∧
      (at_ .e).cur.2 = .e ∧ (at_ .c).cur.2 ≠ .e :=
  ⟨⟨by decide, by decide⟩, by decide, by decide, by decide, by decide, by decide, by decide, by decide⟩

theorem witness_ObjectWordsEnterTheIssueBuffer :
    (at_ .s).Issues [.c, .l, .s] noGuard [3, 1, 2] ∧ (at_ .c).Issues [.c] noGuard [3, 1] :=
  ⟨⟨by decide, by decide, by decide⟩, ⟨by decide, by decide, by decide⟩⟩

/-- The slot at virtual address 0. -/
def slot0 (flags : Nat) : Xlat := { pa := 0x10010000, leaf := 0x10010100 + flags, leafAt := 0x10006000 }

/-- A ring of 4 slots with 4 filled, none taken, none free. -/
def ring (n : Word) (flags : Nat := 9) : State := mapped flags [(0, 1), (4, 4), (16, 4), (20, 4)] [(2, n)]
theorem witness_RingWaitsTakeTheirSlots :
    (ring 4).Issues [.c, .l, .s] noGuard [3, 1, 2] ∧ Claims.onObject (ring 4) 0 .objWrite 1 (slot0 9) ∧
      ¬ (((ring 4).x 2).toNat = 0 ∨ (ring 4).slots 0x10010000 < ((ring 4).x 2).toNat) ∧
      ((ring 4).x 2).toNat ≤ sub32 ((ring 4).pub 0x10010000) ((ring 4).tkn 0x10010000) ∧ (ring 4).firstInLine 0x10010000 0 .c = true ∧
      (let s := mapped 9 [(0, 1), (4, 4), (16, 4), (20, 3)] [(2, 4)]
       sub32 (s.pub 0x10010000) (s.tkn 0x10010000) < (s.x 2).toNat ∧ s.lineUp s.myCtx = false) ∧
      ((ring 0).x 2).toNat = 0 ∧ Claims.faultReady (ring 0) ∧ (ring 5).slots 0x10010000 < ((ring 5).x 2).toNat ∧
      Claims.onObject (ring 1 25) 0 .objRead 1 (slot0 25) ∧ (ring 1 25).freeSlots 0x10010000 < ((ring 1 25).x 2).toNat ∧
      ((mapped 25 [(0, 1), (4, 4)] [(2, 4)]).x 2).toNat ≤ (mapped 25 [(0, 1), (4, 4)] [(2, 4)]).freeSlots 0x10010000 :=
  ⟨⟨by decide, by decide, by decide⟩, ⟨by decide, by decide, ok_of (by decide)⟩, by decide, by decide, by decide, by decide, by decide,
    ⟨by decide, by decide⟩, by decide, ⟨by decide, by decide, ok_of (by decide)⟩, by decide, by decide⟩

/-- A barrier of 2 parties in phase 6, with a number arrived; STATE 0 is DEAD. -/
def barrier (alive arrived : Byte) (c : Ctx := {}) : State :=
  mapped 9 [(0, 2), (1, alive), (4, 2), (8, arrived), (16, 6)] [(2, 5)] c
theorem witness_BarrierWordsArriveAndWait :
    (barrier 1 0).Issues [.c, .l, .s] noGuard [3, 1, 2] ∧ Claims.onObject (barrier 1 0) 0 .objWrite 2 (slot0 9) ∧
      (barrier 1 0).slotState 0x10010000 ≠ 0 ∧ (barrier 1 0).drained 0 false .c = true ∧
      (barrier 1 0).arrived 0x10010000 + 1 ≠ (barrier 1 0).parties 0x10010000 ∧
      (barrier 1 1).arrived 0x10010000 + 1 = (barrier 1 1).parties 0x10010000 ∧ ((barrier 1 1).obj 0x10010000).arrivals = [] ∧
      (barrier 0 0).slotState 0x10010000 = 0 ∧ Claims.faultReady (barrier 0 0) ∧ (barrier 1 0).waitsAt 0x10010000 0 .c = false ∧
      Claims.onObject (barrier 1 0) 0 .objRead 2 (slot0 9) ∧ ((barrier 1 0).x 2).toNat < (barrier 1 0).phase 0x10010000 ∧
      (mapped 9 [(16, 5)] [(2, 5)]).phase 0x10010000 ≤ ((mapped 9 [(16, 5)] [(2, 5)]).x 2).toNat ∧
      (barrier 1 0).lineUp (barrier 1 0).myCtx = false ∧ (barrier 1 0).arrived 0x10010000 + 1 = 1 ∧
      Claims.onObject (barrier 0 0) 0 .objWrite 2 (slot0 9) :=
  ⟨⟨by decide, by decide, by decide⟩, ⟨by decide, by decide, ok_of (by decide)⟩, by decide, by decide, by decide, by decide, by decide,
    by decide, ⟨by decide, by decide⟩, by decide, ⟨by decide, by decide, ok_of (by decide)⟩, by decide,
    by decide, by decide, by decide, ⟨by decide, by decide, ok_of (by decide)⟩⟩

/-- The barrier or the ring of the frame, with words of C that wait there. -/
def waiting (s : State) (l : List Waiter) : State := { s with objs := [(0x10010000, { waiters := l })] }
/-- A word of C that waits, for x3. -/
def waitsC (w : ObjWait) (st : Stream := .c) : Waiter := { oid := 0, st := st, w := w, xd := 3 }
theorem witness_PassingWaitersPerformInOneStep :
    (let s := waiting (barrier 1 1) [waitsC (.bwait 0x10010000 6), waitsC (.bwait 0x10010000 7) .l]
     s.findOid 0 = some (0, false) ∧ s.issuesOn 0 false = true ∧
       (s.obj 0x10010000).waiters.Pairwise (fun v u => v.oid ≠ u.oid ∨ v.st ≠ u.st) ∧
       waitsC (.bwait 0x10010000 6) ∈ (s.obj 0x10010000).waiters ∧ 6 < (s.phase 0x10010000 + 1) % 2 ^ 64) ∧
    (let s := waiting (ring 4) [waitsC (.rwaitf 0x10010000 4)]
     (s.obj 0x10010000).waiters = [waitsC (.rwaitf 0x10010000 4)] ∧ 4 ≤ sub32 (s.pub 0x10010000) (s.tkn 0x10010000) ∧
       s.findOid 0 = some (0, false) ∧ s.issuesOn 0 false = true ∧ sub32 (s.pub 0x10010000) (s.tkn 0x10010000) < 5) ∧
    (let s := waiting (ring 4) [waitsC (.rwaitf 0x10010000 5), waitsC (.rwaitf 0x10010000 1) .l]
     (s.obj 0x10010000).waiters = [waitsC (.rwaitf 0x10010000 5), waitsC (.rwaitf 0x10010000 1) .l] ∧
       sub32 (s.pub 0x10010000) (s.tkn 0x10010000) < 5) ∧
    (let s := waiting (mapped 25 [(0, 1), (4, 4)] []) [waitsC (.rwaite 0x10010000 4)]
     (s.obj 0x10010000).waiters = [waitsC (.rwaite 0x10010000 4)] ∧ 4 ≤ s.freeSlots 0x10010000 ∧ s.freeSlots 0x10010000 < 5 ∧
       s.findOid 0 = some (0, false) ∧ s.issuesOn 0 false = true) := by decide

/-- A group that has declared culvert 3, which holds some entries. -/
def receiving (l : List (List Byte)) (off : Nat) : State :=
  (at_ .c [(1, .ofNat 64 (0xFFFFFFFFF00000 + off))] { bankSet := 0x800000, culs := [0, 0, 0, 8] }).updCore 0 (fun c =>
    { c with cul := [(3, { size := 8, entries := l })] })
theorem witness_CulvertWordsReceive :
    let s := receiving [[7], [9]] 0xBFFC0
    s.Issues [.c, .l, .s] noGuard [3, 1] ∧ declares s.myCtx 3 = true ∧ s.me.ib = [] ∧ (Map.get {} (s.core 0).cul 3).entries = [7] :: [[9]] ∧
      inWindow 0xFFFFFFFFFBFFC0 = true ∧ bankFault s.myCtx.bankSet (0xFFFFFFFFFBFFC0 % 2 ^ 20) 64 = none ∧
      (Map.get {} ((receiving [] 0).core 0).cul 3).entries = [] ∧ s.lineUp s.myCtx = false ∧ declares s.myCtx 0 = false ∧
      Claims.faultReady s :=
  ⟨⟨by decide, by decide, by decide⟩, by decide, by decide, by decide, by decide, by decide, by decide, by decide, by decide,
    ⟨by decide, by decide⟩⟩

theorem witness_TransactionWordsSeeTheTransaction :
    let s := at_ .c [] { txn := some { id := 1, begin := 3, snap := 4, doomed := true } }
    s.Issues [.c] noGuard [] ∧ s.me.ib = [] ∧ s.myCtx.txn = some { id := 1, begin := 3, snap := 4, doomed := true } ∧
      (at_ .c).myCtx.txn = none ∧ Claims.faultReady (at_ .c) ∧ (at_ .l).Issues [.c, .l, .s] noGuard [1] ∧
      (∀ e ∈ (at_ .l [] { seqL := { ib := [{ op := .tide 1 }] } }).me.ib, isTxnOp e.op = false) :=
  ⟨⟨by decide, by decide, by decide⟩, by decide, by decide, by decide, ⟨by decide, by decide⟩, ⟨by decide, by decide, by decide⟩, by decide⟩

/-- An access at the head of L's issue buffer, over a page with these flags. -/
def access (op : IbOp) (flags : Nat := 1) : State :=
  { at_ .l [] { seqL := { ib := [{ op := op }] }, bankSet := 0x800001 } with mem := cells 0 flags [] }
/-- The TLBs and markers of L's accesses: none holds or awaits anything here. -/
def viaL (s : State) : Via := s.viaIb 0 false .l
theorem witness_AccessesPerformAtTheHead :
    (let s := access (.load .s8 5 0xFFFFFFFFFBFFFF)
     s.accessOn 0 = true ∧ (s.ctx 0 false).headFaulted .l = false ∧
       ((s.ctx 0 false).seq .l).ib = { op := .load .s8 5 0xFFFFFFFFFBFFFF } :: [] ∧
       (∀ r ∈ s.regions, r.2.st ≠ .aborting) ∧ inWindow 0xFFFFFFFFFBFFFF = true ∧ tyLd .s8 = true ∧
       bankFault (s.ctx 0 false).bankSet (0xFFFFFFFFFBFFFF % 2 ^ 20) 1 = none ∧ (s.core 0).spPoisoned (0xFFFFFFFFFBFFFF % 2 ^ 20) 1 = false) ∧
    bankFault 0x800001 (0xFFFFFFFFF00000 % 2 ^ 20) ([1, 2, 3, 4, 5, 6, 7, 8] : List Byte).length = none ∧
    (let s := access (.load .z32 5 0x40)
     s.accessOn 0 = true ∧ (s.ctx 0 false).headFaulted .l = false ∧ inWindow 0x40 = false ∧ tyLd .z32 = true ∧
       s.moving 0 0 0x40 ((s.ctx 0 false).seq .l).ib = false ∧
       s.bump.translate (viaL s) 0x40 .read = .ok { slot0 1 with pa := 0x10010040 } ∧ s.doorbellOf 0x10010040 = none ∧
       s.poisoned 0x10010040 = false ∧ (s.core 0).sb = [] ∧
       -- a store of eight bytes there covers the load, one of two bytes does not
       (0x10010040 ≤ 0x10010040 ∧ 0x10010040 + 4 ≤ 0x10010040 + ([1, 2, 3, 4, 5, 6, 7, 8] : List Byte).length) ∧
       ¬ (0x10010040 + 4 ≤ 0x10010040 + ([1, 2] : List Byte).length)) ∧
    (let s := access (.store 0xFFF8 [1, 2, 3, 4, 5, 6, 7, 8])
     s.accessOn 0 = true ∧ inWindow 0xFFF8 = false ∧ s.moving 0 0 0xFFF8 ((s.ctx 0 false).seq .l).ib = false ∧
       s.bump.translate (viaL s) 0xFFF8 .write = .ok { slot0 1 with pa := 0x1001FFF8 } ∧ (slot0 1).v = false ∧ (slot0 1).dem = false) ∧
    (let s := access (.store 0 [1]) 17
     s.bump.translate (viaL s) 0 .write = .error .pageProt ∧ (s.ctx 0 false).st = .running) ∧
    -- entries whose read a lost port has left unanswered
    (∀ op ∈ ([.load .z8 5 3, .qld 0 64, .acq 1 0, .sbind 0 16 3] : List IbOp),
      let e : IbEntry := { op := op, lost := true }
      let s := access op 9
      heldByMove e s 0 false .l = false ∧ (ibVa e.op).isSome = true ∧ (s.ctx 0 false).st = .running) :=
  ⟨by decide, by decide,
    ⟨by decide, by decide, by decide, by decide, by decide, ok_of (by decide), by decide, by decide, by decide, by decide, by decide⟩,
    ⟨by decide, by decide, by decide, ok_of (by decide), by decide, by decide⟩, ⟨error_of (by decide), by decide⟩, by decide⟩

/-- An access of L at the head, over a V page, with a chain of versions of its line, and group 1 on core 1. -/
def versioned (op : IbOp) (vs : List Version) (c r : Ctx := {}) : State :=
  { access op 5 with
    cores := [(0, { a := { c with st := .running, seqL := { ib := [{ op := op }] } } }), (1, { a := { r with oid := 1, st := .running } })]
    mem := cells 0 5 [], vers := if vs = [] then [] else [(0x10010000, vs)] }
theorem witness_VersionedPagesPerformAtTheHead :
    (let s := versioned (.load .z8 5 3) [{ tide := 2, data := [1, 2, 3, 4] }] { snap := 2 }
     s.accessOn 0 = true ∧ (s.ctx 0 false).headFaulted .l = false ∧ ((s.ctx 0 false).seq .l).ib = { op := .load .z8 5 3 } :: [] ∧
       (∀ r ∈ s.regions, r.2.st ≠ .aborting) ∧ inWindow 3 = false ∧ s.moving 0 0 3 ((s.ctx 0 false).seq .l).ib = false ∧
       s.bump.translate (viaL s) 3 .read = .ok { slot0 5 with pa := 0x10010003 } ∧ (slot0 5).v = true ∧ (slot0 5).dem = false ∧
       Claims.readsLine s (s.ctx 0 false) 0x10010000 [1, 2, 3, 4] false) ∧
    (let s := versioned (.store 3 [9]) []
     s.bump.translate (viaL s) 3 .write = .ok { slot0 5 with pa := 0x10010003 } ∧ s.chain 0x10010000 = [] ∧ (s.ctx 0 false).txn = none ∧
       s.poisoned 0x10010000 = false ∧ s.findOid 0 = some (0, false) ∧ s.findOid 1 = some (1, false) ∧
       (let s : State := { s with mem := (32, 1) :: s.mem }
        Map.get 0 s.pool 0 < s.ptField 0 32 8) ∧
       (charge s true (s.region 0).chain).toOption = some s) ∧
    (∀ v ∈ ([{ owner := some (.group 0) }] : List Version), v.owner = some (.group 0) ∧ v.poison = false) ∧
    ((versioned (.store 3 [9]) [] { txn := some { id := 1, begin := 0, snap := 0, doomed := true } }).ctx 0 false).txn =
      some { id := 1, begin := 0, snap := 0, doomed := true } ∧
    (let s := versioned (.store 3 [9]) [{ tide := 5 }] { snap := 4 }
     (s.ctx 0 false).pinned = false ∧ (∀ w ∈ s.chain 0x10010000, w.owner = none) ∧ ∃ v ∈ s.chain 0x10010000, (s.ctx 0 false).snap < v.tide) ∧
    (let s (a b : Bool) := versioned (.store 3 [9]) [{ owner := some (.group 1) }] { pinned := a, begin := 4 } { pinned := b, begin := 5 }
     ((s true true).chain 0x10010000).filter (fun w => w.owner.isSome) = [{ owner := some (.group 1) }] ∧
       ((s true true).ctx 0 false).pinned = true ∧ ((s true true).ctx 1 false).pinned = true ∧
       ((s false false).ctx 0 false).begin < ((s false false).ctx 1 false).begin ∧ (s true true).findOid 1 = some (1, false)) := by
  refine ⟨⟨by decide, by decide, by decide, by decide, by decide, by decide, ok_of (by decide), by decide, by decide, .inr ⟨by decide, .inl ?_⟩⟩,
    ⟨ok_of (by decide), by decide⟩, by decide, by decide, by decide, by decide⟩
  exact ⟨{ tide := 2, data := [1, 2, 3, 4] }, by decide,
    fun u h hn => absurd (List.mem_singleton.mp (show u ∈ [({ tide := 2, data := [1, 2, 3, 4] } : Version)] from h.1)) hn, by decide⟩

/-- A word of C at the head of its issue buffer, in a context with these fields. -/
def head (op : IbOp) (c : Ctx := {}) (f : Core → Core := id) : State :=
  (at_ .c [] { c with seqC := { ib := [{ op := op, no := 3 }] }, bankSet := 1 }).updCore 0 f
/-- C's only store stands in the store buffer. -/
def undrained (c : Core) : Core := { c with sb := [{ pa := 0, data := [1], st := .c }] }
theorem witness_QueuedWordsPerformAtTheHead :
    (∀ op ∈ ([.tide 1, .give 0 3, .push [14] 1, .spill 0 [1], .qld 0 0xFFFFFFFFF00000, .xbeg 1 true, .xend 2] : List IbOp),
      let s := head op
      s.accessOn 0 = true ∧ (s.ctx 0 false).headFaulted .c = false ∧ ((s.ctx 0 false).seq .c).ib = { op := op, no := 3 } :: [] ∧
        (∀ r ∈ s.regions, r.2.st ≠ .aborting) ∧ s.drained 0 false .c = true ∧ s.islandOn 5 = true ∧ (s.core 0).inflight < 64 ∧
        (s.ctx 0 false).txn = none) ∧
    (head (.xend 1) {} undrained).drained 0 false .c = false ∧ 64 ≤ ((head (.push [] 1) {} (fun c => { c with inflight := 64 })).core 0).inflight ∧
    ({ head (.push [] 1) with islands := [(5, { pst := 2 })] } : State).islandOn 5 = false ∧
    (head (.xend 1) { txn := some { id := 1, begin := 3, snap := 4, doomed := true } }).myCtx.txn =
      some { id := 1, begin := 3, snap := 4, doomed := true } ∧
    -- a give of one token finds room at 14 and none at 15, and waits for an earlier write of E
    (let s := head (.give 9 1) { tok := [(9, 15)], pend := [{ no := 2, due := 5 }] }
     15 < (s.ctx 0 false).tokens 9 + 1 ∧ (∃ p ∈ (s.ctx 0 false).pend, p.no < 3) ∧
       ¬ 15 < (head (.give 9 1) { tok := [(9, 14)] }).myCtx.tokens 9 + 1) ∧
    (let s := head (.qld 0 0xFFFFFFFFF00000) { leftL := [⟨0, 1, 2⟩], q := [(0, List.replicate 8 {})] }
     8 ≤ (Map.get [] s.myCtx.q 0).length ∧ bankFault s.myCtx.bankSet (0xFFFFFFFFF00000 % 2 ^ 20) 64 = none ∧
       (s.core 0).spPoisoned (0xFFFFFFFFF00000 % 2 ^ 20) 64 = false ∧ (∃ g ∈ s.myCtx.leftL, tagLater g [(0, 1, 3)] = true) ∧
       ¬ ((head (.qld 0 0)).myCtx.abortL = true ∨ ∃ g ∈ (head (.qld 0 0)).myCtx.leftL, tagLater g [] = true)) ∧
    (let s := access (.qld 7 64)
     s.moving 0 0 64 ((s.ctx 0 false).seq .l).ib = false ∧ s.bump.translate (viaL s) 64 .read = .ok { slot0 1 with pa := 0x10010040 } ∧
       s.doorbellOf 0x10010040 = none ∧ s.poisoned 0x10010040 = false ∧ (s.core 0).sb = []) ∧
    (let s := access (.qld 7 64) 5
     s.bump.translate (viaL s) 64 .read = .ok { slot0 5 with pa := 0x10010040 } ∧ (slot0 5).v = true ∧
       64 ≤ ((s.readBytes 0x10010000 128).drop 64).length ∧
       Claims.readsLine s (s.ctx 0 false) 0x10010000 (s.readBytes 0x10010000 128) false) := by
  refine ⟨by decide, by decide, by decide, by decide, by decide, by decide, by decide,
    ⟨by decide, ok_of (by decide), by decide⟩, ok_of (by decide), by decide, by decide, .inr ⟨by decide, .inr ⟨?_, rfl, by decide⟩⟩⟩
  exact fun u h => absurd h.1 (List.not_mem_nil (a := u))

/-- A word of L at the head of its issue buffer, over a slot with these bytes, and what the device keeps of the object. -/
def slotHead (op : IbOp) (bytes : List (Nat × Byte)) (o : ObjX := {}) (flags : Nat := 9) : State :=
  { at_ .l [] { seqL := { ib := [{ op := op }] } } with mem := cells 0 flags (frame bytes), objs := if o = {} then [] else [(0x10010000, o)] }
/-- The bytes of an idle ring of four slots, one claimed. -/
def claimed : List (Nat × Byte) := [(0, 1), (4, 4), (16, 1)]
theorem witness_ObjectWordsPerformAtTheHead :
    (∀ e ∈ ([(.rinit 1 0, [(0, 1)]), (.rclaim 1 0 4, [(0, 1), (4, 4)]), (.rpost 0 0, claimed), (.rfree 0 0, claimed),
        (.binit 1 0 4096 true, []), (.sync 1 0, []), (.acq 1 0, [(0, 3)]), (.rel 0, [(0, 2)]), (.sbind 0 64 3, [(0, 3)])] :
        List (IbOp × List (Nat × Byte))),
      let s := slotHead e.1 e.2
      s.accessOn 0 = true ∧ (s.ctx 0 false).headFaulted .l = false ∧ ((s.ctx 0 false).seq .l).ib = { op := e.1 } :: [] ∧
        (∀ r ∈ s.regions, r.2.st ≠ .aborting) ∧ heldByMove { op := e.1 } s 0 false .l = false ∧ s.drained 0 false .l = true ∧
        (s.ctx 0 false).st = .running ∧
        (Claims.namesSlot e.1).any (fun n => n.1 == 0 &&
          decide ((s.bump.objAt (viaL s) 0 n.2.1 n.2.2).toOption = some (slot0 9))) = true) ∧
    (slot0 9).dem = false ∧
    -- an object of another kind
    errorOf ((slotHead (.rel 0) []).bump.objAt (viaL (slotHead (.rel 0) [])) 0 .objWrite [1, 2, 3]) = some .pageType ∧
    ((slotHead (.rel 0) [(0, 3)]).updCore 0 (fun c => { c with sb := [{ pa := 0, data := [1], st := .l }] })).drained 0 false .l = false ∧
    (let u (bytes : List (Nat × Byte)) (o : ObjX := {}) : State := ((slotHead (.rinit 1 0) bytes o).bump).walked (viaL (slotHead (.rinit 1 0) bytes o)) 0 (slot0 9)
     (u [(0, 1)]).waitersOf 0x10010000 = 0 ∧ (u [(0, 1)]).clm 0x10010000 = (u [(0, 1)]).fre 0x10010000 ∧
       (u claimed).clm 0x10010000 ≠ (u claimed).fre 0x10010000 ∧
       (u claimed).slots 0x10010000 < 5 ∧ (u claimed).freeSlots 0x10010000 < 4 ∧ 4 ≤ (u claimed).slots 0x10010000 ∧
       3 ≤ (u claimed).freeSlots 0x10010000 ∧
       -- a claim of two that closes ahead of an open one, and one that no claim starts
       ((u claimed { claims := [(0, 2, false), (2, 1, false)] }).obj 0x10010000).claims = [] ++ (0, 2, false) :: [(2, 1, false)] ∧
       (∀ p ∈ ((u claimed { claims := [(0, 2, true), (2, 1, false)] }).obj 0x10010000).claims, p.1 = 0 → p.2.2 = true) ∧
       ((u claimed { takes := [(0, 2, true), (2, 1, false)] }).obj 0x10010000).takes = [(0, 2, true)] ++ (2, 1, false) :: [] ∧
       (u [(0, 2), (12, 1)]).kind 0x10010000 = 2 ∧ (u [(0, 2), (12, 1)]).waitersOf 0x10010000 ≠ 0 ∧
       (u []).kind 0x10010000 ≠ 1 ∧ (u []).kind 0x10010000 ≠ 2 ∧
       (u [(0, 3)]).readSpan (viaL (slotHead (.sbind 0 64 3) [(0, 3)])) 0 false 0xFFFFFFFFF00000 16 = (.fault .pageProt, 0xFFFFFFFFF00000)) ∧
    ((slotHead (.binit 1 0 1 true) [(0, 2)] { waiters := [waitsC (.bwait 0x10010000 6)], arrivals := [4] }).findOid 0 = some (0, false)) ∧
    (let s := { slotHead (.sbind 0 0xFFFFFFFFF00000 3) [(0, 3)] with cores := [(0, { a := { bankSet := 1, st := .running, seqL := { ib := [{ op := .sbind 0 0xFFFFFFFFF00000 3 }] } }, sp := [(13, 1)] })] }
     let u := (s.bump).walked (viaL s) 0 (slot0 9)
     let bytes : List Byte := List.replicate 13 0 ++ [1, 0, 0]
     u.readSpan (viaL s) 0 false 0xFFFFFFFFF00000 16 = (.data bytes, 0) ∧ leOf (bytes.drop 8) ≤ 2 ^ 40 ∧
       leOf (bytes.take 8) + leOf (bytes.drop 8) ≤ 2 ^ 56 ∧ 2 ^ 40 < leOf ([0, 0, 0, 0, 0, 1, 0, 0] : List Byte) + 1) :=
  ⟨by decide, by decide, by decide, by decide, by decide, by decide, by decide⟩

theorem witness_StoreBuffersDrainInOrder :
    let s : State := { cores := [(127, { sb := [{ pa := 0x10010000, data := [1] }, { pa := 0x10010000, data := [2] }] })] }
    (s.core 127).sb = { pa := 0x10010000, data := [1] } :: [{ pa := 0x10010000, data := [2] }] ∧ s.doorbellOf 0x10010000 = none ∧
      s.poisoned 0x10010000 = false ∧ s.paStopped 31 0x10010000 = false ∧
      ({ s with islands := [(192, { pst := 2 })] } : State).paStopped 31 0x10010000 = true := by decide

end Sys2Proof.Tests
end

