-- ==== Sys2Proof/Tests/WitnessArray.lean ====
section
/-! SUPPORT. Witnesses for the statements about vector and matrix words, the array, traps and banks. -/

open Sys2Proof Sys2Proof.Machine

namespace Sys2Proof.Tests

/-- The hypotheses under which a vector word has its own effect in a state. -/
def meets (s : State) (g : Guard) (regs : List XReg) (srcs : List WOp) (dst : Option WOp) (p : VPlan) : Prop :=
  s.Issues [.e] g regs ∧ emptySource s.myCtx (sourceQueues srcs) = none ∧ yFull s.myCtx dst = false ∧
    planFault s.myCtx s.me.rb.toNat p = none

/-- E with lane 0 alone active under m1. -/
def ve : State := at_ .e [] lane0
/-- Touching lane 0 of operands, each with its width. -/
def lane0Of (l : List (WOp × Nat × Bool)) : VPlan :=
  { touch := l.map (fun e => ⟨e.1, e.2.1, [0], e.2.2, false⟩), masks := [(1, [0])], res := {} }

/-- The other cases of every word that goes this way: an empty source queue, a full result queue, a fault, a false slot. -/
theorem witness_launches :
    emptySource ve.myCtx (sourceQueues [wo 1023 1, wo 2 1]) = some 7 ∧
    (let c : Ctx := { lane0 with q := [(0, [{ data := 1 }])], y := [(3, List.replicate 8 {})] }
     emptySource c (sourceQueues [wo 1016 1, wo 1016 1]) = none ∧ yFull c (some (wo 1019 1)) = true ∧ (at_ .e [] c).lineUp c = false) ∧
    planFault ve.myCtx ve.me.rb.toNat { touch := [⟨{ wo 767 3 with slc := 121 }, 8, [0], true, false⟩], res := {} } = some .wRange ∧
    planFault ve.myCtx ve.me.rb.toNat { touch := [⟨{ wo 767 3 with slc := 120 }, 8, [0], true, false⟩], res := {} } = none ∧
    planFault ve.myCtx ve.me.rb.toNat { touch := [⟨wo 1020 1, 2, [0], true, true⟩], res := {} } = some .queueMisuse ∧
    Claims.faultReady ve ∧ (later .e).FalseSlot [.e] ⟨1, 0⟩ ∧ emptySource (later .e).myCtx (sourceQueues [wo 1 1]) = none :=
  ⟨by decide, by decide, by decide, by decide, by decide, ⟨by decide, by decide⟩, ⟨by decide, by decide⟩, by decide⟩

theorem witness_LaneWordsComputeTheirLanes :
    meets ve g0 [] [wo 1 1, wo 2 1] (some (wo 0 1))
      { touch := [⟨wo 1 1, 2, Claims.lanesOn ve.myCtx 1 64, true, false⟩, ⟨wo 2 1, 2, Claims.lanesOn ve.myCtx 1 64, true, false⟩,
          ⟨wo 0 1, 2, Claims.lanesOn ve.myCtx 1 64, false, false⟩], masks := [(1, Claims.lanesOn ve.myCtx 1 64)], res := {} } :=
  ⟨⟨by decide, by decide, by decide⟩, by decide, by decide, by decide⟩

theorem witness_ConversionWordsConvertTheirLanes :
    meets ve g0 [] [wo 2 3] (some (wo 0 2)) (lane0Of [(wo 2 3, 8, true), (wo 0 2, 4, false)]) ∧
      meets ve g0 [] [wo 1 2, wo 2 3] (some (wo 0 0)) (lane0Of [(wo 1 2, 4, true), (wo 2 3, 8, true), (wo 0 0, 1, false)]) ∧
      tyFloat .s8 = false ∧ tyFloat .f = true ∧ packSrc .s4 = some .s8 ∧ packSrc .bf = some .f :=
  ⟨⟨⟨by decide, by decide, by decide⟩, by decide, by decide, by decide⟩, ⟨⟨by decide, by decide, by decide⟩, by decide, by decide, by decide⟩,
    by decide, by decide, by decide, by decide⟩

theorem witness_MaskWordsWriteTheirMask :
    meets ve g0 [] [wo 1 1, wo 2 1] none (lane0Of [(wo 1 1, 2, true), (wo 2 1, 2, true)]) ∧
      meets ve g0 [] [] none { touch := [], masks := [(1, List.range 128), (0, List.range 128)], res := {} } ∧
      meets ve g0 [] [] none { touch := [], masks := [(7, List.range 8)], res := {} } :=
  ⟨⟨⟨by decide, by decide, by decide⟩, by decide, by decide, by decide⟩, ⟨⟨by decide, by decide, by decide⟩, by decide, by decide, by decide⟩,
    ⟨⟨by decide, by decide, by decide⟩, by decide, by decide, by decide⟩⟩

theorem witness_MovingWordsPlaceTheirElements :
    meets ve g0 [] [wo 1 1, wo 2 1] (some (wo 0 1))
      { touch := [⟨wo 1 1, 2, List.range 64, true, false⟩, ⟨wo 2 1, 2, List.range 64, true, false⟩, ⟨wo 0 1, 2, List.range 64, false, false⟩],
        masks := [(1, List.range 64)], res := {} } ∧
      meets ve g0 [15] [] (some (wo 0 1)) (lane0Of [(wo 0 1, 2, false)]) ∧ (15 : XReg) ≠ 0 ∧
      meets ve g0 [0] [wo 1 1] (some (wo 0 1)) { touch := [⟨wo 1 1, 2, [63], true, false⟩], masks := [(1, [0])], res := {} } ∧
      meets ve g0 [] [wo 1 3, wo 2 3] (some (wo 766 3))
        { touch := [⟨wo 1 3, 8, List.range 16, true, false⟩, ⟨wo 766 3, 8, List.range 32, false, false⟩], masks := [], res := {} } :=
  ⟨⟨⟨by decide, by decide, by decide⟩, by decide, by decide, by decide⟩, ⟨⟨by decide, by decide, by decide⟩, by decide, by decide, by decide⟩,
    by decide, ⟨⟨by decide, by decide, by decide⟩, by decide, by decide, by decide⟩,
    ⟨⟨by decide, by decide, by decide⟩, by decide, by decide, by decide⟩⟩

theorem witness_ReductionsWriteElementZero :
    meets ve g0 [] [wo 1 1] (some (wo 0 1)) (lane0Of [(wo 1 1, 2, true), (wo 0 1, 2, false)]) ∧ tyInt .s8 = true ∧
      opw (wo 1 1) .s8 ≤ tyw .s8 ∧ tyFloat .h = true :=
  ⟨⟨⟨by decide, by decide, by decide⟩, by decide, by decide, by decide⟩, by decide, by decide, by decide⟩

theorem witness_AccumulatorWordsReachTheStore :
    meets ve g0 [15] [wo 1 3] (some (wo 0 3)) (lane0Of [(wo 0 3, 8, false)]) ∧
      planFault ve.myCtx ve.me.rb.toNat (lane0Of [(wo 1 3, 8, true)]) = none ∧ (∀ e ∈ ve.myCtx.order, isVaccwr e = false) ∧
      (ve.cluster 0).mxa.run = none ∧ (ve.cluster 0).acsPoison = [] ∧ (List.replicate 15 ({ op := .mrnd } : MEntry)).length < 16 ∧
      (let s := at_ .e [] { lane0 with order := List.replicate 16 { op := .mrnd } }
       16 ≤ s.myCtx.order.length ∧ s.lineUp s.myCtx = false) :=
  ⟨⟨⟨by decide, by decide, by decide⟩, by decide, by decide, by decide⟩, by decide, by decide, by decide, by decide, by decide, by decide⟩

/-- The last slice of the W file and the last byte of bank 23. -/
theorem witness_SpillAndFillMoveSlices :
    let s := at_ .e [] { lane0 with bankSet := 0x800000 }
    let sp : SpAddr := { bank := 23, off := 0x7FFF, xs := 0 }
    s.Issues [.e] noGuard [sp.xs] ∧ 767 * 128 + 127 + ((0 : BitVec 24).toNat + 1) ≤ 98304 ∧ 23 * 32768 + 0x7FFF + 1 ≤ 786432 ∧
      (∀ k, (23 * 32768 + 0x7FFF) / 32768 ≤ k → k ≤ (23 * 32768 + 0x7FFF + 1 - 1) / 32768 → s.myCtx.bankSet.getLsbD k = true) ∧
      (∀ q ∈ s.myCtx.wPoison, q < 98303 ∨ 98304 ≤ q) ∧ s.me.ib = [] ∧ (s.core 0).spPoisoned (23 * 32768 + 0x7FFF) 1 = false := by
  refine ⟨⟨by decide, by decide, by decide⟩, by decide, by decide, fun k h1 h2 => ?_, by decide, by decide, by decide⟩
  obtain rfl : k = 23 := by omega
  decide

theorem witness_BackwaterWordsKeepTheirRecords :
    let r : BackRec := { tag := 15, k := 1, width := 2, lane := 63, index := 33554431, elems := [100] }
    let s := at_ .e [] { lane0 with back := List.replicate 511 r }
    s.Issues [.e] noGuard [15] ∧ emptySource s.myCtx [] = none ∧ planFault s.myCtx s.me.rb.toNat (lane0Of [(wo 1 1, 2, true)]) = none ∧
      511 + (Claims.lanesOn ve.myCtx 1 64).length ≤ 512 ∧ s.Issues [.e] noGuard [] ∧
      (∀ x ∈ ([r].filter (fun r => r.tag == 15)).take 64, x.k = (0 : BitVec 5).toNat + 1 ∧ x.width = tyw .s8) ∧
      planFault s.myCtx s.me.rb.toNat { touch := [⟨wo 0 1, 2, [0], false, false⟩, ⟨wo 3 3, 8, [0], false, false⟩], res := {} } = none :=
  ⟨⟨by decide, by decide, by decide⟩, by decide, by decide, by decide, ⟨by decide, by decide, by decide⟩, by decide, by decide⟩

/-- A result that is due, between two that are not. -/
theorem witness_VectorResultsLand :
    let p (n d : Nat) : Landing := { no := n, due := d, masks := [(7, 1, 1)], y := some 3 }
    let s : State := { cores := [(127, { cyc := 9, a := { pend := [p 1 10, p 2 9, p 3 12] } })] }
    (s.core 127).frozen = false ∧ s.islandOn (coreIsland 127) = true ∧ s.inReset = false ∧
      (s.act 127).pend = [p 1 10] ++ p 2 9 :: [p 3 12] ∧ (p 2 9).due ≤ (s.core 127).cyc ∧
      (∀ x ∈ [p 1 10] ++ [p 3 12], (s.core 127).cyc < x.due ∧ x.no ≠ (p 2 9).no) := by decide

/-- E with an open lease, banks 0 and 23, and an order of some length. -/
def leased (n credit : Nat) (c : Ctx := {}) : State :=
  at_ .e [] { c with leaseOpen := true, bankSet := 0x800001, credit := credit, order := List.replicate n { op := .mrnd } }
set_option maxRecDepth 4000 in
theorem witness_MatrixWordsEnterTheOrder :
    (leased 15 31).Issues [.e] noGuard [] ∧ (leased 15 31).myCtx.leaseOpen = true ∧
      (leased 15 31).myCtx.bankSet.getLsbD (23 : BitVec 5).toNat = true ∧ (leased 15 31).myCtx.order.length < 16 ∧
      (leased 15 31).myCtx.credit < 32 ∧ ¬ ((leased 16 0).myCtx.order.length < 16 ∧ (leased 16 0).myCtx.credit < 32) ∧
      ¬ ((leased 0 32).myCtx.order.length < 16 ∧ (leased 0 32).myCtx.credit < 32) ∧ (leased 16 0).lineUp (leased 16 0).myCtx = false ∧
      ve.myCtx.leaseOpen = false ∧ Claims.faultReady ve ∧ ve.myCtx.mxOut = 0 ∧ (leased 0 0 { mxOut := 1 }).myCtx.mxOut ≠ 0 ∧
      mmaFault tile (leased 0 0).myCtx 0 = none ∧ mmaFault { tile with a := .w (wo 766 3 .c), mm1 := 0 } (leased 0 0).myCtx 0 = none ∧
      (later .e).FalseSlot [.e] ⟨1, 0⟩ := by
  refine ⟨⟨by decide, by decide, by decide⟩, by decide, by decide, by decide, by decide, by decide, by decide, by decide, by decide,
    ⟨by decide, by decide⟩, by decide, by decide, by decide, by decide, ⟨by decide, by decide⟩⟩

/-- Core 3 with one entry in its order, a lease, and a term of its cluster if it holds one. -/
def atHead (op : MOp) (l : Lease) (run : Option Run := none) : State :=
  { cores := [(3, { a := { st := .running, order := [{ op := op }], mxOut := 1, lease := l } })],
    clusters := [(0, { mxa := { holder := if l = .held then some 3 else none, run := run } })] }
/-- The array runs a word of core 3. -/
def running3 (op : MOp) (start rows : Nat := 0) : Run := { entry := { op := op }, core := 3, oid := 0, start := start, rows := rows }
theorem witness_OrderHeadsAct :
    (∀ op, (atHead op .closed).mxaOn (3 / 4) = true) ∧ (∀ op, (atHead op .closed).ordersOn 3 = true) ∧
      (∀ op, ((atHead op .closed).act 3).order = { op := op } :: []) ∧
    ((atHead .mlease .closed).act 3).lease = .closed ∧ ((atHead .mlease .parked).act 3).lease = .parked ∧
      ((atHead .mlease .held).act 3).lease = .held ∧ (atHead .mlease .held).runsWord 3 = false ∧
      (atHead .mlease .held (some (running3 (.mzero 1)))).runsWord 3 = true ∧ isCompute { op := .mzero 0 } = true ∧
      ((atHead (.vaccwr [(5, 7)]) .parked).cluster 0).mxa.run = none := by
  repeat' apply And.intro
  all_goals first | rfl | decide | exact fun _ => rfl

theorem witness_TermsGoRoundTheCluster :
    (let s := atHead (.mzero 0) .requested
     s.mxaOn 0 = true ∧ (s.cluster 0).mxa.holder = none ∧ (s.cluster 0).mxa.run = none ∧
       (∃ i, i < 4 ∧ s.wantsTerm (4 * 0 + ((s.cluster 0).mxa.last + 1 + i) % 4) = true) ∧
       (∀ i, i < 4 → (s.act (4 * 0 + ((s.cluster 0).mxa.last + 1 + i) % 4)).tier ≤ 3)) ∧
    (let c (l : Lease) : Core := { a := { st := .running, order := [{ op := .mzero 0 }], lease := l } }
     let s : State := { cores := [(2, c .held), (3, c .requested)], clusters := [(0, { mxa := { holder := some 2, idle := 64 } })] }
     (s.cluster 0).mxa.holder = some 2 ∧ 64 ≤ (s.cluster 0).mxa.idle ∧ s.otherWants 0 2 = true ∧ (s.act 2).lease = .held) := by
  refine ⟨⟨by decide, by decide, by decide, ⟨3, by decide, by decide⟩, by decide⟩, by decide⟩

theorem witness_ArrayStartsTheHeadWord :
    (let s := atHead (.mzero 0) .held
     s.mxaOn 0 = true ∧ (s.cluster 0).mxa.run = none ∧ (s.cluster 0).mxa.holder = some 3 ∧ s.ordersOn 3 = true ∧ (s.act 3).lease = .held ∧
       (s.act 3).order = { op := .mzero 0 } :: [] ∧ isCompute { op := .mzero 0 } = true ∧
       gapPassed (s.islandTime 4) (s.cluster 0).mxa.lastStart (s.cluster 0).paceM.gap = true ∧
       s.canPay (s.act 3).owner (.word 3 0) [{ cls := clsMxa, bytes := 128 * (occupies (.mzero 0)).getD 0 }] = true ∧
       s.bstoreOn 0 = true ∧ ({ s with islands := [(5, { pst := 2 })] } : State).bstoreOn 0 = false ∧
       isCompute { op := .mlatch .s4 true 2047 true } = true) ∧
    (let s : State := { atHead (.mzero 0) .held with
       owners := [(0, { st := .admitted, path := [{ cls := clsMxa, sigma := 0, rho := 0 }] })] }
     s.canPay (s.act 3).owner (.word 3 0) [{ cls := clsMxa, bytes := 128 * (occupies (.mzero 0)).getD 0 }] = false) := by
  repeat' apply And.intro
  all_goals first | rfl | decide | exact fun _ => rfl

theorem witness_TileStepsAccumulate :
    let op (a : ASrc) : MOp := .mma { tile with acc := true, a := a }
    let r (a : ASrc) (n : Nat) : Run := { running3 (op a) 0 n with oid := 9, aRows := List.replicate 128 (0, false, false) }
    let s (a : ASrc) (n : Nat) : State :=
      { cores := [(3, { a := { st := .running, oid := 9, mxOut := 1 } })], clusters := [(0, { mxa := { run := some (r a n), cyc := 149 } })] }
    (∀ a n, (s a n).mxaOn 0 = true ∧ ((s a n).cluster 0).mxa.run = some (r a n) ∧ (r a n).entry.op = op a ∧ (r a n).early = []) ∧
      tile.mm1.toNat = 127 ∧ (r tile.a 127).start + 21 + 127 ≤ 149 ∧ tile.tfill.toNat < 2 ^ (4 * tyw tile.ty) ∧
      (match tile.a with
        | .w _ => True
        | .sp _ => (r tile.a 127).aRows[127]? = some (0, false, false)) ∧
      (s tile.a 127).findOid 9 = some (3, false) ∧ occupies (op tile.a) = some 148 := by
  refine ⟨fun _ _ => ⟨rfl, rfl, rfl, rfl⟩, rfl, by decide, by decide, ?_, rfl, rfl⟩
  rfl

set_option maxRecDepth 4000 in
theorem witness_TheArrayReadsItsRows :
    let a : SpRows := { bank := 23, row := 255, step := 1 }
    let r : Run := { running3 (.mma { tile with a := .sp a }) 5 107 with aRows := List.replicate 127 (0, false, false) }
    let s : State := { clusters := [(0, { mxa := { run := some r, cyc := 132 } })] }
    s.mxaOn 0 = true ∧ (s.cluster 0).mxa.run = some r ∧ r.entry.op = .mma { tile with a := .sp a } ∧ r.aRows.length < tile.mm1.toNat + 1 ∧
      (s.cluster 0).mxa.cyc = r.start + r.aRows.length ∧ (rowDue (s.cluster 0).mxa).isNone = true ∧
      (wordDone (s.cluster 0).mxa).isNone = true := by
  exact ⟨rfl, rfl, rfl, by decide, rfl, by decide, by decide⟩

theorem witness_MatrixWordsComplete :
    let r (op : MOp) (given : Bool) : Run := { running3 op 0 128 with oid := 9, given := given }
    let s (op : MOp) (given : Bool) : State :=
      { cores := [(3, { a := { st := .running, oid := 9, mxOut := 1 } })],
        clusters := [(0, { mxa := { run := some (r op given), cyc := 148 } })] }
    (∀ op given, (s op given).mxaOn 0 = true ∧ ((s op given).cluster 0).mxa.run = some (r op given) ∧
      (s op given).findOid 9 = some (3, false) ∧ (r op given).early = [] ∧
      (∀ j a, ((s op given).ctx j a).oid = 9 → ((s op given).ctx j a).st ≠ .empty → j = 3 ∧ a = false)) ∧
    (∀ m : Mma, m.mm1.toNat + 1 ≤ 128) ∧
    (∀ e ∈ [(MOp.mma { tile with bld := true }, 148), (.mlatch .s8 true 0 false, 32), (.mzero 15, 8), (.mtcopy 0 15, 32),
        (.mtadd .s32 15 0, 32), (.mtadd .f 0 15, 32), (.mtscale 15 0xFFFF, 32),
        (.mtout .s8 15 16 { bank := 23, row := 255, step := 128 }, 24)],
      ∃ n, occupies e.1 = some n ∧ n ≤ 148) := by
  refine ⟨fun op given => ⟨rfl, rfl, rfl, rfl, ?_⟩, fun m => by omega, ?_⟩
  · intro j a h _
    by_cases hj : j = 3
    · subst hj
      cases a
      · exact ⟨rfl, rfl⟩
      · exact absurd (show (0 : Nat) = 9 from h) (by decide)
    · have hc : Map.get ({} : Core) [(3, { a := { st := .running, oid := 9, mxOut := 1 } })] j = {} := by
        simp [Map.get, Ne.symm hj]
      rw [State.ctx, State.core, hc] at h
      cases a <;> exact absurd (show (0 : Nat) = 9 from h) (by decide)
  · intro e he
    simp only [List.mem_cons, List.not_mem_nil, or_false] at he
    obtain rfl | rfl | rfl | rfl | rfl | rfl | rfl | rfl := he <;> exact ⟨_, rfl, by decide⟩

end Sys2Proof.Tests
end

