-- ==== Sys2Proof/Tests/WitnessEngine.lean ====
section
/-! SUPPORT. Witnesses for the statements about traps, banks, freezes and the commands of the copy engine. -/

open Sys2Proof Sys2Proof.Machine

namespace Sys2Proof.Tests

/-- A trap of a word of L. -/
def trapL : TrapReq := { cause := .poison, st := .l, wpc := 8, faddr := 64 }
/-- Core 127 with a context, bank A active, in a region with a fault queue of 16 records and this policy. -/
def core127 (c : Ctx) (tail policy : Nat := 0) (f : Core → Core := id) : State :=
  { cores := [(127, f { a := c })], regions := [(0, { st := .running, fqlog2 := 4, fqtail := tail, fq := 0x10020000, policy := policy })],
    mem := cells 0 1 [] }

theorem witness_WaitingTrapsDrainTheContext :
    let s := core127 { st := .running, traps := [trapL] }
    s.coreTakes 127 = true ∧ (s.act 127).st = .running ∧ (s.act 127).traps = trapL :: [] ∧
      ((s.act 127).seq .l).prog = 0 ∧ ((s.act 127).seq .l).held = .none ∧ ({ prog := 1 } : Seq).prog ≠ 0 := by decide

theorem witness_TrapsWriteTheirRecordAndStop :
    (let s := core127 { st := .draining, drain := some (.trap trapL) }
     s.coreTakes 127 = true ∧ s.clearReady 127 = true ∧ (s.ctx 127 (s.bank 127)).drain = some (.trap trapL) ∧ s.fqRoom (s.region 0) = true) ∧
    (let s := core127 { st := .draining, drain := some (.trap trapL) } 16
     s.coreTakes 127 = true ∧ s.clearReady 127 = true ∧ s.fqRoom (s.region 0) = false) ∧
    (let s := core127 { st := .draining, drain := some .debugStop }
     s.clearReady 127 = true ∧ (s.ctx 127 false).drain = some .debugStop) ∧
    (let s := core127 { st := .draining, drain := some .swap }
     s.clearReady 127 = true ∧ (s.ctx 127 false).drain = some .swap) ∧
    (let s := core127 { st := .draining, taken := some trapL }
     (s.ctx 127 false).st = .draining ∧ (s.ctx 127 false).taken = some trapL ∧ s.fqRoom (s.region 0) = true ∧
       (s.core 127).a.redirects = [] ∧ (s.core 127).b.redirects = []) := by
  repeat' apply And.intro
  all_goals decide

theorem witness_StoppedContextsFollowTheirPolicy :
    (∀ p, ((core127 { st := .stopped, taken := some trapL } 0 p).ctx 127 false).st = .stopped) ∧
    (∀ p, ((core127 { st := .stopped, taken := some trapL } 0 p).ctx 127 false).taken = some trapL) ∧
    (∀ p, ((core127 { st := .stopped, taken := some trapL } 0 p).ctx 127 false).notified = false) ∧
    (∀ p, ((core127 { st := .stopped, taken := some trapL } 0 p).region 0).policy = p) ∧
    chargeStands (core127 { st := .stopped, taken := some trapL } 0 1) { st := .stopped, taken := some trapL } trapL = true ∧
    (∃ (s : State) (c : Ctx) (t : TrapReq), chargeStands s c t = false) ∧
    127 / 32 < 4 ∧ (0x7F : BitVec 32).toNat % 128 = 127 ∧ (0x7F : BitVec 32).getLsbD 8 = false ∧ (0x1FF : BitVec 32).getLsbD 8 = true ∧
      127 / 32 ≠ 0 ∧ ((core127 {}).ctx 127 false).st ≠ .stopped := by
  refine ⟨fun _ => rfl, fun _ => rfl, fun _ => rfl, fun _ => rfl, by decide, ?_, by decide, by decide, by decide, by decide, by decide, by decide⟩
  exact ⟨{ mem := cells 0 3 [] }, {}, { cause := .quotaMem }, by decide⟩

theorem witness_SwapsExchangeTheBanks :
    (let s : State := { cores := [(127, { a := { st := .running, tier := 1 }, b := { st := .parked } })], mem := cells 0 1 [] }
     (s.act 127).st = .running ∧ s.coreTakes 127 = true ∧ s.swapCalled 127 = true) ∧
    (let s : State := { cores := [(127, { a := { st := .stopped, tier := 1 }, b := { st := .parked } })], mem := cells 0 1 [] }
     (s.act 127).st = .stopped ∧ s.coreTakes 127 = true ∧ s.swapCalled 127 = true) ∧
    (let s : State := { cores := [(127, { swapEnd := some 96, a := { st := .swapping, was := .stopped }, b := { st := .swapping } })], tick := 96 }
     (s.core 127).swapEnd = some 96 ∧ 96 ≤ s.tick ∧ (s.ctx 127 false).st = .swapping ∧ s.tick < 97) := by decide

theorem witness_FreezesAndHopsEnd :
    (({ cores := [(127, { frozen := true })] } : State).core 127).freezeLeft = 0 ∧
      (({ cores := [(127, { frozen := true, freezeLeft := 1 })] } : State).core 127).freezeLeft ≠ 0 ∧
      (({} : State).cluster 31).mxa.freezeLeft = 0 ∧ (({} : State).cluster 31).cpe.freezeLeft = 0 ∧
      (({ islands := [(7, { hop := some (5, 40) })] } : State).island 7).hop = some (5, 40) ∧ (({} : State).island 7).hop = none := by decide

/-- A command of core 0's group, which no core holds, with its record. -/
def cmdOf (words : List Word) : Cmd := { id := 1, words := words, oid := 0, started := true }

/-- Command 1 waits at the head of core 0's FIFO. -/
def queued (words : List Word) (cores : Map Core := []) : State :=
  { cmds := [(1, { id := 1, words := words, oid := 9 })], clusters := [(0, { cpe := { fifo := [(0, [.cmd 1])] } })], cores := cores }
/-- A flat copy from bank 0 to bank 1 of n bytes. -/
def banks (n : Word) : List Word := [1, 0xFFFFFFFFF00000, 0xFFFFFFFFF08000, n, 0, 0, 0, 0]
set_option maxRecDepth 4000 in
theorem witness_EnginesTakeTheNextCommand :
    (let c : Cmd := { id := 1, words := [7, 0, 6, 3, 0, 0, 0, 0], oid := 9 }
     Claims.takesNext (queued c.words) 0 c ∧ cmdOk c = true ∧ c.cw = false ∧ c.opc ∉ [1, 2, 3, 13, 14, 15]) ∧
    (let c : Cmd := { id := 1, words := [0x10A, 7, 16, 0, 0, 0, 0, 0], oid := 9 }
     c.opc = 10 ∧ Claims.header c 33 33 = 0) ∧
    (let c : Cmd := { id := 1, words := [1, 0, 16, 3, 0, 0, 0, 0], oid := 9 }
     Claims.takesNext (queued c.words) 0 c ∧ cmdOk c = true ∧ c.cw = false ∧ (inWindow (c.w 1) && inWindow (c.w 2)) = false) ∧
    (let c : Cmd := { id := 1, words := [0, 0, 0, 0, 0, 0, 0, 0], oid := 9 }
     let s := queued c.words [(0, { a := { st := .running, oid := 9 } })]
     Claims.takesNext s 0 c ∧ cmdOk c = false ∧ c.core / 4 = 0 ∧ c.cw = false ∧ c.killed = false ∧ s.findOid c.oid = some (0, false)) := by
  unfold Claims.takesNext
  exact ⟨by decide, by decide, by decide, by decide⟩

/-- The flat copy waits at the head of core 0's FIFO, between these formats. -/
def bankCopy (n : Word) : Cmd := { id := 1, words := banks n, oid := 9 }
def converting (n : Word) (bfmt : Map (BitVec 32)) : State :=
  queued (banks n) [(0, { a := { st := .running, oid := 9 }, bfmt := bfmt })]
theorem witness_a_copy_between_banks :
    Claims.takesNext (converting 2 []) 0 (bankCopy 2) ∧ Claims.takesNext (converting 2 [(0, 10), (1, 1)]) 0 (bankCopy 2) ∧
      Claims.takesNext (converting 3 [(0, 10), (1, 1)]) 0 (bankCopy 3) ∧ cmdOk (bankCopy 3) = true ∧
      (converting 3 []).findOid 9 = some (0, false) ∧ inWindow ((bankCopy 3).w 1) = true ∧ inWindow ((bankCopy 3).w 2) = true ∧
      Claims.bankType 10 .h ∧ 3 * 8 % (4 * tyw .h) ≠ 0 ∧ 2 * 8 % (4 * tyw .h) = 0 := by
  unfold Claims.takesNext
  exact ⟨by decide, by decide, by decide, by decide, by decide, by decide, by decide, ⟨_, rfl, rfl⟩, by decide, by decide⟩

/-- A fill whose completion word lies in a polder without pages. -/
def wordless : Cmd := { id := 1, words := [0x407, 0, 6, 3, 0, 0, 0, 0x2000000], oid := 9 }
theorem witness_a_completion_word_that_faults :
    let s := queued wordless.words [(0, { a := { st := .running, oid := 9 } })]
    Claims.takesNext s 0 wordless ∧ cmdOk wordless = true ∧ wordless.cw = true ∧ s.cwAddr wordless = .error .pageAbsent := by
  unfold Claims.takesNext
  exact ⟨by decide, by decide, by decide, error_of (by decide)⟩

theorem witness_StepsPayOrWait :
    (let s := command [7, 0, 6, 3, 0, 0, 0, 0] (cells 0 1 [])
     let c := cmdOf [7, 0, 6, 3, 0, 0, 0, 0]
     Map.find s.cmds 1 = some c ∧ s.cpeOn 0 = true ∧ 1 ∈ (s.cluster 0).cpe.run ∧ c.killed = false ∧ c.susp = false ∧ c.ending = .running ∧
       c.wait = none ∧ s.moves = [] ∧ (∀ v ∈ s.saved, v.ctx.oid ≠ c.oid) ∧
       s.bump.canPay c.owner (.cmd 1) (stepCharges s.bump c (stepPlan s.bump c).reads (stepPlan s.bump c).dests (stepPlan s.bump c).flit) = true ∧
       (let held (s : State) := coreStops s.bump c (stepPlan s.bump c) ||
          ((stepPlan s.bump c).reads ++ (stepPlan s.bump c).dests).any (rangeMoving s.bump c)
        held s = false ∧ held { s with moves := [(9, { polder := 0, va := 0, toT2 := true })] } = true)) ∧
    (let s : State := { command [7, 0, 6, 3, 0, 0, 0, 0] (cells 0 1 []) with
       owners := [(0, { st := .admitted, path := [{ cls := clsCpe, sigma := 0, rho := 0 }] })] }
     let c := cmdOf [7, 0, 6, 3, 0, 0, 0, 0]
     s.bump.canPay c.owner (.cmd 1) (stepCharges s.bump c (stepPlan s.bump c).reads (stepPlan s.bump c).dests (stepPlan s.bump c).flit) = false) ∧
    ({ cmdOf [] with killed := true } : Cmd).killed = true ∧
    (let d : Cmd := { id := 1, words := [13, 0, 0, 0, 0, 0, 0, 0], oid := 9 }
     pickTier (candidates (queued d.words) 0) = some d ∧ d.opc = 13) := by
  repeat' apply And.intro
  all_goals decide

/-- A started command that nothing holds. -/
theorem command_steps (words : List Word) (mem : List Host.Cell) : Claims.stepping (command words mem) 0 1 (cmdOf words) :=
  ⟨rfl, rfl, rfl, List.mem_cons_self, rfl, rfl, rfl, rfl, rfl, rfl, fun _ h => absurd h List.not_mem_nil, fun _ h => absurd h List.not_mem_nil⟩

theorem witness_CopiesStepLineByLine :
    (cmdOf [1, 0, 16, 3, 0, 0, 0, 0]).opc = 1 ∧ (cmdOf [2, 0, 16, 0x1000003, 0, 0, 0, 0]).opc = 2 ∧
      (cmdOf [3, 0, 16, 0x100001000003, 0, 0, 0, 0]).opc = 3 ∧ (cmdOf [1, 0, 16, 3, 0, 0, 0, 0]).converts = false ∧
      ({ cmdOf [1, 0, 16, 3, 0, 0, 0, 0] with fmt := (26, 1) } : Cmd).converts = true ∧ Claims.bankType 26 .h ∧ Claims.bankType 14 .z8 ∧
      (∃ b, cmdRead (command [] (cells 0 1 [])).bump (cmdOf [1, 0, 16, 3, 0, 0, 0, 0]) 0 3 = .ok b) ∧
      (∃ u, cmdWrite (cmdOf [1, 0, 16, 3, 0, 0, 0, 0]) 16 [1, 2, 3] (command [] (cells 0 1 [])).bump = .done u) ∧
      (∃ sub a, cmdRead (command [] []).bump (cmdOf [1, 0, 16, 3, 0, 0, 0, 0]) 0 3 = .error (sub, a)) := by
  refine ⟨by decide, by decide, by decide, by decide, by decide, ⟨_, rfl, rfl⟩, ⟨_, rfl, rfl⟩, ⟨_, rfl⟩, ⟨_, rfl⟩, ⟨_, _, rfl⟩⟩

theorem witness_FillRepeatsItsPattern :
    Claims.stepping (command [7, 0, 6, 3, 0, 0, 0, 0] (cells 0 1 [])) 0 1 (cmdOf [7, 0, 6, 3, 0, 0, 0, 0]) ∧
      (cmdOf [7, 0, 6, 3, 0, 0, 0, 0]).opc = 7 ∧
      ∃ u, cmdWrite (cmdOf [7, 0, 6, 3, 0, 0, 0, 0]) 6 [0, 0, 0] (command [7, 0, 6, 3, 0, 0, 0, 0] (cells 0 1 [])).bump = .done u :=
  ⟨command_steps _ _, by decide, _, rfl⟩

/-- Commands over polder 0's page 0, whose first bytes are these. -/
def stepsOn (words : List Word) (l : List (Nat × Byte) := []) (flags : Nat := 1) : State := command words (cells 0 flags (frame l))
/-- One element of a gather: header, SRC 0x100, DST 0x200, one element of 4 bytes, IDX 0, STRIDE 16. -/
def gather4 (flags : Word) : List Word := [4 + flags, 0x100, 0x200, 0x100000003, 0, 16, 0, 0]
/-- One element of a scatter. -/
def scatter4 : List Word := [5, 0x100, 0x200, 0x100000003, 0, 16, 0, 0]
/-- The last step's line as poisoned. -/
def poisoned (s : State) : State := { s with poison := [0x10010100] }
theorem witness_IndexedCommandsFollowTheirIndex :
    Claims.stepping (stepsOn (gather4 0) [(0, 1)]) 0 1 (cmdOf (gather4 0)) ∧ (cmdOf (gather4 0)).opc = 4 ∧ (cmdOf scatter4).opc = 5 ∧
      (∃ sub a, cmdRead (command (gather4 0) []).bump (cmdOf (gather4 0)) 0 4 = .error (sub, a)) ∧
      cmdRead (stepsOn (gather4 0) [(0, 1)]).bump (cmdOf (gather4 0)) 0 4 = .ok [1, 0, 0, 0] ∧
      2 ^ 56 ≤ 0x100 + leOf [1, 0, 0, 0] * 2 ^ 56 ∧ 0x100 + leOf [1, 0, 0, 0] * 16 < 2 ^ 56 ∧ Claims.header (cmdOf (gather4 0)) 33 33 = 0 ∧
      (∃ data, cmdReadAll (stepsOn (gather4 0) [(0, 1)]).bump (cmdOf (gather4 0)) (spanLines (0x110, 4)) = .ok (data, none)) ∧
      (∃ u, cmdWrite (cmdOf (gather4 0)) 0x200 [0, 0, 0, 0] (stepsOn (gather4 0) [(0, 1)]).bump = .done u) ∧
      (∃ data p, cmdReadAll (poisoned (stepsOn (gather4 0))).bump (cmdOf (gather4 0)) (spanLines (0x110, 4)) = .ok (data, some p)) ∧
      Claims.header (cmdOf (gather4 0)) 8 8 = 0 ∧ Claims.header (cmdOf (gather4 0x100)) 8 8 = 1 ∧ (cmdOf (gather4 0x100)).zeroed = false :=
  ⟨command_steps _ _, by decide, by decide, ⟨_, _, rfl⟩, rfl, by decide, by decide, by decide, ⟨_, rfl⟩, ⟨_, rfl⟩, ⟨_, _, rfl⟩,
    by decide, by decide, by decide⟩

/-- A gather into q7 of a group on core 0. -/
theorem witness_gather_into_a_queue :
    let q (n : Nat) : State := { stepsOn (gather4 0x1E00000000) with cores := [(0, { a := { st := .running, q := [(7, List.replicate n {})] } })] }
    Claims.header (cmdOf (gather4 0x1E00000000)) 33 33 = 1 ∧ Claims.header (cmdOf (gather4 0x1E00000000)) 36 34 = 7 ∧
      (q 7).findOid 0 = some (0, false) ∧ (∃ data, cmdReadAll (q 7).bump (cmdOf (gather4 0x1E00000000)) (spanLines (0x100, 64)) = .ok (data, none)) ∧
      ((q 7).ctx 0 false).abortL = false ∧ ((q 7).ctx 0 false).leftL = [] ∧ (Map.get [] ((q 7).ctx 0 false).q 7).length < 8 ∧
      8 ≤ (Map.get [] ((q 8).ctx 0 false).q 7).length :=
  ⟨by decide, by decide, by decide, ⟨_, rfl⟩, by decide, by decide, by decide, by decide⟩

/-- An accum of one element: an add, a compare-and-swap (operation 9), with an old value kept for RET. -/
theorem witness_AccumReadsAndWritesInOneStep :
    let c := cmdOf [0x906000000, 0, 16, 1, 0, 32, 0, 0]
    let a := cmdOf [6, 0, 16, 1, 48, 0, 0, 0]
    Claims.stepping (stepsOn [6, 0, 16, 1, 48, 0, 0, 0]) 0 1 a ∧ a.opc = 6 ∧ a.hold = none ∧ Claims.header a 37 36 ≠ 2 ∧
      Claims.header c 35 32 = 9 ∧ cmdRead (stepsOn []).bump a 0 4 = .ok [0, 0, 0, 0] ∧ cmdRead (stepsOn []).bump a 16 4 = .ok [0, 0, 0, 0] ∧
      cmdRead (stepsOn []).bump c 32 4 = .ok [0, 0, 0, 0] ∧ (∃ u, cmdWrite a 16 [0, 0, 0, 0] (stepsOn []).bump = .done u) ∧
      ({ a with hold := some 5 } : Cmd).hold = some 5 ∧ (∃ u, cmdWrite { a with hold := some 5 } 48 [5, 0, 0, 0] (stepsOn []).bump = .done u) :=
  ⟨command_steps _ _, by decide, by decide, by decide, by decide, rfl, rfl, rfl, ⟨_, rfl⟩, by decide, ⟨_, rfl⟩⟩

/-- A port of polder 0 in a state, with some credit. -/
def withPort (s : State) (d : Nat) (st : PortState) (credit : Nat) : State := { s with ports := [(d, { st := st, credit := credit })] }
/-- A coll of 4 bytes over port 15, with an add at RSIG. -/
def coll4 : List Word := [0xF00000008, 0, 0x200, 4, 0x300, 1, 0, 0]
/-- A signal through entry 0 of the link remap table, at offset 16. -/
def signal16 : List Word := [0x20000000A, 7, 16, 0, 0, 0, 0, 0]
/-- The table at 0x10020000: port 15, base 0x1000, present; length 0x100. -/
def remapped : State :=
  { command signal16 [(0x10020001, 0x10), (0x10020007, 0x1F), (0x10020009, 1)] with lrtbase := 0x10020000 }
theorem witness_SendingCommandsReachTheirTarget :
    (cmdOf coll4).opc = 8 ∧ Claims.header (cmdOf coll4) 36 36 = 0 ∧ (cmdOf coll4).off < (cmdOf coll4).w 3 ∧
      (∃ data, cmdRead (stepsOn coll4).bump (cmdOf coll4) 0 4 = .ok data) ∧
      ((withPort (stepsOn coll4) 15 .up 1).port 15).st = .up ∧ ((withPort (stepsOn coll4) 15 .up 0).port 15).credit = 0 ∧
      ((withPort (stepsOn coll4) 15 .up 1).port 15).credit ≠ 0 ∧ ((withPort (stepsOn coll4) 15 .up 1).port 15).pol.toNat = (cmdOf coll4).polder ∧
      ((withPort (stepsOn coll4) 15 .off 1).port 15).st ≠ .up ∧ (cmdOf coll4).w 3 ≤ ({ cmdOf coll4 with off := 4 } : Cmd).off ∧
      (cmdOf [10, 7, 16, 0, 0, 0, 0, 0]).opc = 10 ∧ Claims.header (cmdOf [10, 7, 16, 0, 0, 0, 0, 0]) 33 33 = 0 ∧
      Claims.header (cmdOf [10, 7, 16, 0, 0, 0, 0, 0]) 32 32 = 0 ∧ Claims.header (cmdOf [0x10000000A, 7, 16, 0, 0, 0, 0, 0]) 32 32 = 1 ∧
      (∃ u, cmdWrite (cmdOf []) 16 (leBytes 8 7) (stepsOn []).bump = .done u) ∧ (∃ old, cmdRead (stepsOn []).bump (cmdOf []) 16 8 = .ok old) ∧
      Claims.header (cmdOf signal16) 33 33 = 1 ∧
      ({ cmdOf signal16 with link := some (15, 0x1010) } : Cmd).link = some (15, 0x1010) ∧ (remapped.readLE 0x10020000 8).testBit 61 = false ∧
      (remapped.readLE 0x10020000 8).testBit 60 = true ∧ remapped.readLE 0x10020008 8 / 2 ^ 40 % 16 = (cmdOf signal16).polder ∧
      (cmdOf signal16).w 2 % 8 = 0 ∧ (cmdOf signal16).w 2 + 8 ≤ remapped.readLE 0x10020008 8 % 2 ^ 40 :=
  ⟨by decide, by decide, by decide, ⟨_, rfl⟩, by decide, by decide, by decide, by decide, by decide, by decide, by decide, by decide, by decide,
    by decide, ⟨_, rfl⟩, ⟨_, rfl⟩, by decide, by decide, by decide, by decide, by decide, by decide, by decide⟩

/-- A culvert command of 2 entries to culvert 3 of core 1, with room and without. -/
def culvert2 (flags : Word) : List Word := [0x3000100000009 + flags, 0, 0, 2, 0, 0, 0, 0]
/-- Its group stands on core 0; core 1 of the same region holds the culvert. -/
def culverts (held : Nat) : State :=
  { stepsOn (culvert2 0) with
    cores := [(0, { a := { st := .running, culs := [0, 0, 0, 8] } }), (1, { a := { st := .running, oid := 5, lcore := 1, culs := [0, 0, 0, 8] }, cul := [(3, { size := 8, entries := List.replicate held [] })] })],
    regions := [(0, { st := .running, remap := [(0, 0), (1, 2)] })] }
theorem witness_culvert_commands :
    (cmdOf (culvert2 0)).opc = 9 ∧ culvertAt (culverts 6).bump (cmdOf (culvert2 0)) = .ok (1, false) ∧
      (let cv : Culvert := Map.get {} ((culverts 6).core 1).cul (Claims.header (cmdOf (culvert2 0)) 49 48)
       cv.entries.length + (cmdOf (culvert2 0)).w 3 ≤ cv.size) ∧
      (∃ data, cmdRead (culverts 6).bump (cmdOf (culvert2 0)) 0 (64 * 2) = .ok data) ∧
      (let cv : Culvert := Map.get {} ((culverts 7).core 1).cul (Claims.header (cmdOf (culvert2 0)) 49 48)
       cv.size < cv.entries.length + (cmdOf (culvert2 0)).w 3) ∧ Claims.header (cmdOf (culvert2 0x4000000000000)) 50 50 = 1 :=
  ⟨by decide, ok_of (by decide), by decide, ⟨_, rfl⟩, by decide, by decide⟩

end Sys2Proof.Tests
end

