-- ==== Sys2Proof/Tests/WitnessLaunch.lean ====
section
/-! SUPPORT. A launch that is accepted, checked by parts, for the witnesses of launches. -/

open Sys2Proof Sys2Proof.Machine

namespace Sys2Proof.Tests

/-- Polder 0 holds cluster 0. Page 0 holds its tables, one table serving every level, and from 0x4000 the chain of a region,
an owner, a polder and a root; page 1 holds the region's guest part with one stage. -/
def chained (region : Byte := 4) : List Host.Cell :=
  [(4, 1), (19, 0x10), (0x10000000, 1), (0x10000003, 0x10), (0x10000008, 1), (0x1000000A, 1), (0x1000000B, 0x10),
   (0x10004000, region), (0x10004001, 1), (0x10004008, 0x80), (0x10004009, 0x40), (0x1000400B, 0x10), (0x10004012, 1),
   (0x10004080, 3), (0x10004089, 0x41), (0x1000408B, 0x10),
   (0x10004100, 2), (0x10004108, 0x80), (0x10004109, 0x41), (0x1000410B, 0x10),
   (0x10004180, 1), (0x10004183, 1), (0x10004184, 1), (0x100041A8, 1),
   (0x10010002, 1), (0x10010003, 2), (0x10010008, 0x80), (0x1001000A, 1), (0x10010081, 1), (0x10010082, 1)]
/-- A launch of that region. -/
def launchWords : List Word := [14, 0x4000, 0, 1, 0, 0, 0, 0]
/-- The command of the launch. -/
def launchCmd : Cmd := { id := 1, words := launchWords, oid := 0 }
/-- It waits at the head of core 0's FIFO; the operator that launches the region is in FEP 0's shadow bank. -/
def launching : State :=
  { mem := chained, cmds := [(1, launchCmd)], clusters := [(0, { cpe := { fifo := [(0, [.cmd 1])] } })],
    cores := [(0, { a := { st := .running } })],
    feps := [(0, { shadow := some { queue := 5, go := true, rcb := some 0x4000, ng := some 1 } })],
    terps := [(0, { cache := [(5, { st := .active })] })] }
/-- As its engine starts it. -/
def launched : State := Claims.starting launching 0 launchCmd
def launchReq (device : Bool) (queue fep : Option Nat) : LaunchReq :=
  { polder := 0, owner := 0, tier := 0, rcb := 0x4000, arg := 0, ng := 1, device := device, terp := 0, queue := queue, fep := fep }
theorem chain_is_valid : chainFrom launched 0x10004000 = some [0x10004000, 0x10004080, 0x10004100, 0x10004180] := by decide +kernel
/-- Page 1 of polder 0 lies at 0x10010000. -/
theorem page1 (va : Nat) (h : va / 65536 = 1) : launched.feAddr 0 va = some (0x10010000 + va % 65536) := by
  have h0 : va < 2 ^ 56 := by omega
  have hb : bitsOf va 55 46 = 0 ∧ bitsOf va 45 36 = 0 ∧ bitsOf va 35 26 = 0 ∧ bitsOf va 25 16 = 1 := by
    simp only [bitsOf]; omega
  have hl : launched.leafAddr 0 va = some 0x10000008 := by
    have he : launched.readLE 0x10000000 8 = 0x10000001 := by decide +kernel
    have hr : launched.root 0 = 0x10000000 := by decide +kernel
    have hk : tableEntryOk launched 0x10000001 = true := by decide +kernel
    have hz : bitsOf 0x10000001 47 13 * 8192 = 0x10000000 := by decide +kernel
    simp only [State.leafAddr, h0, if_true, walkFrom, hb, hr, Nat.mul_zero, Nat.add_zero, he, hk, hz]
  have hv : launched.readLE 0x10000008 8 = 0x10010001 := by decide +kernel
  have ho : (leafOk launched 0x10010001 && !leafBit 0x10010001 1) = true := by decide +kernel
  have hp : leafPa 0x10010001 va = 0x10010000 + va % 65536 := by
    have : leafBit 0x10010001 6 = false := by decide +kernel
    have h2 : bitsOf 0x10010001 47 16 * 65536 = 0x10010000 := by decide +kernel
    simp only [leafPa, this, h2]; rfl
  have hq : leafPolder 0x10010001 = 0 := by decide +kernel
  simp [State.feAddr, hl, hv, ho, hp, hq]
theorem feRead1 (va n : Nat) (h : va / 65536 = 1) : launched.feRead 0 va n = launched.readLE (0x10010000 + va % 65536) n := by
  have hd : launched.qdbase = 0 := by decide +kernel
  simp [State.feRead, page1 va h, State.plainBytes, State.doorbellOf, hd, State.readLE]
theorem feZero1 (va n : Nat) (h : va / 65536 = 1) (hn : va % 65536 + n ≤ 65536)
    (hz : (List.range n).all (fun i => decide (launched.readLE (0x10010000 + (va % 65536 + i)) 1 = 0)) = true) :
    feZero launched 0 va n = true := by
  rw [feZero, List.all_eq_true] at *
  intro i hi
  have := List.mem_range.1 hi
  rw [feRead1 _ _ (by omega), show (va + i) % 65536 = va % 65536 + i by omega]
  exact hz i hi
theorem guest_is_valid : guestOk launched 0 0x10000 0x10004000 = true := by
  have hz (o n : Nat) (h : o + n ≤ 128) (hn : (List.range n).all (fun i => decide (launched.readLE (0x10010000 + (o + i)) 1 = 0)) = true) :
      feZero launched 0 (0x10000 + o) n = true := by
    have : (0x10000 + o) % 65536 = o := by omega
    exact feZero1 _ _ (by omega) (by omega) (by rw [this]; exact hn)
  have h4 := hz 4 4 (by decide) (by decide +kernel)
  have h28 := hz 28 4 (by decide) (by decide +kernel)
  have h80 := hz 80 48 (by decide) (by decide +kernel)
  simp (disch := decide) only [guestOk, h4, h28, h80, feReaches, page1, feRead1]
  decide +kernel
theorem gdesc_is_valid : gdescOk launched 0 0x10100 = true := by
  have hz (o n : Nat) (h : o + n ≤ 160) (hn : (List.range n).all (fun i => decide (launched.readLE (0x10010000 + (0x100 + o + i)) 1 = 0)) = true) :
      feZero launched 0 (0x10100 + o) n = true := by
    have : (0x10100 + o) % 65536 = 0x100 + o := by omega
    exact feZero1 _ _ (by omega) (by omega) (by rw [this]; exact hn)
  have hr (i n : Nat) (h : i < 160) : launched.feRead 0 (0x10100 + i) n = launched.readLE (0x10010100 + i) n := by
    rw [feRead1 _ _ (by omega), show 0x10010000 + (0x10100 + i) % 65536 = 0x10010100 + i by omega]
  have h37 := hz 37 1 (by decide) (by decide +kernel)
  have h42 := hz 42 6 (by decide) (by decide +kernel)
  have h144 := hz 144 16 (by decide) (by decide +kernel)
  have hn : launched.feRead 0 (0x10100 + 36) 1 = 0 := by rw [hr _ _ (by decide)]; decide +kernel
  have ha (n : Nat) (f g : Nat → Bool) (h : (List.range n).all f = true) (hg : ∀ i < n, g i = f i) :
      (List.range n).all g = true := by
    rw [List.all_eq_true] at *
    exact fun i hi => (hg i (List.mem_range.1 hi)).trans (h i hi)
  have h1 : (List.range 4).all (fun i => decide (launched.feRead 0 (0x10100 + 8 * i) 8 % 4 = 0)
      && decide (launched.feRead 0 (0x10100 + 8 * i) 8 < 2 ^ 56)) = true :=
    ha _ (fun i => decide (launched.readLE (0x10010100 + 8 * i) 8 % 4 = 0) && decide (launched.readLE (0x10010100 + 8 * i) 8 < 2 ^ 56)) _
      (by decide +kernel) (fun i h => by simp only [hr (8 * i) 8 (by omega)])
  have h2 : (List.range 4).all (fun i => decide (launched.feRead 0 (0x10100 + 38 + i) 1 ≤ 16)) = true :=
    ha _ (fun i => decide (launched.readLE (0x10010100 + (38 + i)) 1 ≤ 16)) _
      (by decide +kernel) (fun i h => by simp only [Nat.add_assoc, hr (38 + i) 1 (by omega)])
  have h3 : (List.range 24).all (fun i => decide (launched.feRead 0 (0x10100 + 48 + i) 1 < 32)) = true :=
    ha _ (fun i => decide (launched.readLE (0x10010100 + (48 + i)) 1 < 32)) _
      (by decide +kernel) (fun i h => by simp only [Nat.add_assoc, hr (48 + i) 1 (by omega)])
  have h4 : (List.range 8).all (fun i => feZero launched 0 (0x10100 + 72 + 8 * i) 8) = true := by
    rw [List.all_eq_true]
    intro i hi
    have := List.mem_range.1 hi
    rw [show 0x10100 + 72 + 8 * i = 0x10100 + (72 + 8 * i) by omega]
    refine hz _ _ (by omega) ?_
    have : (List.range 8).all (fun i => (List.range 8).all (fun j => decide (launched.readLE (0x10010000 + (0x100 + (72 + 8 * i) + j)) 1 = 0))) = true := by
      decide +kernel
    exact List.all_eq_true.1 this i hi
  have h5 : feReaches launched 0 0x10100 160 = true := by
    rw [feReaches, page1 _ (by omega), page1 _ (by omega)]; rfl
  simp only [gdescOk, hn, h37, h42, h144, h1, h2, h3, h4, h5, hr 32 4 (by omega), hr 136 8 (by omega), Nat.not_lt_zero, if_false]
  decide +kernel
theorem stage_is_valid : stagesOk launched 0 0x10080 1 [stageAt launched 0 0x10080 1 1 0] = true := by
  have h1 : (stageAt launched 0 0x10080 1 1 0).gdesc = 0x10100 := by decide +kernel
  have h2 : (stageAt launched 0 0x10080 1 1 0).minc = 0 := by decide +kernel
  have h3 : (stageAt launched 0 0x10080 1 1 0).maxc = 1 := by decide +kernel
  have h5 : feReaches launched 0 0x10080 32 = true := by
    rw [feReaches, page1 _ (by omega), page1 _ (by omega)]; rfl
  simp [stagesOk, h1, h2, h3, h5, gdesc_is_valid]
theorem launch_is_accepted (device : Bool) (queue fep : Option Nat) :
    ∃ rk r, launchCheck launched (launchReq device queue fep) = .ok (rk, r) := by
  suffices h : errorOf (launchCheck launched (launchReq device queue fep)) = none by
    match hc : launchCheck launched (launchReq device queue fep), h with
    | .ok (rk, r), _ => exact ⟨rk, r, rfl⟩
  have h1 : launched.feAddr 0 0x4000 = some 0x10004000 := by decide +kernel
  have h2 : nodeGuest launched 0x10004000 = 0x10000 := by decide +kernel
  have h3 : effective (nodeMaxc launched) 0 [0x10004000, 0x10004080, 0x10004100, 0x10004180] = 1 := by decide +kernel
  have h4 : launched.feRead 0 (0x10000 + 2) 1 = 1 := by decide +kernel
  have h5 : launched.feRead 0 (0x10000 + 8) 8 = 0x10080 := by decide +kernel
  have h6 : nodeId launched 0x10004100 = 0 := by decide +kernel
  have h7 : nodeId launched 0x10004080 = 0 := by decide +kernel
  have h8 : launched.readLE (0x10004000 + 1) 1 = 1 := by decide +kernel
  have h9 : (launched.region 0x10004000).st = .free := by decide +kernel
  have h10 : launched.holdsTerp 0 0 = true := by decide +kernel
  have hl : (List.range 1).map (stageAt launched 0 0x10080 1 1) = [stageAt launched 0 0x10080 1 1 0] := rfl
  simp only [launchCheck, launchReq, h1, chain_is_valid, h2, h3, h4, h5, hl, guest_is_valid, stage_is_valid, List.getD_cons_succ,
    List.getD_cons_zero, h6, h7, h8, h9, h10]
  cases device <;> rfl
theorem of_check {s : State} {q : LaunchReq} (h : ∃ rk r, launchCheck s q = .ok (rk, r)) : ∃ n u, s.launch q = .ok (n, u) := by
  obtain ⟨rk, r, h⟩ := h
  unfold State.launch
  rw [h]
  exact ⟨_, _, rfl⟩

end Sys2Proof.Tests
end

