-- ==== Sys2Proof/Tests/WitnessQueues.lean ====
section
/-! SUPPORT. Witnesses for the statements about page and front-end commands, a command's end, launches, queues, notices and the
words of a front-end processor. -/

open Sys2Proof Sys2Proof.Machine

namespace Sys2Proof.Tests

/-- A t2pf and a migrate of page 0. -/
def t2pf0 : List Word := [11, 0, 0, 1, 0, 0, 0, 0]
/-- To tier 2. -/
def migrate0 : List Word := [0x10000000C, 0, 0, 1, 0, 0, 0, 0]
theorem witness_PageAndFrontEndCommandsStep :
    Claims.stepping (stepsOn t2pf0) 0 1 (cmdOf t2pf0) ∧ (cmdOf t2pf0).opc = 11 ∧ (cmdOf migrate0).opc = 12 ∧
      Claims.header (cmdOf migrate0) 32 32 = 1 ∧ (command t2pf0 []).leafAddr 0 0 = none ∧ (stepsOn t2pf0).leafAddr 0 0 = some 0x10006000 ∧
      (let s := stepsOn t2pf0; leafOk s (s.readLE 0x10006000 8) = true ∧ leafPolder (s.readLE 0x10006000 8) = (cmdOf t2pf0).polder ∧
        inDram (leafPa (s.readLE 0x10006000 8) 0) = !false) ∧
      (let s := stepsOn migrate0 [] 33; leafOk s (s.readLE 0x10006000 8) = true ∧ leafBit (s.readLE 0x10006000 8) 5 = true ∧
        leafBit (s.readLE 0x10006000 8) 6 = false ∧ leafBit (s.readLE 0x10006000 8) 1 = false ∧
        inDram (leafPa (s.readLE 0x10006000 8) 0) = true) ∧
      Map.get [] ({ stepsOn migrate0 with frames := [(1, [0x10000000000])] } : State).frames ((cmdOf migrate0).polder * 2 + 1) ≠ [] :=
  ⟨command_steps _ _, by decide, by decide, by decide, by decide, by decide, ⟨by decide, by decide, by decide⟩,
    ⟨by decide, by decide, by decide, by decide, by decide⟩, by decide⟩

/-- A command in group oid 0, as its engine takes it. -/
def fresh (words : List Word) : Cmd := { id := 1, words := words, oid := 0 }
/-- It waits at the head of core 0's FIFO, and its group stands there. -/
def waitsFirst (words : List Word) (mem : List Host.Cell := []) : State :=
  { mem := mem, cmds := [(1, fresh words)], clusters := [(0, { cpe := { fifo := [(0, [.cmd 1])] } })],
    cores := [(0, { a := { st := .running } })] }
/-- The table of `remapped` with a presence byte. -/
def remaps (present : Byte) : State :=
  { waitsFirst signal16 [(0x10020001, 0x10), (0x10020007, present), (0x10020009, 1)] with lrtbase := 0x10020000 }
theorem witness_linked_signals_and_invals :
    (Claims.takesNext (remaps 0x1F) 0 (fresh signal16) ∧ cmdOk (fresh signal16) = true ∧ (fresh signal16).cw = false ∧
      (fresh signal16).opc = 10 ∧ Claims.header (fresh signal16) 33 33 = 1 ∧ ((remaps 0x1F).readLE 0x10020000 8).testBit 60 = true ∧
      (remaps 0x1F).readLE 0x10020008 8 / 2 ^ 40 % 16 = 0 ∧ (fresh signal16).w 2 + 8 ≤ (remaps 0x1F).readLE 0x10020008 8 % 2 ^ 40) ∧
    (Claims.takesNext (remaps 0x0F) 0 (fresh signal16) ∧ ((remaps 0x0F).readLE 0x10020000 8).testBit 60 = false) ∧
    (let c := fresh [13, 0, 0, 1, 0, 0, 0, 0]
     Claims.takesNext (waitsFirst c.words [(1, 2)]) 0 c ∧ cmdOk c = true ∧ c.opc = 13 ∧
       ((waitsFirst c.words [(1, 2)]).readLE (c.group.region + 1) 1).testBit 1 = true ∧ Claims.takesNext (waitsFirst c.words) 0 c ∧
       ((waitsFirst c.words).readLE (c.group.region + 1) 1).testBit 1 = false) ∧
    (let s : State := { command [13] [] with invals := [(9, { cmd := some 1 })] }
     Map.find s.invals 9 = some { cmd := some 1, old := [] } ∧ Map.find s.cmds 1 = some (cmdOf [13]) ∧ s.markersDone 9 = true) ∧
    ({ clusters := [(0, { cpe := { fifo := [(0, [.cmd 1, .marker 9])] } })] } : State).markersDone 9 = false := by
  unfold Claims.takesNext
  exact ⟨by decide, by decide, by decide, ⟨rfl, rfl, by decide⟩, by decide⟩

/-- An owner command with one curve, its result at 0x400. -/
def owner1 (mem : List (Nat × Byte)) : State := waitsFirst [15, 0, 0, 0x400, 0, 0, 0, 0] (cells 0 1 (frame mem))
theorem witness_owner_commands :
    let c := fresh [15, 0, 0, 0x400, 0, 0, 0, 0]
    let w (mem : List (Nat × Byte)) := walkReads (Claims.begun c) [(0, 16)] (Claims.starting (owner1 mem) 0 c)
    (Claims.takesNext (owner1 []) 0 c ∧ cmdOk c = true ∧ c.cw = false ∧ c.opc = 15 ∧ Claims.header c 45 42 + 1 = 1) ∧
      (∃ data, cmdRead (w []) (Claims.begun c) 0 16 = .ok data ∧ ((List.range 1).filterMap (curveAt data)).length = 1) ∧
      (∃ data, cmdRead (w [(0, 5)]) (Claims.begun c) 0 16 = .ok data ∧ ((List.range 1).filterMap (curveAt data)).length ≠ 1) ∧
      resultFault (w []) (Claims.begun c) = none := by
  unfold Claims.takesNext
  exact ⟨by decide, ⟨_, rfl, by decide⟩, ⟨_, rfl, by decide⟩, by decide⟩
theorem witness_an_owner_command_without_its_curves :
    errorOf (cmdRead (Claims.starting (waitsFirst [15, 0, 0, 0x400, 0, 0, 0, 0]) 0 (fresh [15, 0, 0, 0x400, 0, 0, 0, 0]))
      (Claims.begun (fresh [15, 0, 0, 0x400, 0, 0, 0, 0])) 0 16) = some (2, 0) := by decide

/-- A launch accepted, and one refused with no chain. -/
theorem witness_launch_commands :
    Claims.takesNext launching 0 launchCmd ∧ cmdOk launchCmd = true ∧ launchCmd.cw = false ∧ launchCmd.opc = 14 ∧
      launching.findOid 0 = some (0, false) ∧
      launched = Claims.starting launching 0 launchCmd ∧ (∃ n u, launched.launch (launchReq true none none) = .ok (n, u)) ∧
      ∃ sub, (Claims.starting (waitsFirst launchWords) 0 (fresh launchWords)).launch (launchReq true none none) = .error sub := by
  unfold Claims.takesNext
  exact ⟨by decide, by decide, by decide, by decide, by decide, rfl, of_check (launch_is_accepted true none none), ⟨_, rfl⟩⟩

/-- Command 1 at a point of its end; its group stands on core 0. -/
def ending (e : CmdEnd) (words : List Word) (unacked : Nat := 0) : State :=
  { stepsOn words [(0, 2), (1, 1), (4, 2), (16, 6)] 9 with
    cmds := [(1, { cmdOf words with ending := e, unacked := unacked })], cores := [(0, { a := { st := .running } })] }
/-- As `ending`, over a plain page. -/
def endingPlain (e : CmdEnd) (words : List Word) : State :=
  { stepsOn words with cmds := [(1, { cmdOf words with ending := e })], cores := [(0, { a := { st := .running } })] }
theorem witness_CommandsEndInOrder :
    (∀ e : CmdEnd, (let s := ending e []; Map.find s.cmds 1 = some { cmdOf [] with ending := e } ∧ s.cpeOn 0 = true ∧
      1 ∈ (s.cluster 0).cpe.run ∧ s.findOid 0 = some (0, false) ∧ s.saved = [] ∧ s.moves = [] ∧ s.islands = [])) ∧
    ({ cmdOf [] with unacked := 1 } : Cmd).unacked ≠ 0 ∧
    (∃ v ∈ ({ ending .arrived [] with saved := [{ group := {}, ctx := {} }] } : State).saved, v.ctx.oid = (cmdOf []).oid) ∧
    inWindow ((cmdOf [512, 0, 0, 0, 0, 0, 0xFFFFFFFFF00000, 0]).w 6) = true ∧ inWindow ((cmdOf [512]).w 6) = false ∧
    -- an arrival of the next phase that lies between two held ones
    (let d (id tc : Nat) : Cmd := { cmdOf [] with id := id, tc := tc }
     let s : State := { ending .committed [] with cmds := [(1, cmdOf []), (2, d 2 4), (3, d 3 6)], objs := [(0x10010000, { arrivals := [2, 3] })] }
     (s.obj 0x10010000).arrivals = [2] ++ [3] ∧ (Map.find s.cmds 2).any (fun d => decide (d.tc ≤ 5)) = true ∧
       (Map.find s.cmds 3).any (fun d => decide (5 < d.tc)) = true) ∧
    (∀ n ∈ [(6 : Word), 7, 9],
      let c := { cmdOf [n * 2 ^ 56 + 512, 0, 0, 0, 0, 0, 0, 0] with ending := .committed }
      let s := ending .committed []
      ∃ x, s.bump.translate (s.viaCmd c) (c.w 6) .objWrite = .ok x ∧ x.dem = false ∧
        s.poisoned x.pa = false ∧ s.kind x.pa = 2 ∧ s.slotState x.pa ≠ 0 ∧ Claims.header c 63 56 = n.toNat ∧
        (s.bump.walked (s.viaCmd c) (c.w 6) x).phase x.pa = 6) ∧
    Claims.header (cmdOf [1]) 10 10 = 0 ∧ Claims.header (cmdOf [1024]) 10 10 = 1 ∧
    (∃ x, (endingPlain .arrived [1024, 0, 0, 0, 0, 0, 0, 64]).bump.cwAddr (cmdOf [1024, 0, 0, 0, 0, 0, 0, 64]) = .ok x ∧ x.dem = false) ∧
    (∃ f, (command [] []).bump.cwAddr (cmdOf [1024, 0, 0, 0, 0, 0, 0, 64]) = .error f) := by
  refine ⟨fun e => ⟨rfl, by cases e <;> decide, by cases e <;> decide, by cases e <;> decide, rfl, rfl, rfl⟩, by decide, by decide,
    by decide, by decide, by decide, ?_,
    by decide, by decide, ⟨_, rfl, by decide⟩, ⟨_, rfl⟩⟩
  intro n h
  simp only [List.mem_cons, List.not_mem_nil, or_false] at h
  rcases h with rfl | rfl | rfl
  · exact ⟨slot0 9, ok_of (by decide), by decide, by decide, by decide, by decide, by decide, by decide⟩
  · exact ⟨slot0 9, ok_of (by decide), by decide, by decide, by decide, by decide, by decide, by decide⟩
  · exact ⟨slot0 9, ok_of (by decide), by decide, by decide, by decide, by decide, by decide, by decide⟩

/-- One table that serves every level, whose page 0 has no frame yet: as a leaf its entry has DEM. -/
def demand : List Host.Cell := cells 0 3 [] |>.filter (fun e => e.1 < 0x10006002)

/-- At the top of the scratchpad window, whose last bank the group has; a plain page; a page without a frame; none. -/
theorem witness_commands_read_versions_and_lost_lines :
    let c : Cmd := { cmdOf [] with id := 7, view := [(0x10010000, ([4], true))], lost := [0] }
    let s (vs : List Version) : State := { stepsOn [] [] 5 with vers := [(0x10010000, vs)] }
    127 / 128 * 128 ∈ c.lost ∧ 127 / 128 * 128 ∉ (cmdOf []).lost ∧
      (s []).translate ((s []).viaCmd c) 127 .read = .ok { slot0 5 with pa := 0x1001007F } ∧ (slot0 5).dem = false ∧ (slot0 5).v = true ∧
      (s [{ owner := some (.cmd 7) }]).chain 0x10010000 = [] ++ { owner := some (.cmd 7) } :: [] ∧
      Map.find c.view 0x10010000 = some ([4], true) ∧ Map.find (cmdOf []).view 0x10010000 = none ∧
      (s [{ tide := 3 }]).chain 0x10010000 = [{ tide := 3 }] :=
  ⟨by decide, by decide, ok_of (by decide), by decide, by decide, rfl, rfl, rfl, rfl⟩

theorem witness_CommandsReachTheirGroupsData :
    let va := 2 ^ 56 - 2 ^ 20 + 24 * 32768 - 1
    let s : State := { command [] [] with cores := [(0, { a := { st := .running, bankSet := 0x800000 } })] }
    let via (s : State) : Via := s.viaCmd (cmdOf [])
    va % 128 + 1 ≤ 128 ∧ inWindow va = true ∧ s.findOid (cmdOf []).oid = some (0, false) ∧
      bankFault (s.ctx 0 false).bankSet (va % 2 ^ 20) 1 = none ∧ (s.core 0).spPoisoned (va % 2 ^ 20) 1 = false ∧ inWindow 127 = false ∧
      (stepsOn []).translate (via (stepsOn [])) 127 .read = .ok { slot0 1 with pa := 0x1001007F } ∧ (slot0 1).dem = false ∧
      (slot0 1).v = false ∧ (stepsOn []).poisoned 0x1001007F = false ∧
      (stepsOn []).translate (via (stepsOn [])) 127 .write = .ok { slot0 1 with pa := 0x1001007F } ∧
      (∃ x, (command [] demand).translate (via (command [] demand)) 127 .read = .ok x ∧ x.dem = true) ∧
      (∃ f, (command [] []).translate (via (command [] [])) 127 .write = .error f) :=
  ⟨by decide, by decide, by decide, by decide, by decide, by decide, ok_of (by decide), by decide, by decide, by decide,
    ok_of (by decide), ⟨_, rfl, by decide⟩, ⟨_, rfl⟩⟩

/-- Command 1 over a V page whose line has these versions. -/
def overV (vs : List Version) : State := { stepsOn [] [] 5 with vers := if vs = [] then [] else [(0x10010000, vs)] }
/-- Its own version; the value at its push; a version of its pusher's snapshot; none. -/
theorem witness_commands_over_a_V_page :
    (∀ vs ∈ [[], [{ tide := 4 }], [{ tide := 3 }, { owner := some (.cmd 1), data := [1] }]], ∃ x, (overV vs).translate ((overV vs).viaCmd (cmdOf [])) 127 .read = .ok x ∧ x.dem = false ∧ x.v = true ∧ x.pa = 0x1001007F) ∧
      (let vs : List Version := [{ tide := 3 }, { owner := some (.cmd 1), data := [1] }]
       (overV vs).chain 0x10010000 = [{ tide := 3 }] ++ { owner := some (.cmd 1), data := [1] } :: []) ∧
      Map.find ({ cmdOf [] with view := [(0x10010000, [5], true)] } : Cmd).view 0x10010000 = some ([5], true) ∧
      (let c : Cmd := { cmdOf [] with rsnap := 3 }
       Map.find c.view 0x10010000 = none ∧ (∀ v ∈ [({ tide := 3 } : Version), { tide := 2 }], v.tide ≤ c.rsnap) ∧
       (∀ v ∈ (overV [{ tide := 4 }]).chain 0x10010000, v.owner = none → c.rsnap < v.tide)) := by
  refine ⟨fun vs h => ?_, by decide, by decide, by decide⟩
  simp only [List.mem_cons, List.not_mem_nil, or_false] at h
  rcases h with rfl | rfl | rfl <;> exact ⟨{ slot0 5 with pa := 0x1001007F }, ok_of (by decide), by decide, by decide, by decide⟩

/-- Queue 5 cached in terp 0, over polder 0's page 0. -/
def queue5 (e : Qcb) (l : QLive := {}) (bytes : List (Nat × Byte) := []) (f : Fep := {}) : State :=
  { terps := [(0, { cache := [(5, e)] })], qlive := [(5, l)], feps := [(0, f)], mem := cells 0 1 (frame bytes) }
theorem noBell_of {s : State} {p va : Nat} {x : Xlat} (h : s.translate { polder := p } va .read = .ok x)
    (hb : s.doorbellOf x.pa = none) : Claims.noBell s p va := by
  intro y hy
  rw [h] at hy
  cases hy
  exact hb
/-- The addresses that the witnesses of this file read lie in no doorbell's element, and nothing is held. -/
theorem nothing_is_held (e : Qcb) (l : QLive) (bytes : List (Nat × Byte)) (f : Fep) : Claims.nothingHeld (queue5 e l bytes f) :=
  ⟨rfl, fun _ h => absurd h List.not_mem_nil⟩
theorem witness_no_bells : Claims.noBell (queue5 {} {} [(8, 9)]) 0 8 ∧ Claims.noBell (queue5 { st := .waiting } {} [(8, 9)]) 0 8 ∧
    Claims.noBell (queue5 { st := .active, tail := 1, log2 := 2 }) 0 0 :=
  ⟨noBell_of (x := { slot0 1 with pa := 0x10010008 }) (ok_of (by decide)) (by decide),
    noBell_of (x := { slot0 1 with pa := 0x10010008 }) (ok_of (by decide)) (by decide),
    noBell_of (x := slot0 1) (ok_of (by decide)) (by decide)⟩
/-- TAIL may go as far as the ring's size beyond HEAD, and no further. -/
theorem witness_DoorbellsMoveTheTail :
    let e : Qcb := { log2 := 20, head := 0xFFFFFFFF, tail := 0xFFFFFFFF }
    (queue5 e).cached 5 = some (0, e) ∧ (queue5 e).inReset = false ∧
      (let v (d : List Byte) : BitVec 32 := .ofNat 32 (leOf (d.take 4))
       ((v [255, 255, 15, 0] - e.tail).toNat < 2 ^ 31 ∧ (v [255, 255, 15, 0] - e.head).toNat ≤ 2 ^ e.log2) ∧
       ¬ (v [0, 0, 16, 0] - e.head).toNat ≤ 2 ^ e.log2) := by decide

theorem witness_QueueSyncsWriteBack :
    (queue5 {}).homeOf 5 ≠ 3 ∧ (queue5 {}).inReset = false ∧ ((queue5 {}).terp 3).qsyncHeld = [] ∧ ((queue5 {}).terp 3).qsyncBusy = false ∧
      (queue5 {}).cached 5 = some (0, {}) ∧ ((queue5 {}).terp 0).qsyncBusy = false ∧
      (queue5 {}).cached (2 ^ 20 - 1) = none ∧ (queue5 {}).qHome (2 ^ 20 - 1) = 0 ∧
      (let s : State := { terps := [(0, { cache := [(5, {})], qsyncBusy := true, qsyncIdx := 5 })] }
       (s.terp 0).qsyncBusy = true ∧ (s.terp 0).qsyncHeld = [] ∧ partly (s.live 5) = false ∧ s.cached 5 = some (0, {}) ∧ s.cached 6 = none) := by decide

/-- One entry in expansion, with this many operators not retired. -/
theorem noBells_of {s : State} (h : s.qdbase = 0) : Claims.noBells s := by
  intro pa
  simp [State.doorbellOf, h]
/-- The queue's ring, records and tables lie in no doorbell, and nothing is held; a move holds a launch's tables; the host link's
island is gated. -/
theorem witness_nothing_is_held_or_rung :
    Claims.nothingHeld (queue5 {}) ∧ Claims.noBells (queue5 {}) ∧ Claims.noBell (queue5 {}) 0 8 ∧ Claims.nothingHeld launched ∧
      Claims.noBells launched ∧ launched.launchHeld (launchReq false (some 5) (some 0)) = false ∧
      ({ launched with moves := [(9, { polder := 0, va := 0, toT2 := true })] } : State).launchHeld (launchReq false (some 5) (some 0)) = true ∧
      ({} : State).islandOn 207 = true ∧ ({ islands := [(207, { pst := 2 })] } : State).islandOn 207 = false :=
  ⟨⟨rfl, fun _ h => absurd h List.not_mem_nil⟩, noBells_of rfl, fun x _ => noBells_of rfl x.pa, ⟨rfl, fun _ h => absurd h List.not_mem_nil⟩,
    noBells_of rfl, by decide +kernel, by decide +kernel, by decide, by decide⟩

def entry (kind addr val : Nat) (st : QState := .active) (unret : Nat := 0) (bytes : List (Nat × Byte) := []) (f : Fep := {}) : State :=
  queue5 { st := st } { exps := [{ kind := kind, addr := addr, val := val, nextRec := addr }], unret := unret } bytes f
theorem entry_cached (kind addr val : Nat) (st : QState) (unret : Nat) (bytes : List (Nat × Byte)) (f : Fep) :
    (entry kind addr val st unret bytes f).cached 5 = some (0, { st := st }) := rfl
theorem witness_QueueEntriesExpand :
    ((entry 4 0 0).live 5).unret = 0 ∧ ((entry 4 0 0 .active 1).live 5).unret ≠ 0 ∧ Claims.plainWord (entry 3 8 9) 0 8 0x10010008 ∧
      writeSignal (entry 3 4 9) { st := .active } 4 9 = none ∧ signalWord (entry 2 8 9 .active 0 [(8, 9)]) 0 8 = some 9 ∧
      signalWord (entry 2 8 10 .waiting 0 [(8, 9)]) 0 8 = some 9 ∧ signalWord (entry 2 0x10000 9) 0 0x10000 = none ∧
      (∃ go next regs, memRecord (entry 1 0 0 .active 0 [(0, 1)]) 0 0 = some (go, next, regs)) ∧
      memRecord (entry 1 0 0) 0 0 = none ∧ ((entry 1 0 0).fep 0).shadow = none ∧
      (let o : Operator := { queue := 5, go := true }
       ((entry 1 0 0 .active 0 [] { shadow := some o, active := some o }).fep 0).shadow ≠ none ∧
       ((entry 1 0 0 .active 0 [] { shadow := some o, active := some o }).fep 0).active ≠ none) :=
  ⟨by decide, by decide, ⟨{ slot0 1 with pa := 0x10010008 }, ok_of (by decide), by decide, by decide, by decide, by decide, by decide⟩,
    rfl, by decide, by decide, by decide, ⟨_, _, _, rfl⟩, by decide, rfl, ⟨by decide, by decide⟩⟩

theorem witness_OperatorsActivate :
    (let s := queue5 {} { unret := 1 } [] { shadow := some { queue := 5, go := false } }
     (s.fep 0).active = none ∧ (s.fep 0).shadow = some { queue := 5, go := false } ∧ s.cached 5 = some (0, {})) ∧
    ((launched.fep 0).active = none ∧ (launched.fep 0).shadow = some { queue := 5, go := true, rcb := some 0x4000, ng := some 1 } ∧
      launched.cached 5 = some (0, { st := .active }) ∧ launched.inReset = false ∧
      ∃ rk r, launchCheck launched (launchReq false (some 5) (some 0)) = .ok (rk, r)) ∧
    ∃ sub, launchCheck ({ launched with mem := [] } : State) (launchReq false (some 5) (some 0)) = .error sub :=
  ⟨⟨rfl, rfl, rfl⟩, ⟨rfl, rfl, rfl, rfl, launch_is_accepted _ _ _⟩, ⟨_, rfl⟩⟩

/-- FEP 0 with x11 and x12. -/
def fep0 (a b : Word) (f : Fep := {}) : Fep := { f with x := [(11, a), (12, b)] }
theorem witness_FrontEndWordsHaveTheirEffect :
    (let b : Word := 0x403C; (b.toNat / 256 % 128 = 64 ∧ ¬ b.toNat % 64 + 64 ≤ 64) ∧ (let b : Word := 0x043C; 1 ≤ b.toNat / 256 % 128 ∧ b.toNat % 64 + b.toNat / 256 % 128 ≤ 64)) ∧
    (queue5 {} {} [] (fep0 8 9 { xnimq := 5 })).cached ((queue5 {} {} [] (fep0 8 9 { xnimq := 5 })).fep 0).xnimq.toNat = some (0, {}) ∧
    signalWord (queue5 {} {} [(8, 9)]) 0 8 = some 9 ∧ signalWord (queue5 {}) 0 0x10000 = none ∧
    (let s := queue5 { st := .active, tail := 1, log2 := 2 } {} [] (fep0 5 64)
     ((s.fep 0).get 11).toNat = 5 ∧ s.cached 5 = some (0, { st := .active, tail := 1, log2 := 2 }) ∧
     8 * ({ st := .active, tail := 1, log2 := 2 } : Qcb).home + ({ st := .active, tail := 1, log2 := 2 } : Qcb).fepn = s.curFep ∧
     (∃ bytes, qLoad s 0 true 0 64 = some bytes) ∧ qLoad s 0 true 0x10000 64 = none ∧ s.servesQ 5 = true ∧ s.servesQ (2 ^ 20) = false) ∧
    (∃ go next regs, localRecord (fep0 0 5 { mem := [(0, 1)] }) 0 = some (go, next, regs)) ∧ localRecord (fep0 0 5) 0 = none :=
  ⟨by decide, rfl, by decide, by decide, ⟨rfl, rfl, by decide, ⟨_, rfl⟩, by decide, by decide, by decide⟩, ⟨_, _, _, rfl⟩, by decide⟩

theorem witness_NoticesReachTheRing :
    let n : Notice := { cause := 0x60, fep := 31 }
    let s (cons prod : BitVec 32) : State := { notices := [n], hostUp := true, nringBase := 0xFFFFFFFFFFFFF, nrCons := cons, nrProd := prod }
    let w (n : Notice) : State := { nrWritten := some n, agenda := [.tick] }
    (s 0 15).notices.find? (fun n => n.fep == 31) = some n ∧ (s 0 15).nrWritten = none ∧
      ((s 0 15).nrProd - (s 0 15).nrCons).toNat < 2 ^ (s 0 15).nringLog2.toNat ∧
      2 ^ (s 0 16).nringLog2.toNat ≤ ((s 0 16).nrProd - (s 0 16).nrCons).toNat ∧ ({ s 0 0 with hostUp := false } : State).hostUp = false ∧
      (w n).nrWritten = some n ∧ (n.cause = 0x60 ∨ n.cause = 0x61) ∧ n.stat = 0 ∧ (w n).agenda = .tick :: [] ∧
      (w { cause := 0x62 }).nrWritten ≠ none ∧ (({ cause := 0x62 } : Notice).cause ≠ 0x60 ∧ ({ cause := 0x62 } : Notice).cause ≠ 0x61) := by
  decide

end Sys2Proof.Tests
end

