-- ==== Sys2Proof/Tests/WitnessMachine.lean ====
section
/-! SUPPORT. Witnesses for the statements about polders, regions, groups, pages, power, links, levees, the host's side, encodings
and steps. -/

open Sys2Proof Sys2Proof.Machine

namespace Sys2Proof.Tests

/-- Polder 0 in a state, with cluster 0; nothing else is in its entry. -/
def polderIn (st : Byte) (s : State := {}) : State := { s with mem := if st = 0 then [(4, 1)] else [(0, st), (4, 1)] }
theorem polder0_binds_no_mirror (st : Byte) (s : State) (h : s.ptbase = 0) : Claims.noMirror (polderIn st s) := by
  have hb (a : Nat) (ha : a ≠ 0) (hc : a ≠ 4) : (polderIn st s).readByte a = 0 := by
    unfold polderIn State.readByte
    split <;> simp [Map.get, memDefault, Ne.symm ha, Ne.symm hc]
  intro p
  have h0 (i : Nat) : (polderIn st s).readByte ((polderIn st s).ptAddr p + 40 + i) = 0 := by
    have : (polderIn st s).ptAddr p = 256 * p := by show s.ptbase.toNat + 256 * p = _; rw [h]; simp
    exact hb _ (by omega) (by omega)
  have h1 (n : Nat) : ∀ i, (polderIn st s).readBytes ((polderIn st s).ptAddr p + 40 + i) n = List.replicate n 0 := by
    induction n with
    | zero => intro i; rfl
    | succ n ih => intro i; rw [State.readBytes, h0, Nat.add_assoc, ih, List.replicate_succ]
  have := h1 8 0
  rw [State.ptField, State.readLE, ← Nat.add_zero ((polderIn st s).ptAddr p + 40), this]
  rfl

/-- A region of polder 0 in a state, with a group on core 3. -/
def regionIn (st : RState) (line : Bool := false) : State :=
  { regions := [(7, { st := st, line := line, remap := [(0, 6)] })],
    cores := [(3, { a := { st := .running, group := { region := 7 } } })] }
theorem witness_PolderControlMovesThePolder :
    Claims.pctlFree (polderIn 0) 0 ∧ (polderIn 0).polderSt 0 = 0 ∧ (polderIn 1).polderSt 0 = 1 ∧ (polderIn 2).polderSt 0 = 2 ∧
      Claims.noMirror (polderIn 1) ∧ (polderIn 1).holdsCluster 0 (3 / 4) = true ∧ (polderIn 1).holdsCluster 0 (4 / 4) = false ∧
      (∀ e ∈ (polderIn 1).regions, e.2.live = true → e.2.polder ≠ 0) ∧
      ¬ (∀ e ∈ (polderIn 1 (regionIn .running)).regions, e.2.live = true → e.2.polder ≠ 0) ∧
      Claims.pctlFree (polderIn 2 (regionIn .preempted)) 0 ∧
      Claims.listed (polderIn 2 (regionIn .preempted true)) 7 { st := .preempted, line := true, remap := [(0, 6)] } ∧
      (polderIn 2 (regionIn .preempted)).placedOf 7 ≠ [] ∧
      (∀ e ∈ (polderIn 2 (regionIn .running)).regions, e.2.polder = 0 → e.2.st ≠ .preempted) ∧
      ({ pctlBusy := true } : State).pctlBusy = true ∧ ({ presets := [(3, { notice := { cause := 0x61 } })] } : State).presets ≠ [] :=
  ⟨⟨by decide, rfl, rfl, rfl, rfl⟩, by decide, by decide, by decide, polder0_binds_no_mirror _ _ rfl, by decide, by decide, by decide,
    by decide, ⟨by decide, rfl, rfl, rfl, rfl⟩, ⟨List.mem_cons_self, by intro e he; rw [List.mem_singleton.1 he]; intro; rfl⟩,
    by decide, by decide, rfl, by decide⟩

/-- Four sequencers that have stopped. -/
def allStopped (c : Ctx) : Ctx :=
  { c with seqC := { c.seqC with stopped := true }, seqL := { c.seqL with stopped := true }, seqE := { c.seqE with stopped := true },
           seqS := { c.seqS with stopped := true } }

theorem witness_PolderResetsScrub :
    Claims.pctlFree (polderIn 1 (regionIn .running)) 0 ∧ (polderIn 1 (regionIn .running)).polderSt 0 = 1 ∧
      (let s := polderIn 1 { regionIn .running with terps := [(0, { cache := [(5, { st := .active, wdog := 1 })] })], qlive := [(5, { wd := 1024 })] }
       s.wdogDue 5 = true ∧ s.retireDue 5 = false ∧ s.cached 5 = some (0, { st := .active, wdog := 1 }) ∧ ∀ j ∈ s.queuesOf 0, (s.cached j).isSome = true) ∧
      (let s := polderIn 1 { terps := [(0, { cache := [(5, { st := .active, wdog := 1 })] })], qlive := [(5, { wd := 1023 })] }
       s.wdogDue 5 = false) ∧
      (let s : State := { regions := [(7, { st := .running, queue := some 5 })],
                          cores := [(127, { b := allStopped { st := .parked, retiring := true, group := { region := 7 } } })] }
       s.retireDue 5 = true) ∧
      (let r (killed : Bool) : Reset := { notice := { cause := 0x61 }, killed := killed }
       let s (killed : Bool) : State := polderIn 3 { presets := [(0, r killed)] }
       (∀ killed, Map.find (s killed).presets 0 = some (r killed)) ∧ (r false).killed = false ∧ (r true).killed = true ∧
       (s true).pctlHeld = [] ∧ (s true).cmds = [] ∧ (∀ h, ((s true).terp h).cache = []) ∧ (∀ f, ((s true).fep f).shadow = none) ∧
       (s true).qpbase = 0) ∧
      (let s : State := { mem := [(56, 1)] }; inRanges (s.memoryOf 0) 0xBFFFFFFF = true ∧ inRanges (s.memoryOf 0) 0 = true) :=
  ⟨⟨by decide, rfl, rfl, rfl, rfl⟩, by decide, ⟨by decide, by decide, rfl, by decide⟩, by decide, by decide, ⟨fun _ => rfl, rfl, rfl, rfl, rfl, fun _ => rfl, fun _ => rfl, rfl⟩,
    ⟨by decide, by decide⟩⟩

/-- Region 7 with stages; clusters of polder 0. -/
def staged (l : List Stage) (maxc : Nat := 2) (cores : Map Core := []) : State :=
  { mem := [(4, 1)], regions := [(7, { st := .running, stages := l, maxc := maxc })], cores := cores }
/-- A core that holds a group of region 7 with this scratchpad bank. -/
def holding (b : BitVec 24) : Core := { a := { st := .running, bankSet := b, group := { region := 7, stage := 1 } } }
theorem witness_StagesAreEvaluated :
    ((staged [{}]).region 7).st = .running ∧ ((staged [{}]).region 7).evalAt ≤ (staged [{}]).islandTime 206 ∧
      (let s := regionIn .preempted; (s.region 7).st ≠ .running) ∧
      (let s : State := { regions := [(7, { st := .running, evalAt := 1 })] }; s.islandTime 206 < (s.region 7).evalAt) := by decide

/-- A full ring that a stage reads, and at which a group of another stage waits for room. -/
theorem witness_full_and_short_rings :
    let s : State := {
      regions := [(7, { st := .running, maxc := 2, stages := [{ inRing := 0x100, maxc := 1 }, { outRing := 0x100, target := 1, maxc := 1 }] })],
      mem := cells 0 9 (frame [(0x100, 1), (0x104, 4), (0x114, 4)]),
      cores := [(0, { a := { st := .running, oid := 9, group := { region := 7, stage := 1 } } })],
      objs := [(0x10010100, { waiters := [{ oid := 9, st := .c, w := .rwaite 1 1 }] })] }
    ringAt s (s.region 7) 0x100 = some 0x10010100 ∧ blockedOn s 7 1 0x10010100 = true ∧ s.ringFull 0x10010100 = true := by decide

/-- The first group on an empty cluster; the last GIDX of a stage that has a position returned, beside other groups. -/
theorem witness_GroupsArePlaced :
    (let s := staged [{ count := 1, maxc := 1 }]
     s.wantsGroup 7 0 = true ∧ s.regionRoom 7 0 = true ∧ laterServed s 7 0 = false ∧ s.inReset = false ∧
       (s.region 7).nextOf 0 = some { stage := 0, gidx := 0, begin := 0, grun := 0 } ∧ s.islandOn (coreIsland 0) = true ∧ s.coreFor 7 (stageNeed s 7 0) = some 0 ∧
       s.slotFor 0 = some (false, .running)) ∧
    (let one := staged [{ count := 0xFFFFFF, next := 0xFFFFFF, maxc := 1 }] 8 ((List.range 4).map (fun k => (k, holding 1)))
     let s : State := one.updRegion 7 (fun r => { r with returned := [{ stage := 0, gidx := 5, begin := 3, grun := 65535 }] })
     s.wantsGroup 7 0 = true ∧ s.regionRoom 7 0 = true ∧ laterServed s 7 0 = false ∧
       (s.region 7).nextOf 0 = some { stage := 0, gidx := 5, begin := 3, grun := 65535 } ∧ s.coreFor 7 (stageNeed s 7 0) = some 0 ∧
       s.slotFor 0 = some (true, .parked)) :=
  ⟨⟨by decide, by decide, by decide, rfl, rfl, by decide, by decide, by decide⟩, ⟨by decide, by decide, by decide, rfl, by decide, by decide⟩⟩

theorem witness_GroupsRetire :
    (let s : State := { regionIn .running with
       cores := [(127, { b := allStopped { st := .parked, retiring := true, group := { region := 7 } } })] }
     s.retireReady 127 true = true ∧ s.islandOn (coreIsland 127) = true ∧ s.guestHeld 7 = false ∧
       ({ s with moves := [(9, { polder := 0, va := 0, toT2 := true })] } : State).guestHeld 7 = true ∧
       ({ s with islands := [(coreIsland 127, { pst := 2 })] } : State).islandOn (coreIsland 127) = false ∧ ∀ st, ((s.ctx 127 true).seq st).blockedAtAbort = false) ∧
    (regionIn .running).retireReady 3 false = false ∧
    (let vs : Map (List Version) := [(0x10010000, [{ owner := some (.group 0) }]), (0x10010080, [{ owner := some (.group 0) }])]
     Map.sorted vs = true ∧ Map.find vs 0x10010080 = some [{ owner := some (.group 0) }]) := by
  refine ⟨⟨by decide, by decide, by decide, by decide, by decide, fun st => ?_⟩, by decide, by decide, by decide⟩
  cases st <;> rfl

/-- A group of region 7 on core 0 at its boundary, with an image to be saved to and one slice, a register and a scratchpad byte. -/
def atYield (st : RState) (maxc : Nat := 8) : State :=
  let c : Ctx := { allStopped { st := .running, boundary := true, save := 0x10000, bankSet := 1, group := { region := 7 },
                                rects := [{ row0 := 0, nrows := 1, slc0 := 0, nslc := 1 }], w := [(0, 5)] } with seqC := { x := [(1, 5)] } }
  { mem := [(4, 1)], regions := [(7, { st := st, maxc := maxc, remap := [(0, 0)] })],
    cores := [(0, { a := c, migReq := true, sp := [(0, 9)] }), (2, { migReq := true }), (3, { migReq := true })],
    terps := [(0, { ovEn := true, ovCore := 1, ovTemp := 20 })] }
/-- The image of a group of region 7. -/
def image (gidx : Nat) : Saved :=
  { group := { region := 7, gidx := gidx }, ctx := { st := .parked, bankSet := 1, grun := 65535, group := { region := 7, gidx := gidx } }, sp := [(0, 9)] }
theorem witness_GroupsLeaveAndReturn :
    (atYield .preempted).atBoundary 0 = true ∧ (atYield .preempted).preempts ((atYield .preempted).act 0) = true ∧
      allocated ((atYield .preempted).act 0).rects 0 = true ∧ inBanks ((atYield .preempted).act 0).bankSet 32767 = true ∧
      (∀ e ∈ (atYield .preempted).objs, ∀ w ∈ e.2.waiters, w.oid ≠ ((atYield .preempted).act 0).oid) ∧
      (let s := atYield .preempted
       s.imageHeld (s.region 7) (s.act 0) = false ∧ s.islandOn (coreIsland 1) = true ∧ (image 0).ctx.save = 0 ∧
         s.imageHeld (s.region 7) (image 0).ctx = false ∧ (s.act 0).save % 65536 = 0 ∧ s.feAddr 0 (s.act 0).save = none) ∧
      (atYield .running).atBoundary 0 = true ∧ (atYield .running).preempts ((atYield .running).act 0) = false ∧
      ((atYield .running).core 0).migReq = true ∧ (atYield .running 0).bump.moveTarget 0 = none ∧
      (atYield .running).bump.moveTarget 0 = some 1 ∧ (atYield .running).slotFor 1 = some (false, .running) ∧
      Map.sorted ((atYield .running).core 0).sp = true ∧
      (let s : State := { mem := [(4, 1)], regions := [(7, { st := .running, maxc := 2 })], saved := [image 1, image 0] }
       s.saved.find? (fun v => decide (v.ctx.group = { region := 7, gidx := 0 })) = some (image 0) ∧
       (∀ u ∈ s.saved, u.ctx.group.region = 7 → u.ctx.group.stage = 0 → 0 ≤ u.ctx.group.gidx) ∧ (s.region 7).st = .running ∧
       s.regionRoom 7 1 = true ∧ s.coreFor 7 { banks := 1, culs := [] } = some 0 ∧ s.slotFor 0 = some (false, .running) ∧
       Map.sorted (image 0).sp = true) :=
  ⟨by decide, by decide, by decide, by decide, (fun _ h => nomatch h), by decide, by decide, by decide, by decide, by decide, by decide, by decide, by decide,
    ⟨rfl, fun _ _ _ _ => Nat.zero_le _, by decide, by decide, by decide, by decide, by decide⟩⟩

theorem witness_HeatRequestsMigration :
    let s : State := {}
    let o : State := { terps := [(3, { ovEn := true, ovCore := 127 })] }
    ¬ ((s.terp 3).ovEn = true ∧ (s.terp 3).ovCore.toNat = 127) ∧ (s.terp 3).tmig.toNat ≤ 95 ∧ 89 < (s.terp 3).trel.toNat ∧ 89 < (s.terp 3).tmig.toNat ∧
      s.inReset = false ∧ (0x80005F7F : BitVec 32).toNat % 128 / 32 = 3 ∧ (0x80005F7F : BitVec 32).toNat / 256 % 256 = 95 ∧
      (0x8000591F : BitVec 32).toNat % 128 / 32 ≠ 3 ∧ ((o.terp 3).ovEn = true ∧ (o.terp 3).ovCore.toNat = 127) ∧
      (0x7F : BitVec 32).getLsbD 31 = false ∧
      -- an override above TMIG, one below TREL, one between
      (s.terp 3).tmig.toNat ≤ 95 ∧ 20 < (s.terp 3).trel.toNat ∧ ((s.terp 3).trel.toNat ≤ 92 ∧ 92 < (s.terp 3).tmig.toNat) ∧
      (let x : State := { terps := [(3, { ovEn := true, ovCore := 100 })] }
       (x.terp 3).ovCore.toNat / 32 = 3 ∧ (x.terp 3).ovCore.toNat ≠ (0x80005F7F : BitVec 32).toNat % 128) ∧
      (100 ≠ 127 ∧ (0x80005F7F : BitVec 32).getLsbD 31 = true) := by decide

/-- A move of page 0 to tier 2, with a frame of the other tier free or none. -/
def moving (frames : List Nat) (sb : List SbEntry := []) : State :=
  { mem := cells 0 1 (frame [(5, 7)]), moves := [(3, { polder := 0, va := 0, toT2 := true, cmd := some 1 })], frames := [(1, frames)],
    cmds := [(1, cmdOf migrate0)], cores := [(0, { sb := sb })] }
theorem moving_meets_inv : (moving [0x10000000000]).Inv ∧ (moving []).Inv := by
  show Memory.wf _ ∧ Memory.wf _; decide
theorem witness_PagesMove :
    Map.find (moving [0x10000000000]).moves 3 = some { polder := 0, va := 0, toT2 := true, cmd := some 1 } ∧
      (moving []).markersDone 3 = true ∧ movable (moving []) { polder := 0, va := 0, toT2 := true, cmd := some 1 } = some (0x10006000, 0x10010101) ∧
      frameBuffered (moving [] [{ pa := 0x1001FFFF, data := [1] }]) false (leafPa 0x10010101 0) = true ∧
      frameBuffered (moving []) false (leafPa 0x10010101 0) = false ∧
      takeFrame false (Map.get [] (moving [0x10000000000]).frames (frameList 0 true)) = some 0x10000000000 ∧ 0x10000000000 % 65536 = 0 ∧
      takeFrame false (Map.get [] (moving []).frames (frameList 0 true)) = none ∧ (0x10000000000 : Nat) < 2 ^ 48 ∧
      (let stops (s : State) := s.framesStopped { polder := 0, va := 0, toT2 := true, cmd := some 1 } 0x10010000 0x10000000000
       stops (moving [0x10000000000]) = false ∧ stops { moving [0x10000000000] with islands := [(192, { pst := 2 })] } = true) ∧
      (∀ e ∈ (moving []).regions, (moving []).haltReady e.1 = false) ∧
      -- of 2 MiB pages a frame of 32 pages that all stand free, and none where one is missing
      (let l := (List.range 32).map (fun i => 0x10000200000 + 65536 * i)
       takeFrame true (0x10000010000 :: l) = some 0x10000200000 ∧ takeFrame true l.tail = none) ∧
      (moving []).movePays { polder := 0, va := 0, toT2 := true, cmd := some 1 } (leafPa 0x10010101 0) = true ∧
      (let s : State := { moving [] with owners := [(0, { st := .admitted, path := [{ cls := clsDram, sigma := 0, rho := 0 }] })] }
       s.movePays { polder := 0, va := 0, toT2 := true, cmd := some 1 } (leafPa 0x10010101 0) = false) ∧ Map.find (moving []).cmds 1 = some (cmdOf migrate0) ∧
      (let s : State := { moving [] with clusters := [(0, { cpe := { fifo := [(0, [.cmd 1, .marker 3])] } })] }; s.markersDone 3 = false) :=
  ⟨rfl, by decide, by decide, by decide, by decide, by decide, by decide, by decide, by decide, by decide, by decide, by decide, by decide,
    by decide, rfl, by decide⟩

/-- The page engine of polder 15 is on; its interval is 1. -/
def scanning : State := { mem := [(3840, 1), (3841, 2), (3852, 1)] }
theorem witness_PageEnginesKeepHouse :
    scanning.polderSt 15 = 1 ∧ (scanning.ptField 15 1 1).testBit 1 = true ∧ scanning.ptField 15 12 4 ≠ 0 ∧ Map.get 0 scanning.scanAt 15 ≤ scanning.tick ∧
      (let s : State := { mem := cells 0 33 [] }; s.leaves 0 = [(0, 0x10006000)] ∧ scanned s 0 0x10006000 = true) ∧
      scanning.inReset = false ∧ (scanning.terp 3).inval = none ∧
      (let s : State := { terps := [(3, { inval := some 1 })] }; (s.terp 3).inval ≠ none) ∧ inDram (0x3000000000 - 128) = true ∧
      (let s : State := { islands := [(247, { uvs := 1 })] }; (s.island 247).uvs ≠ 0 ∧ (scanning.island 247).uvs = 0) :=
  ⟨by decide, by decide, by decide, by decide, ⟨by decide, by decide⟩, by decide, by decide, by decide, by decide, by decide⟩

theorem witness_DredgersLowerTheBase :
    let v : Version := { owner := none, tide := 5 }
    let s (low : Nat) : State := { vers := [(0x10010000, [v, { owner := some (.group 2), tide := 3 }])], terps := (List.range 4).map (fun t => (t, { lowtide := low })) }
    newestUpTo ((s 5).terp ((s 5).terpOfLine 0x10010000)).lowtide ((s 5).chain 0x10010000) = some v ∧
      newestUpTo ((s 4).terp ((s 4).terpOfLine 0x10010000)).lowtide ((s 4).chain 0x10010000) = none ∧
      ∀ u ∈ (s 5).chain 0x10010000, ((s 5).region u.node).chain = [] := by decide

theorem witness_IslandsTakeTheirSettings :
    let s : State := {}
    let held : State := { cores := [(127, { a := { st := .running } })] }
    let hop : State := { islands := [(255, { hop := some (3, 7) })] }
    held.islandHolds 189 = true ∧ s.islandHolds 191 = false ∧ s.inReset = false ∧
      ((0x7FFF : BitVec 15).getLsbD ((s.island 255).div.toNat - 2) = true ∧ (0x4000 : BitVec 15).getLsbD ((s.island 255).div.toNat - 2) = false) ∧
      (s.island 255).hop = none ∧ (hop.island 255).hop ≠ none ∧
      (let d : State := { islands := [(0, { droop := true })] }; (d.island 0).droop = true) := by decide

theorem witness_UndervoltingSteps :
    let s (i : Island) (tick : Nat := 6600000) : State := { islands := [(189, i)], tick := tick }
    siteIn (s {}) 189 (.w 127 true 0) = true ∧ siteIn (s {}) 188 (.w 127 true 0) = false ∧ siteIn (s {}) 5 (.basin 0 0x10000000 true) = true ∧
      (∀ pa, ErrSite.w 127 true 0 ≠ .tier2 pa) ∧ ((s { uvs := 1 }).island 189).uvs ≠ 0 ∧ ((s {}).island 189).uvs = 0 ∧
      ((s {}).island 189).uven = false ∧ (s { uven := true } 6599999).tick % 6600000 ≠ 0 ∧ (s { windowAt := 6600000 }).tick = 6600000 ∧
      (let i := (s { uven := true, uvmax := 3, uvs := 2, ceth := 1, ceCount := 1 }).island 189
       i.uven = true ∧ (s i).tick % 6600000 = 0 ∧ i.windowAt ≠ (s i).tick ∧ i.ceWindow = (s i).tick / 6600000 - 1 ∧
       i.ceth.toNat ≤ i.ceCount ∧ i.uvs ≠ 0) ∧
      (let i := (s { uven := true, uvmax := 3, uvs := 2, ceth := 1 }).island 189
       i.ceCount < i.ceth.toNat ∧ i.uvs.toNat < i.uvmax.toNat) ∧
      (let i := (s { uven := true, uvmax := 2, uvs := 2, ceth := 1 }).island 189; i.uvmax.toNat ≤ i.uvs.toNat) ∧
      ((s { margin := true }).island 189).margin = true ∧
      (let c : Ctx := { q := [(7, [{}, { data := 5 }])], y := [(3, [{ ready := true, data := 5 }])] }
       (Map.get [] c.q 7)[1]? = some { data := 5 } ∧ (Map.get [] c.y 3)[0]? = some { ready := true, data := 5 }) := by
  refine ⟨by decide, by decide, by decide, fun pa h => (nomatch h), by decide, by decide, by decide, by decide, by decide, by decide,
    by decide, by decide, by decide, ⟨rfl, rfl⟩⟩

/-- An interval is due, or is not; whether the projection exceeds the envelope is the opaque load's to say, and one of the two
holds. -/
theorem witness_TheArbiterGrants :
    (let s : State := { arbAt := 66000, tick := 66000 }; s.arbAt ≤ s.tick) ∧ (let s : State := { arbAt := 66000, tick := 65999 }; s.tick < s.arbAt) ∧
      (1400 < Config.projected 0 ∨ ¬ 1400 < Config.projected 0) :=
  ⟨by decide, by decide, Decidable.em _⟩

theorem witness_ServersServeBySmallestTag :
    let s : State := { fab := { waiting := [{ polder := 1, owner := 0, tag := some (3, 1), no := 0 }] } }
    let curved : State := { owners := [(3, { st := .admitted, path := [{ cls := clsFab, sigma := 128, rho := 0 }] })] }
    let empty : State := { owners := [(3, { st := .admitted, path := [{ cls := clsFab, sigma := 0, rho := 0 }] })] }
    serverOk (.dram 31) = true ∧ serverOk .fabric = true ∧ (s.server (.dram 31)).waiting = [] ∧ (s.server .fabric).waiting ≠ [] ∧
      (∀ x ∈ (s.server .fabric).waiting, ∀ g, x.tag = some g → g.2 ≠ 0) ∧ s.ptField 15 10 2 = 0 ∧ s.curved 0 (serverCls .fabric) = false ∧
      (let e : Passed := { srv := .fabric, polder := 0, owner := 3, no := 7, left := 1 }
       let s : State := { curved with passed := [e] }
       e ∈ s.passed ∧ e.srv = .fabric ∧ e.polder = 0 ∧ e.owner = 3) ∧
      empty.curved 3 (serverCls .fabric) = true ∧ (empty.owner 3).polder = 0 ∧
      empty.canPay 3 (.line .fabric false) [{ cls := serverCls .fabric, last := false, bytes := 128, srv := none }] = false := by
  refine ⟨by decide, by decide, by decide, by decide, ?_, by decide, by decide, by decide, by decide, by decide, by decide⟩
  intro x h g hg
  rw [List.mem_singleton.1 h] at hg
  rw [← Option.some.inj hg]
  decide

/-- Port 15 in a state, with these flits in its buffer. -/
def port15 (st : PortState) (out : List OutFlit := []) (p : Port := {}) : State := { ports := [(15, { p with st := st, out := out })] }
theorem witness_PortsTrainAndDrain :
    ((port15 .off).port 15).st = .off ∧ ((port15 .fault).port 15).st = .fault ∧ (port15 .off).inReset = false ∧
      (((port15 .up).port 15).st ≠ .off ∧ ((port15 .up).port 15).st ≠ .fault) ∧ ((port15 .training).port 15).st = .training ∧
      (port15 .training).tick ≤ ((port15 .training).port 15).timeout ∧ ((port15 .training).port 15).timeout ≤ (port15 .training).tick ∧
      (let s := port15 .training [] { timeout := 1 }; s.tick < (s.port 15).timeout) ∧
      (let s : State := { owners := [(3, { st := .admitted, path := [{ cls := 4, sigma := 0, rho := 0 }] })], tdlk := [(0, 260)] }
       s.holdsDlk 0 = true ∧ Map.get 0 s.tdlk 0 = 250 + 2 * 5 ∧ Map.get 0 s.tdlk 0 < 250 + 2 * 6) ∧
      ((port15 .draining).port 15).st = .draining ∧ ((port15 .draining).port 15).out = [] ∧
      ((port15 .draining).port 15).buf = [] ∧ ((port15 .draining [{ seq := 0, kind := 1, addr := 0 }]).port 15).out ≠ [] ∧
      (∀ e ∈ (port15 .draining).ports, e.2.out = []) := by decide
/-- Nothing that a lone port sent came from it. -/
theorem noneForwarded_of {s : State} (d : Nat) (h : ∀ e ∈ s.ports, e.2.out = []) : Claims.noneForwarded s d := by
  intro e he f hf
  rw [h e he] at hf
  cases hf

/-- Two flits of command 1, the second with this mark. -/
def two (replayed : Bool) : List OutFlit := [{ seq := 0, kind := 1, addr := 0, cmd := some 1 }, { seq := 1, kind := 1, addr := 0, cmd := some 1, replayed := replayed }]
theorem witness_AcknowledgementsMoveTheBuffer :
    let s (r : Bool) : State := { port15 .up (two r) with cmds := [(1, cmdOf [])] }
    ((s false).port 15).st = .up ∧ (((s false).port 15).out.find? (fun f => f.seq == 1)).isSome = true ∧ Map.find (s false).cmds 1 = some (cmdOf []) ∧
      (((s false).port 15).out.filter (fun f => decide (1 ≤ f.seq)) ≠ [] ∧ ∀ f ∈ ((s false).port 15).out.filter (fun f => decide (1 ≤ f.seq)), f.replayed = false) ∧
      (((s true).port 15).out.filter (fun f => decide (1 ≤ f.seq))).any (·.replayed) = true ∧
      ((s true).port 15).out.filter (fun f => decide (2 ≤ f.seq)) = [] ∧ (∀ e ∈ (s true).fwd, e.2.acks = []) ∧
      (let f : OutFlit := { seq := 4, kind := 1, addr := 0, fwd := some { port := 3, seq := 9, cmd := 2, last := true } }
       ((port15 .up [f]).port 15).out.find? (fun f => f.seq == 4) = some f ∧ f.fwd = some { port := 3, seq := 9, cmd := 2, last := true }) ∧
      (((port15 .off).port 15).st ≠ .up ∧ ((port15 .off).port 15).st ≠ .draining) := by
  refine ⟨by decide, by decide, rfl, ⟨by decide, ?_⟩, by decide, by decide, by decide, by decide, by decide⟩
  intro f h
  rw [List.mem_singleton.1 h]

/-- Polder 0's page 0 behind port 15. -/
def receiver (st : PortState) (mem : List Host.Cell := cells 0 1 []) (p : Port := {}) : State := { port15 st [] p with mem := mem }
/-- A flit of two bytes that lie in two lines. -/
def flit127 (mask : Nat) : Flit := { addr := 127, data := [1, 2], mask := mask, seq := 0, cmd := 9, last := false }
/-- The same page, whose leaf has AC. -/
def touched : List Host.Cell := (cells 0 1 []).map (fun e => if e.1 = 0x10006001 then (e.1, 1) else e)
theorem plain_at (va pa : Nat) (h : (va, pa) ∈ [(127, 0x1001007F), (128, 0x10010080), (65528, 0x1001FFF8)]) :
    Claims.plainAt (receiver .up touched) 0 va pa := by
  simp only [List.mem_cons, List.not_mem_nil, or_false, Prod.mk.injEq] at h
  rcases h with ⟨rfl, rfl⟩ | ⟨rfl, rfl⟩ | ⟨rfl, rfl⟩ <;>
    exact ⟨0x10006000, by decide, by decide, by decide, by decide, by decide, by decide, by decide, by decide, by decide, by decide, by decide,
      by decide, by decide⟩
theorem witness_FlitsPerform :
    let zip (f : Flit) := maskRuns f.addr f.mask ((List.range f.data.length).zip f.data)
    let s := receiver .up touched
    (s.linkOn 15 = true ∧ (s.port 15).st = .up ∧ (flit127 1).bad = false ∧ (flit127 1).seq = (s.port 15).rseq ∧ Claims.noneForwarded s 15) ∧
      (s.port 15).buf = [] ∧ s.fwdFor 0 127 = none ∧ Claims.nothingHeld s ∧ s.vers = [] ∧ 9 ∉ (s.port 15).dead ∧
      (zip (flit127 1) = [(0, [1])] ∧ zip (flit127 2) = [(1, [2])] ∧ zip (flit127 3) = [(0, [1]), (1, [2])]) ∧
      Claims.plainAt s 0 127 0x1001007F ∧ Claims.plainAt s 0 128 0x10010080 ∧ Claims.plainAt s 0 65528 0x1001FFF8 ∧
      (receiver .up []).leafAddr 0 127 = none ∧ (groupsOf 2 128 [1, 2] = [[1, 2]] ∧ groupsOf 4 128 [1, 2, 3, 4] = [[1, 2, 3, 4]]) ∧
      9 ∈ ((receiver .up [] { dead := [9] }).port 15).dead :=
  ⟨⟨by decide, rfl, rfl, rfl, noneForwarded_of _ (by decide)⟩, rfl, by decide, ⟨rfl, fun _ h => absurd h List.not_mem_nil⟩, rfl, by decide,
    by decide, plain_at _ _ (by decide), plain_at _ _ (by decide), plain_at _ _ (by decide), by decide, by decide, by decide⟩

/-- A port that is not UP, a flit that is not the next or whose CRC fails, a full buffer, one that holds a flit; an entry in HOLD
and one in FORWARD to port 14; a flit that port 14 has sent on and that is not acknowledged. -/
theorem witness_FlitsWaitOrAreRefused :
    let held (n : Nat) : Port := { buf := List.replicate n { kind := 1, seq := 0, addr := 0 } }
    let entry (st : BitVec 2) : Fwd := { old := 127, len := 1, st := st, port := 14 }
    let s (st : BitVec 2) : State :=
      { receiver .up with fwd := [(63, entry st)], ports := [(14, { st := .up }), (15, { st := .up })] }
    (({ islands := [(207, { pst := 0 })] } : State).linkOn 0 = false ∧ (receiver .up).linkOn 15 = true) ∧
      ((receiver .draining).port 15).st = .draining ∧ (((receiver .off).port 15).st ≠ .up ∧ ((receiver .off).port 15).st ≠ .draining) ∧
      ({ flit127 1 with bad := true } : Flit).bad = true ∧ (flit127 1).bad = false ∧ (flit127 1).seq = ((receiver .up).port 15).rseq ∧
      ({ flit127 1 with seq := 5 } : Flit).seq ≠ ((receiver .up).port 15).rseq ∧ 64 ≤ (held 64).buf.length ∧
      ((held 63).buf = { kind := 1, seq := 0, addr := 0 } :: List.replicate 62 { kind := 1, seq := 0, addr := 0 } ∧
        (List.replicate 62 ({ kind := 1, seq := 0, addr := 0 } : InFlit)).length < 63) ∧
      ((s 1).fwdFor 0 127 = some (63, entry 1) ∧ (s 2).fwdFor 0 127 = some (63, entry 2) ∧ (entry 1).st ≠ 2 ∧ (entry 2).port.toNat ≠ 15 ∧
        (s 2).linkOn 14 = true ∧ (s 2).crossOn 3 3 = true ∧ ((s 2).port 14).st = .up ∧ ((s 2).port 14).credit ≠ 0 ∧ Claims.noneForwarded (s 2) 15) ∧
      ¬ Claims.noneForwarded ({ ports := [(14, { out := [{ seq := 0, kind := 1, addr := 0, fwd := some { port := 15, seq := 0, cmd := 9, last := false } }] })] } : State) 15 := by
  refine ⟨by decide, by decide, by decide, by decide, by decide, by decide, by decide, by decide, ⟨rfl, by decide⟩,
    ⟨by decide, by decide, by decide, by decide, by decide, by decide, by decide, by decide, noneForwarded_of _ (by decide)⟩, fun h => ?_⟩
  exact h _ List.mem_cons_self _ List.mem_cons_self _ rfl rfl

theorem witness_RemapsSwitch :
    let e : Fwd := { old := 0x1000, len := 0x100, st := 2 }
    let s : State := { port15 .up with fwd := [(63, e)] }
    let hits (addr len : Nat) : Bool := decide (e.st ≠ 0) && decide (e.pol = (s.port 15).pol) && decide (e.old.toNat < addr + len)
      && decide (addr < e.old.toNat + e.len.toNat)
    (hits 0x10FF 1 = true ∧ hits 0x1100 1 = false ∧ hits 0xFFF 1 = false ∧ hits 0xFFF 2 = true) ∧ s.fwd = [(63, e)] ∧
      (s.linkOn 15 = true ∧ (s.port 15).st = .up ∧ (s.port 15).buf = [] ∧ (s.port 15).credit ≠ 0) ∧ fwdQuiet s 63 e = true ∧
      (∀ x ∈ (port15 .up).fwd, x.2.st = 0) ∧
      (∀ a ∈ e.acks ++ [(15, 0x10FF, 1)], (e.acks ++ [(15, 0x10FF, 1)]).length ≤ (s.port a.1).credit) ∧
      (let h : State := { s with ports := [(14, { out := [{ seq := 0, kind := 1, addr := 0x10, fwd := some { port := 15, seq := 0, cmd := 9, last := false } }], st := .up }), (15, { st := .up })] }
       fwdQuiet h 63 { e with port := 14 } = false) ∧
      (let t : State := { mem := [(0x10020007, 0x2F)], lrtbase := 0x10020000 }
       switching t 15 0 0 = some 0x10020000 ∧ switching t 15 0 1 = none) ∧
      (let t : State := { port15 .up with mem := [(0x10020027, 0x0F)], lrtbase := 0x10020000 }
       bitsOf (t.readLE (t.lrtbase.toNat + 32 * 1) 8) 59 56 = 15 ∧ t.inReset = false ∧ t.lrswWait = [] ∧ (t.port 15).st = .up ∧
       (t.port 15).credit ≠ 0 ∧ t.linkOn 15 = true) ∧
      -- flits of either kind: damaged, out of turn, refused by a port that drains, behind another
      (let f : Flit := { addr := 0x10FF, data := [], mask := 0, seq := 0, cmd := 9, last := true }
       let p : Port := { buf := [{ kind := 1, seq := 0, addr := 0 }] }
       f.bad = false ∧ f.seq = (s.port 15).rseq ∧ ({ f with bad := true } : Flit).bad = true ∧ ({ f with seq := 5 } : Flit).seq ≠ (s.port 15).rseq ∧
         ((port15 .draining).port 15).st = .draining ∧ ((port15 .draining).port 15).buf = [] ∧ ((port15 .off).port 15).st = .off ∧
         (port15 .off).linkOn 15 = true ∧ p.buf = { kind := 1, seq := 0, addr := 0 } :: [] ∧
         ({ islands := [(255, { pst := 0 })] } : State).linkOn 15 = false) ∧
      -- an entry that its range meets, twice in the table, both quiet
      (let t : State := { port15 .up with fwd := [(0, e), (63, e)] }
       Map.find t.fwd 63 = some e ∧ (∀ x ∈ t.fwd, x.2.acks = []) ∧ t.fwd.Pairwise (fun x y => x.1 ≠ y.1) ∧
         ∀ x ∈ t.fwd, fwdQuiet t x.1 x.2 = true) ∧
      (let t := port15 .up [] { credit := 0 }; (t.port 15).credit = 0) ∧ ((port15 .fault).port 15).st ≠ .up := by decide

/-- Page 0 lies behind tier-2 port 11: C is about to fetch there, and a command to copy from there. -/
def awaiting : State :=
  { cores := [(0, { a := { st := .running, bankSet := 1, seqL := { ib := [{ op := .sbind 0xFFFFFFFFF00000 16 3 }] } } })],
    cmds := [(1, cmdOf [1, 64, 0xFFFFFFFFF00000, 3, 0, 0, 0, 0])],
    mem := cells 0 1 [] |>.map (fun e => if e.1 = 0x10006002 then (e.1, 0) else if e.1 = 0x10006003 then (0x10006005, 1) else e),
    t2 := [(11, { base := 0x10000000000, sizeMiB := 1, up := true })] }
theorem witness_reads_that_await_a_lost_port :
    let s := awaiting
    let lies (v : Via) (va : Nat) : Bool := (s.translate v va .read).toOption.any (fun y =>
      !y.dem && decide (lineOf y.pa = 0x10000000000) && decide (s.t2PortOf (lineOf y.pa) = some 11))
    (16 ∈ ibReads (.sbind 0xFFFFFFFFF00000 16 3) ∧ inWindow 16 = false ∧ lies (s.viaIb 0 false .l) 16 = true) ∧
      ((s.act 0).st = .running ∧ (s.seq 0 .c).stopped = false ∧ s.fetchesMemory 0 .c = true ∧
        lies (s.viaIssue 0 (s.bank 0)) (s.seq 0 .c).pc.toNat = true) ∧
      (let c := ({ cmdOf [1, 64, 0xFFFFFFFFF00000, 3, 0, 0, 0, 0] with id := 1 } : Cmd)
       Map.find s.cmds 1 = some c ∧ c.started = true ∧
         (stepPlan s c).reads.any (fun r => (spanLines r).any (fun p => p.1 == 64)) = true ∧ lies (s.viaCmd c) 64 = true) := by decide

theorem witness_LostPortsPoisonTheirLines :
    let x : T2Port := { base := 0x10000000000, sizeMiB := 1, up := true }
    let s : State := { t2 := [(11, x)] }
    (Map.get {} s.t2 11 : T2Port).up = true ∧ s.t2PortOf 0x100000FFF80 = some 11 ∧ s.t2PortOf 0x10000100000 = none ∧
      (Map.get {} s.t2 10 : T2Port).up = false := by decide

/-- A load of L from a tier-2 page that port 11 serves, at the head of its issue buffer. -/
def loading : State :=
  { cores := [(0, { a := { st := .running, seqL := { ib := [{ op := .load .s8 5 0 }] } } })],
    mem := cells 0 1 [] |>.map (fun e => if e.1 = 0x10006002 then (e.1, 0) else if e.1 = 0x10006003 then (0x10006005, 1) else e),
    t2 := [(11, { base := 0x10000000000, sizeMiB := 1, up := true })] }
theorem witness_a_load_that_awaits_a_lost_port :
    loading.cores = [(0, loading.core 0)] ∧ loading.cmds = [] ∧ loading.accessOn 0 = true ∧ (loading.ctx 0 (loading.bank 0)).st = .running ∧
      (loading.ctx 0 (loading.bank 0)).headFaulted .l = false ∧
      ((loading.ctx 0 (loading.bank 0)).seq .l).ib = { op := .load .s8 5 0 } :: [] ∧ tyLd .s8 = true ∧
      (∀ u, u ≠ .l → ((loading.ctx 0 (loading.bank 0)).seq u).ib = []) ∧ inWindow 0 = false ∧
      loading.moving 0 0 0 ((loading.ctx 0 (loading.bank 0)).seq .l).ib = false ∧
      (∃ y, loading.translate (loading.viaIb 0 (loading.bank 0) .l) 0 .read = .ok y ∧
        loading.bump.translate (loading.viaIb 0 (loading.bank 0) .l) 0 .read = .ok y ∧ y.v = false ∧ y.dem = false ∧
        loading.doorbellOf y.pa = none ∧ loading.t2PortOf (lineOf y.pa) = some 11) ∧ (loading.core 0).sb = [] := by
  refine ⟨rfl, rfl, by decide, by decide, by decide, rfl, by decide, fun u h => ?_, by decide, by decide,
    ⟨_, rfl, rfl, by decide, by decide, by decide, by decide⟩, rfl⟩
  cases u <;> first | rfl | exact absurd rfl h

/-- The states of owner 14 under requests, with the first request. -/
def asking (r : LevReq) (st : OState) (prior : OState := .unassigned) : State :=
  { levQ := [r], owners := [(14, { st := st, polder := 4, prior := prior })] }
theorem witness_LeveeRequestsAreSettled :
    (∀ st : OState, ((asking (.assign 14 4) st).owner 14).st = st ∧ (asking (.revoke 14) st).levHeld = [] ∧ (asking (.revoke 14) st).pctlHeld = []) ∧
      (asking (.revoke 14) .free).levBusy = true ∧ ({} : State).levBusy = false ∧ (asking (.late 14) .free).levQ = .late 14 :: [] ∧
      (asking .malformed .free).levQ = .malformed :: [] ∧ (clsDram ≠ clsFab ∧ (7 ≠ clsDram ∧ 7 ≠ clsFab)) ∧
      (let u : State := State.nextSeq { State.bump (levee23 [twelve]) with levQ := [] }
       (∃ v, u.weigh { ovr := some (4, clsDram, 1) } = .ok v) ∧ (∃ a b c, u.weigh { ovr := some (4, clsDram, 0) } = .error (a, b, c))) ∧
      (let u : State := State.nextSeq { State.bump ({ levee23 [twelve] with mem := [(9, 0xFF), (512, 1), (520, 1), (1024, 1), (1028, 0x20), (1032, 1)] } : State) with levQ := [] }
       (∃ v, ({} : State).bump.nextSeq.weigh { on := some 0 } = .ok v) ∧ ∃ a b c, u.weigh { on := some 0 } = .error (a, b, c)) :=
  ⟨fun st => ⟨rfl, rfl, rfl⟩, by decide, by decide, rfl, rfl, by decide, ⟨⟨_, rfl⟩, ⟨_, _, _, rfl⟩⟩, ⟨⟨_, rfl⟩, ⟨_, _, _, rfl⟩⟩⟩

/-- A declaration of owner 14 by command 1, first in the queue: put in force, and refused; its record lies in the scratchpad. -/
def declCmd (killed : Bool) : Cmd := { cmdOf [15, 0, 0xFFFFFFFFF00000] with killed := killed }
def declaring (l : List (Nat × Nat × List PStep)) (path : List PStep) (killed : Bool := false) : State :=
  { levee23 l with levQ := [.declare 1 14 4 path 620], cmds := [(1, declCmd killed)],
                   cores := [(0, { a := { st := .running, bankSet := 1 } })] }
theorem witness_DeclarationsAreJudged :
    (∀ l path killed, (declaring l path killed).levQ = .declare 1 14 4 path 620 :: [] ∧ (declaring l path killed).levHeld = [] ∧
      (declaring l path killed).pctlHeld = [] ∧ Map.find (declaring l path killed).cmds 1 = some (declCmd killed)) ∧
      (declCmd true).killed = true ∧ ((declaring [] []).owner 14).st ≠ .evaluating ∧
      ((declaring [] []).owner 14).polder = 4 ∧ (((declaring [] []).owner 14).st = .free ∨ ((declaring [] []).owner 14).st = .admitted) ∧
      (let s : State := { owners := [(14, { st := .evaluating, polder := 4, prior := .admitted })] }
       (s.owner 14).st = .evaluating ∧ (s.owner 14).polder = 4) ∧
      (declaring [] []).findOid 0 = some (0, false) ∧ (declCmd false).w 2 + 288 ≤ 2 ^ 64 ∧
      (∀ p ∈ spanLines ((declCmd false).w 2, 288), inWindow p.1 = true ∧ bankFault 1 (p.1 % 2 ^ 20) p.2 = none) ∧
      (let s := declaring [] (path23 600 24000 100 0)
       (verdictOn (State.nextSeq { s.bump with levQ := [] }).setTdlk 14 4 (path23 600 24000 100 0) 620).reason = 0) ∧
      (let s := declaring [twelve, thirteen] (path23 50 42000 50 0)
       (verdictOn (State.nextSeq { s.bump with levQ := [] }).setTdlk 14 4 (path23 50 42000 50 0) 620).reason ≠ 0) :=
  ⟨fun _ _ _ => ⟨rfl, rfl, rfl, rfl⟩, rfl, by decide, by decide, by decide, by decide, by decide, by decide, by decide, by decide, by decide⟩

/-- ARBFLOOR of 1,400 A and of one more; TREL below TMIG by one and equal to it; the ring empty and not. -/
theorem witness_RegisterWritesTakeEffect :
    let field (v : BitVec 64) (k : Nat) : Nat := v.toNat / 2 ^ (16 * k) % 65536
    let v : BitVec 64 := 0x0001000200030572
    ({} : State).inReset = false ∧ field v 0 + field v 1 + field v 2 + field v 3 = 1400 ∧
      1400 < field (v + 1) 0 + field (v + 1) 1 + field (v + 1) 2 + field (v + 1) 3 ∧
      ((0x5E5F : BitVec 64).toNat / 256 % 256 < (0x5E5F : BitVec 64).toNat % 256 ∧ (0x5F5F : BitVec 64).toNat % 256 ≤ (0x5F5F : BitVec 64).toNat / 256 % 256) ∧
      (({} : State).nrProd = ({} : State).nrCons ∧ ({} : State).nrWritten = none) ∧ ({ nrProd := 1 } : State).nrProd ≠ ({ nrProd := 1 } : State).nrCons := by
  decide

/-- An image verifies or does not: the key and the verification are the device's. -/
theorem witness_PackageResetsTakeAnImage :
    let img : ConfigImage := { config := { file := [1], signature := [2] }, firmware := [{ file := [3], signature := [4] }] }
    let good (i : SignedImage) : Prop :=
      Config.verify Config.rootKey i.signature (Config.digest 64 i.file) = true ∧ Config.rollback ≤ Config.imageCounter i.file
    (good img.config ∧ ∀ f ∈ img.firmware, good f) ∨ ¬ (good img.config ∧ ∀ f ∈ img.firmware, good f) :=
  Classical.em _

theorem witness_HostWritesReachMemory :
    let s : State := {}
    s.inReset = false ∧ (s.qdbase = 0 ∧ s.poison = [] ∧ Claims.nothingHeld s) ∧
      (∀ a, 0x2FFFFFFFFF ≤ a → a < 0x2FFFFFFFFF + 1 → s.paOk a = true) ∧ s.paOk 0x3000000000 = false ∧
      (let t : State := { ptbase := 0x10000 }
       t.ptbase.toNat + 256 * 15 + 48 ≤ 0x10F30 ∧ 0x10F30 + 8 ≤ t.ptbase.toNat + 256 * 15 + 56 ∧ 0x10F30 + 8 ≤ t.ptbase.toNat + 4096) ∧
      ({ mem := [(3840, 1)] } : State).polderSt 15 ≠ 0 ∧ ({ islands := [(192, { pst := 2 })] } : State).paStopped 32 0 = true ∧
      (∀ f ∈ [0x10000], f % 65536 = 0 ∧ s.paOk f = true ∧ (inDram f = true ↔ false = false)) ∧
      ¬ ∀ f ∈ [1], f % 65536 = 0 := by
  refine ⟨rfl, ⟨rfl, rfl, rfl, fun _ h => absurd h List.not_mem_nil⟩, ?_, by decide, by decide, by decide, by decide, by decide, by decide⟩
  intro a h1 h2
  obtain rfl : a = 0x2FFFFFFFFF := by omega
  decide

/-- An entry of a section table. -/
def sectionEntry (ty off size link : Nat) : List Byte :=
  leBytes 4 0 ++ leBytes 2 ty ++ leBytes 2 0 ++ leBytes 8 off ++ leBytes 8 size ++ leBytes 8 0 ++ leBytes 4 link ++ leBytes 12 0
/-- A linked image: one byte of section 1 at 320, and relocations of it that are these bytes. -/
def linked (rel : List Byte) : List Byte :=
  leBytes 4 0x00464F4E ++ leBytes 2 1 ++ leBytes 2 2 ++ leBytes 4 0 ++ leBytes 4 6 ++ leBytes 8 32 ++ leBytes 8 0
  ++ sectionEntry 0 0 0 0 ++ sectionEntry 1 320 1 0 ++ sectionEntry 5 328 0 0 ++ sectionEntry 6 328 0 0 ++ sectionEntry 11 328 0 0
  ++ sectionEntry 7 328 rel.length 1 ++ [7, 0, 0, 0, 0, 0, 0, 0] ++ rel
/-- Section 1 at address 64. -/
def imageOf (rel : List Byte) : ImageFile := { file := linked rel, maps := [(1, 64)] }
theorem witness_ImagesAreVerifiedAndPlaced :
    let s : State := { mem := cells 0 1 [] }
    s.inReset = false ∧ (s.ptField 0 1 1).testBit 0 = false ∧ (({ mem := [(3841, 1)] } : State).ptField 15 1 1).testBit 0 = true ∧
      wellFormed [] = false ∧ wellFormed (imageOf []).file = true ∧ sigOf (imageOf []).file = none ∧
      Sys2Proof.Machine.loaded (imageOf []) (imageOf []).maps = some [(64, [7])] ∧ objectsOf (imageOf []) = [] ∧
      s.feAddr 0 64 = some 0x10010040 ∧ s.qdbase = 0 ∧ s.poison = [] ∧
      wellFormed (imageOf (leBytes 32 0)).file = true ∧ sigOf (imageOf (leBytes 32 0)).file = none ∧
      (Sys2Proof.Machine.loaded { imageOf (leBytes 32 (2 ^ 127)) with maps := [(1, 64)] } [(1, 64)]).isNone = true := by
  refine ⟨rfl, by decide, by decide, by decide, by decide +kernel, by decide +kernel, by decide +kernel, by decide +kernel, by decide, rfl, rfl,
    by decide +kernel, by decide +kernel, by decide +kernel⟩

/-- Words at the ends of the ranges that are refused: a short one, OPs of the three classes, CND, FN, MAJOR, a TY, a reserved bit.
-/
theorem witness_ReservedWordsAreRefused :
    (([2, 0, 0, 0] : List Byte).length < wordLen (leOf [2])) ∧ (0x68 % 4 = 0 ∧ 0x1A ≤ 0x68 / 4 % 64 ∧ 0 / 4 % 64 = 0) ∧
      (0x000D0034 % 256 = 0x34 ∧ 13 ≤ 0x000D0034 / 2 ^ 16 % 16) ∧ (0x01500004 % 256 = 0x04 ∧ 21 ≤ 0x01500004 / 2 ^ 20 % 64) ∧
      (0x80000058 % 256 = 0x58 ∧ 8 ≤ 0x80000058 / 2 ^ 28) ∧ (0x158 % 256 = 0x58 ∧ 0x158 / 2 ^ 28 = 0 ∧ 0x158 ≠ 0x58) ∧
      (0xFE % 4 = 2 ∧ 0xFE / 4 % 64 = 0x3F ∧ 0xD2 / 4 % 64 = 0x34) ∧ (0xF92 % 4 = 2 ∧ 0xF92 / 4 % 64 ≤ 0x24 ∧ 0xF92 / 256 % 16 = 15) ∧
      (0x2F % 4 = 3 ∧ 0x0B ≤ 0x2F / 4 % 32) ∧ (2 ^ 151 + 0x2B < 2 ^ 192 ∧ (2 ^ 151 + 0x2B) % 4 = 3 ∧ (2 ^ 151 + 0x2B) / 4 % 32 ≤ 0x0A) ∧
      (0x0200000B % 128 = 0x0B ∧ 0x0200000B / 2 ^ 25 ≠ 0) ∧ (0x400B / 2 ^ 12 % 8 = 4) ∧ 0x13 % 128 ≠ 0x0B := by decide

theorem witness_EncodingsRoundTrip :
    (∃ w, encode (.addi 4 4 (-1)) = some w) ∧ (Instr.addi 4 4 (-1)).wf = true ∧ Claims.ofFep (.addi 4 4 (-1)) = false ∧
      (∃ w, encode (.bfx 10 11 12) = some w) ∧ Claims.ofFep (.bfx 10 11 12) = true ∧
      (∃ i rest, decode (wordBytes 0xFFFF4408 ++ [9]) = .ok (i, rest)) ∧ ∃ i, decodeFep 0x00C5950B = some i :=
  ⟨⟨_, rfl⟩, by decide, rfl, ⟨_, rfl⟩, rfl, ⟨_, _, rfl⟩, ⟨_, rfl⟩⟩

/-- The state after reset meets the invariant, and a step from it with a turn on the agenda goes on. -/
theorem witness_StepsKeepTheInvariant :
    ({ State.reset with agenda := [.tick] } : State).Inv ∧ ∃ t, step { State.reset with agenda := [.tick] } = .next t := by
  refine ⟨?_, ⟨_, rfl⟩⟩
  show Memory.wf _
  decide

/-- After reset with a word placed: addi, a word that does not decode, one whose memory type is illegal, and one of a front-end
processor; a page without a table; other turns. -/
def first (nbits w : Nat) : State := State.reset.withFetchWord nbits w
theorem witness_AStepRunsTheDecodedInstruction :
    (first 32 0x00010908).agenda = [.seq 0 .c] ∧ (first 32 0x00010908).canIssue 0 .c = true ∧
      (let u : State := { first 32 0x00010908 with agenda := [], cur := (0, .c) }
       u.lineUp u.myCtx = false ∧ u.me.inLoop = false ∧ misplaced u.me (.addi 9 0 1) = false ∧
       ∃ b, u.fetch 0 .c = .ok b ∧ b ≠ [] ∧ ∃ i tail, decode b = .ok (i, tail) ∧ i.wf = true) ∧
      (let u : State := { first 32 0x68 with agenda := [], cur := (0, .c) }; ∃ b, u.fetch 0 .c = .ok b ∧ b ≠ [] ∧ ∃ e, decode b = .error e) ∧
      (let u : State := { first 32 0xC0000058 with agenda := [], cur := (0, .c), mem := [] }; ∃ e, u.fetch 0 .c = .error e) ∧
      ((encode (.ld .s4 1 2 0 0)).map (fun w => ((decode (wordBytes w)).toOption.map (fun e => e.1.wf)))) = some (some false) ∧
      (first 32 0x00C5950B).agenda = [.fep 0] ∧ (∃ i, decodeFep (fepWord ((first 32 0x00C5950B).fep 0)) = some i) ∧
      decodeFep 0xFE00000B = none ∧ decodeFep 0x13 = none ∧ encode (.idleFlit 0) = none ∧ (first 32 0x00010908).nrWritten = none ∧
      (let u : State := { first 32 0x00010908 with agenda := [], cur := (0, .c) }
       u.myCtx.started = false ∧ u.fetchHeld 0 .c 4 = false ∧ u.me.lost = false ∧
         ({ u with moves := [(9, { polder := 0, va := 0, toT2 := true })] } : State).fetchHeld 0 .c 4 = true ∧
         (u.updMe (fun q => { q with lost := true })).me.lost = true) ∧
      ({ islands := [(206, { pst := 2 })] } : State).islandOn (frontIsland 0) = false ∧ (first 32 0x00C5950B).islandOn (frontIsland 0) = true ∧
      (decodeFep 0x7C059573 = none ∧ 0x7C059573 % 128 = 0x73 ∧ 0x7C059573 / 2 ^ 20 % 4096 = 0x7C0 ∧ 0x7C059573 / 4096 % 8 = 1) ∧
      ({} : State).eventHeld (.idleFlit 0) = false ∧ ({ inReset := true } : State).eventHeld (.groupPlace 0 0) = true :=
  ⟨by decide, by decide, ⟨by decide, by decide, by decide, ⟨_, rfl, by decide, ⟨_, _, rfl, by decide⟩⟩⟩, ⟨_, rfl, by decide, ⟨_, rfl⟩⟩, ⟨_, rfl⟩,
    by decide, by decide, ⟨_, rfl⟩, by decide, by decide, by decide, rfl, by decide, by decide, by decide, by decide, by decide, by decide⟩

/-- R56, R101: the word placed runs in the very next step after reset. -/
theorem test_first_word :
    (match step (first 32 0x00010908) with
      | .next t => (((t.core 0).a.seqC.get 9).toNat, (t.core 0).a.seqC.pc.toNat)
      | _ => (0, 0)) = (1, 4) := by decide

end Sys2Proof.Tests
end

section
/-! PROOFS. Further laws of sparse maps: a key written twice, a key removed, and what a read can be. -/

namespace Sys2Proof.Map

/-- The later of two writes of a key is the one that stands. -/
@[simp] theorem put_put {α : Type} (m : Map α) (k : Nat) (v w : α) : put (put m k v) k w = put m k w := by
  induction m with
  | nil => simp only [put, if_true]
  | cons e t ih =>
    by_cases h1 : e.1 = k
    · simp only [put, h1, if_true]
    · by_cases h2 : k < e.1
      · simp only [put, h1, h2, if_true, if_false]
      · simp only [put, h1, h2, if_false, ih]

/-- What is read is listed, or it is the default. -/
theorem get_cases {α : Type} (d : α) (m : Map α) (k : Nat) : get d m k = d ∨ (k, get d m k) ∈ m := by
  induction m with
  | nil => exact .inl rfl
  | cons e t ih =>
    simp only [get]
    split
    · next h => subst h; exact .inr (List.mem_cons_self ..)
    · exact ih.imp id (List.mem_cons_of_mem _)

/-- A key removed is not found. -/
@[simp] theorem find_del_self {α : Type} (m : Map α) (k : Nat) : find (del m k) k = none := by
  induction m with
  | nil => rfl
  | cons e t ih =>
    by_cases he : e.1 = k
    · have hdrop : del (e :: t) k = del t k := List.filter_cons_of_neg (by simp [he])
      rw [hdrop, ih]
    · have hkeep : del (e :: t) k = e :: del t k := List.filter_cons_of_pos (by simp [he])
      rw [hkeep, find, if_neg he, ih]

@[simp] theorem find_del_ne {α : Type} (m : Map α) {k j : Nat} (h : j ≠ k) : find (del m k) j = find m j := by
  induction m with
  | nil => rfl
  | cons e t ih =>
    by_cases he : e.1 = k
    · have hdrop : del (e :: t) k = del t k := List.filter_cons_of_neg (by simp [he])
      rw [hdrop, ih, find, if_neg (show ¬ e.1 = j by omega)]
    · have hkeep : del (e :: t) k = e :: del t k := List.filter_cons_of_pos (by simp [he])
      rw [hkeep, find, find, ih]

end Sys2Proof.Map
end

section
/-! PROOFS. What the host's register writes do (R7, R8). -/

namespace Sys2Proof.Machine

/-! Reads after updates of a terp, a port and a processor. -/

@[simp] theorem terp_updTerp_self (s : State) (t : Nat) (f : Terp → Terp) : (s.updTerp t f).terp t = f (s.terp t) := by
  simp [State.terp, State.updTerp]
@[simp] theorem terp_updTerp_ne (s : State) {t j : Nat} (f : Terp → Terp) (h : j ≠ t) : (s.updTerp t f).terp j = s.terp j := by
  simp [State.terp, State.updTerp, h]
@[simp] theorem port_updPort_self (s : State) (d : Nat) (f : Port → Port) : (s.updPort d f).port d = f (s.port d) := by
  simp [State.port, State.updPort]
@[simp] theorem fep_updFep_self (s : State) (n : Nat) (f : Fep → Fep) : (s.updFep n f).fep n = f (s.fep n) := by
  simp [State.fep, State.updFep]
@[simp] theorem fep_updFep_ne (s : State) {n j : Nat} (f : Fep → Fep) (h : j ≠ n) : (s.updFep n f).fep j = s.fep j := by
  simp [State.fep, State.updFep, h]

/-- Two updates of a port are one. -/
theorem updPort_updPort (s : State) (d : Nat) (f g : Port → Port) :
    (s.updPort d f).updPort d g = s.updPort d (fun p => g (f p)) := by
  simp [State.updPort, State.port]

/-- An update that keeps the port's value is unseen by the next one. -/
theorem updPort_after_same (s : State) (d : Nat) {f : Port → Port} (g : Port → Port) (h : f (s.port d) = s.port d) :
    (s.updPort d f).updPort d g = s.updPort d g := by
  rw [updPort_updPort]; simp [State.updPort, h]

/-! The registers, one equation each. -/

/-- REGISTER_WRITE out of reset. -/
theorem exec_registerWrite_live {s : State} {t : Nat} (off : Nat) (v : BitVec 64) (ht : t < 4) (hr : s.inReset = false) :
    exec (.registerWrite t off v) s = .next (s.writeReg t off v.toNat) := by
  simp [exec_registerWrite, execRegisterWrite, ht, hr]

/-- The offsets of terp 0's block alone. -/
theorem writeReg_zero {s : State} {off v : Nat} (h : off ∈ [0x0060, 0x0068, 0x0070, 0x0080, 0x0088, 0x0090, 0x00A0, 0x00A8]) :
    s.writeReg 0 off v = s.writeReg0 off v := by
  simp only [List.mem_cons, List.not_mem_nil, or_false] at h
  obtain rfl | rfl | rfl | rfl | rfl | rfl | rfl | rfl := h <;> rfl

theorem writeReg_dlk (s : State) (t v : Nat) {i : Nat} (hi : i < 4) : s.writeReg t (0x0100 + 8 * i) v = s.writeDlk (4 * t + i) v := by
  obtain rfl | rfl | rfl | rfl : i = 0 ∨ i = 1 ∨ i = 2 ∨ i = 3 := by omega
  all_goals rfl

theorem writeReg_paceM (s : State) (t v : Nat) {i : Nat} (hi : i < 8) : s.writeReg t (0x0600 + 16 * i) v =
    s.updCluster (8 * t + i) (fun c => { c with paceM := { c.paceM with host := .ofNat 16 (bitsOf v 15 0) } }) := by
  obtain rfl | rfl | rfl | rfl | rfl | rfl | rfl | rfl :
      i = 0 ∨ i = 1 ∨ i = 2 ∨ i = 3 ∨ i = 4 ∨ i = 5 ∨ i = 6 ∨ i = 7 := by omega
  all_goals rfl

theorem writeReg_paceC (s : State) (t v : Nat) {i : Nat} (hi : i < 8) : s.writeReg t (0x0608 + 16 * i) v =
    s.updCluster (8 * t + i) (fun c => { c with paceC := { c.paceC with host := .ofNat 16 (bitsOf v 15 0) } }) := by
  obtain rfl | rfl | rfl | rfl | rfl | rfl | rfl | rfl :
      i = 0 ∨ i = 1 ∨ i = 2 ∨ i = 3 ∨ i = 4 ∨ i = 5 ∨ i = 6 ∨ i = 7 := by omega
  all_goals rfl

/-- A register of as many bits as a field takes no notice of what lies above the field. -/
theorem ofNat_mod_two_pow (w n : Nat) : BitVec.ofNat w (n % 2 ^ w) = BitVec.ofNat w n :=
  BitVec.eq_of_toNat_eq (by simp)

/-! LEVREQ and PCTL (R345, R348). -/

theorem levReqOf_revoke {n : Nat} (h : n / 2 ^ 54 % 4 = 0) : levReqOf n = .revoke (n / 2 ^ 32 % 1024) := by
  have h : bitsOf n 55 54 = 0 := h
  rw [levReqOf, h]; rfl
theorem levReqOf_assign {n : Nat} (h : n / 2 ^ 54 % 4 = 1) :
    levReqOf n = .assign (n / 2 ^ 32 % 1024) (n / 2 ^ 48 % 16) := by
  have h : bitsOf n 55 54 = 1 := h
  rw [levReqOf, h]; rfl
theorem levReqOf_weight {n : Nat} (h : n / 2 ^ 54 % 4 = 2) :
    levReqOf n = if sharedCls (n / 2 ^ 45 % 8) then .weight (n / 2 ^ 48 % 16) (n / 2 ^ 45 % 8) (n / 65536 % 65536)
      else .malformed := by
  have h : bitsOf n 55 54 = 2 := h
  rw [levReqOf, h]; rfl
theorem levReqOf_malformed {n : Nat} (h : n / 2 ^ 54 % 4 = 3) : levReqOf n = .malformed := by
  have h : bitsOf n 55 54 = 3 := h
  rw [levReqOf, h]; rfl

/-- The kinds of LEVREQ but the malformed one are the host's requests of the levee engine. -/
theorem hostRequest_asks (s : State) (n : Nat) :
    (n / 2 ^ 54 % 4 = 0 → .next (s.hostRequest (levReqOf n)) = exec (.revoke (n / 2 ^ 32 % 1024)) s) ∧
    (n / 2 ^ 54 % 4 = 1 → .next (s.hostRequest (levReqOf n)) = exec (.assign (n / 2 ^ 32 % 1024) (n / 2 ^ 48 % 16)) s) ∧
    (n / 2 ^ 54 % 4 = 2 → .next (s.hostRequest (levReqOf n)) =
      exec (.weight (n / 2 ^ 48 % 16) (n / 2 ^ 45 % 8) (n / 65536 % 65536)) s) := by
  have hown : n / 2 ^ 32 % 1024 < 1024 := Nat.mod_lt _ (by omega)
  have hpol : n / 2 ^ 48 % 16 < 16 := Nat.mod_lt _ (by omega)
  have hcls : n / 2 ^ 45 % 8 < 8 := Nat.mod_lt _ (by omega)
  have hwgt : n / 65536 % 65536 < 65536 := Nat.mod_lt _ (by omega)
  refine ⟨fun h => ?_, fun h => ?_, fun h => ?_⟩
  · rw [levReqOf_revoke h, exec_revoke, execRevoke, if_pos hown]
  · rw [levReqOf_assign h, exec_assign, execAssign, if_pos ⟨hown, hpol⟩]
  · rw [levReqOf_weight h, exec_weight, execWeight]
    simp only [hpol, hcls, hwgt, and_self, if_true]

/-- A request that is malformed is queued like another. -/
theorem hostRequest_malformed {s : State} (hr : s.inReset = false) (hb : s.levBusy = false) :
    s.hostRequest .malformed = { s with levQ := s.levQ ++ [.malformed] } := by
  simp [State.hostRequest, hr, hb, State.reaches]

/-- A write of PCTL with an OP that names no transition sets ERR alone. -/
theorem pctlWrite_noOp {s : State} {op p : Nat} (hop : 5 ≤ op) (h : Claims.pctlFree s p) :
    s.pctlWrite op p = { s with pctlErr := true } := by
  obtain ⟨hp, hr, hh, hb, hs⟩ := h
  obtain ⟨k, rfl⟩ := Nat.exists_eq_add_of_le' hop
  have hnow : s.pctlNow (k + 5) p = { s with pctlErr := true } := rfl
  simp [State.pctlWrite, hr, hh, pctlOn, State.pctlIsBusy, hb, hs, hnow, Nat.not_le.2 hp]

/-! DLK (R325, R326). -/

/-- Outside OFF the field POL of a written DLK is not taken, and EN and TRAIN written 1 are the event of training. -/
theorem writeDlk_train {s : State} {d v : Nat} (h : (s.port d).st ≠ .off) (h0 : v.testBit 0 = true) (h1 : v.testBit 1 = true) :
    s.writeDlk d v = (s.updPort d (fun p => { p with en := true })).trainPort d := by
  simp only [State.writeDlk, h0, h1, if_true]
  exact congrArg (State.trainPort · d) (updPort_after_same _ _ _ (if_neg h))

/-- Outside OFF a DLK written with both clear disables the port. -/
theorem writeDlk_disable {s : State} {d v : Nat} (h : (s.port d).st ≠ .off) (h0 : v.testBit 0 = false) (h1 : v.testBit 1 = false) :
    s.writeDlk d v = s.disablePort d := by
  simp only [State.writeDlk, h0, h1, Bool.false_eq_true, if_false]
  exact updPort_after_same _ _ _ (if_neg h)

/-- In OFF the write takes POL and EN, and a port enters training where EN and TRAIN are both written 1. -/
theorem port_writeDlk_off {s : State} {d v : Nat} (h : (s.port d).st = .off) :
    ((s.writeDlk d v).port d).pol = .ofNat 4 (bitsOf v 19 16) ∧ ((s.writeDlk d v).port d).en = v.testBit 0 ∧
      (((s.writeDlk d v).port d).st = .training ↔ v.testBit 0 = true ∧ v.testBit 1 = true) := by
  cases h0 : v.testBit 0 <;> cases h1 : v.testBit 1 <;>
    simp [State.writeDlk, State.trainPort, State.disablePort, h0, h1, h]

/-! THERM (R357). -/

/-- The thermal logic judges one core. -/
theorem core_heat_ne (s : State) {k j : Nat} (h : j ≠ k) : (s.heat k).core j = s.core j := core_updCore_ne _ _ h
theorem core_heat_self (s : State) (k : Nat) : (s.heat k).core k =
    if (s.terp (terpOf k)).tmig.toNat ≤ s.reading k then { s.core k with migReq := true }
    else if s.reading k < (s.terp (terpOf k)).trel.toNat then { s.core k with migReq := false, excluded := false }
    else s.core k := core_updCore_self ..

/-- What a core is judged to be does not depend on which cores were judged before it. -/
theorem core_heat_heat (s : State) {k j : Nat} (h : j ≠ k) : ((s.heat k).heat j).core j = (s.heat j).core j := by
  rw [core_heat_self, core_heat_self, core_heat_ne s h]; rfl

/-- Cores judged one after another, each once. -/
theorem heatAll (l : List Nat) (s : State) (hl : l.Nodup) :
    l.foldl State.heat s = { s with cores := (l.foldl State.heat s).cores } ∧
    ∀ k, (l.foldl State.heat s).core k = if k ∈ l then (s.heat k).core k else s.core k := by
  induction l generalizing s with
  | nil => exact ⟨rfl, fun _ => rfl⟩
  | cons a t ih =>
    obtain ⟨ha, ht⟩ := List.nodup_cons.1 hl
    obtain ⟨hrest, hcore⟩ := ih (s.heat a) ht
    refine ⟨hrest, fun k => ?_⟩
    rw [List.foldl_cons, hcore k]
    by_cases hk : k = a
    · subst hk; simp [ha]
    · simp [hk, core_heat_heat s hk, core_heat_ne s hk]

/-- The cores of a terp. -/
theorem mem_coresOf (t k : Nat) : k ∈ (List.range 32).map (32 * t + ·) ↔ k / 32 = t := by
  simp only [List.mem_map, List.mem_range]
  exact ⟨fun ⟨j, hj, he⟩ => by omega, fun h => ⟨k % 32, by omega, by omega⟩⟩
theorem nodup_coresOf (t : Nat) : ((List.range 32).map (32 * t + ·)).Nodup :=
  List.Pairwise.map _ (fun _ _ h => by omega) List.nodup_range

/-- The levels of a terp as a write of THERM sets them, before its cores are judged. -/
def State.withLevels (s : State) (t n : Nat) : State :=
  (s.updTerp t (fun x => { x with tmig := .ofNat 8 n, trel := .ofNat 8 (n / 256) })).bump

/-- A write of THERM sets the two levels of its terp and judges the terp's cores by them. -/
theorem writeTherm_eq {s : State} {t n : Nat} (h : n / 256 % 256 < n % 256) :
    s.writeTherm t n = ((List.range 32).map (32 * t + ·)).foldl State.heat (s.withLevels t n) := by
  have hn : ¬ bitsOf n 7 0 ≤ bitsOf n 15 8 := by simp only [bitsOf]; omega
  have hmig : BitVec.ofNat 8 (bitsOf n 7 0) = .ofNat 8 n := by simpa [bitsOf] using ofNat_mod_two_pow 8 n
  have hrel : BitVec.ofNat 8 (bitsOf n 15 8) = .ofNat 8 (n / 256) := ofNat_mod_two_pow 8 (n / 256)
  rw [State.writeTherm, if_neg hn, hmig, hrel, List.foldl_map]
  rfl

/-- A THERM whose TREL is not below TMIG is not taken. -/
theorem writeTherm_ignored {s : State} {t n : Nat} (h : n % 256 ≤ n / 256 % 256) : s.writeTherm t n = s := by
  rw [State.writeTherm, if_pos (by simp only [bitsOf]; omega)]

theorem terp_withLevels_self (s : State) (t n : Nat) :
    (s.withLevels t n).terp t = { s.terp t with tmig := .ofNat 8 n, trel := .ofNat 8 (n / 256) } :=
  terp_updTerp_self s t (fun x => { x with tmig := .ofNat 8 n, trel := .ofNat 8 (n / 256) })
theorem terp_withLevels_ne (s : State) {t j : Nat} (n : Nat) (h : j ≠ t) : (s.withLevels t n).terp j = s.terp j :=
  terp_updTerp_ne s (fun x => { x with tmig := .ofNat 8 n, trel := .ofNat 8 (n / 256) }) h

/-- The reading by which a core is judged at a write of THERM is its override's where that is in force (R366). -/
theorem reading_withLevels {s : State} {t k : Nat} (n : Nat) (hk : terpOf k = t) (h : s.overridden k = true) :
    (s.withLevels t n).reading k = (s.terp t).ovTemp.toNat := by
  have ho : (s.withLevels t n).overridden k = true := by
    rw [State.overridden, hk] at h ⊢
    rw [terp_withLevels_self]; exact h
  rw [State.reading, if_pos ho, hk, terp_withLevels_self]

/-- A core of the terp as the new levels judge it. -/
theorem core_heat_withLevels (s : State) {t k : Nat} (n : Nat) (hk : terpOf k = t) :
    ((s.withLevels t n).heat k).core k =
      if n % 256 ≤ (s.withLevels t n).reading k then { s.core k with migReq := true }
      else if (s.withLevels t n).reading k < n / 256 % 256 then { s.core k with migReq := false, excluded := false }
      else s.core k := by
  rw [core_heat_self, hk, terp_withLevels_self]
  simp only [BitVec.toNat_ofNat]
  rfl

/-- What a write of THERM that is taken leaves: the levels, the judged cores of the terp, and all else. -/
theorem writeTherm_takes {s : State} {t n : Nat} (h : n / 256 % 256 < n % 256) :
    (s.writeTherm t n).mem = s.mem ∧ (∀ j, (s.writeTherm t n).terp j = (s.withLevels t n).terp j) ∧
      ∀ k, (s.writeTherm t n).core k = if k / 32 = t then ((s.withLevels t n).heat k).core k else s.core k := by
  obtain ⟨hrest, hcore⟩ := heatAll _ (s.withLevels t n) (nodup_coresOf t)
  rw [← writeTherm_eq h] at hrest hcore
  refine ⟨by rw [hrest]; rfl, fun j => by rw [hrest]; rfl, fun k => ?_⟩
  rw [hcore]
  simp only [mem_coresOf]
  rfl

end Sys2Proof.Machine

namespace Sys2Proof.Proofs

open Sys2Proof.Machine

/-- R357: THERM. -/
theorem registerWrite_therm {s : State} {t : Nat} {v : BitVec 64} (ht : t < 4) (hr : s.inReset = false)
    (h : v.toNat / 256 % 256 < v.toNat % 256) :
    Claims.happens s (.registerWrite t 0x0098 v) (fun u => Claims.sameMemory s u ∧
      u.terp t = { s.terp t with tmig := .ofNat 8 v.toNat, trel := .ofNat 8 (v.toNat / 256) } ∧ (∀ j, j ≠ t → u.terp j = s.terp j) ∧
      ∀ k, let co := s.core k
        (k / 32 ≠ t → u.core k = co) ∧
        (k / 32 = t → ∃ r, (s.overridden k = true → r = (s.terp t).ovTemp.toNat) ∧
          (v.toNat % 256 ≤ r → u.core k = { co with migReq := true }) ∧
          (r < v.toNat / 256 % 256 → u.core k = { co with migReq := false, excluded := false }) ∧
          (v.toNat / 256 % 256 ≤ r → r < v.toNat % 256 → u.core k = co))) := by
  obtain ⟨hmem, hterp, hcore⟩ := writeTherm_takes (s := s) (t := t) h
  refine ⟨s.writeTherm t v.toNat, exec_registerWrite_live 0x0098 v ht hr, fun a => by rw [State.readByte, hmem]; rfl,
    (hterp t).trans (terp_withLevels_self ..), fun j hj => (hterp j).trans (terp_withLevels_ne s _ hj), fun k => ⟨fun hk => ?_, fun hk => ?_⟩⟩
  · rw [hcore, if_neg hk]
  · rw [hcore, if_pos hk, core_heat_withLevels s _ hk]
    refine ⟨(s.withLevels t v.toNat).reading k, reading_withLevels _ hk, fun hm => if_pos hm, fun hl => ?_, fun hl hm => ?_⟩
    · rw [if_neg (by omega), if_pos hl]
    · rw [if_neg (by omega), if_neg (by omega)]

/-- R325, R326: DLK. -/
theorem registerWrite_dlk {s : State} {t i : Nat} (v : BitVec 64) (ht : t < 4) (hi : i < 4) (hr : s.inReset = false) :
    ((s.port (4 * t + i)).st ≠ .off → v.toNat % 4 = 3 →
      exec (.registerWrite t (0x0100 + 8 * i) v) s = exec (.dlkTrain (4 * t + i)) s) ∧
    ((s.port (4 * t + i)).st ≠ .off → v.toNat % 4 = 0 →
      exec (.registerWrite t (0x0100 + 8 * i) v) s = exec (.dlkDisable (4 * t + i)) s) ∧
    ((s.port (4 * t + i)).st = .off → Claims.happens s (.registerWrite t (0x0100 + 8 * i) v) (fun u =>
      (u.port (4 * t + i)).pol = .ofNat 4 (v.toNat / 65536) ∧ (u.port (4 * t + i)).en = decide (v.toNat % 2 = 1) ∧
      ((u.port (4 * t + i)).st = .training ↔ v.toNat % 4 = 3))) := by
  have hd : 4 * t + i < 16 := by omega
  have b0 : v.toNat.testBit 0 = decide (v.toNat % 2 = 1) := Nat.testBit_zero ..
  have b1 : v.toNat.testBit 1 = decide (v.toNat / 2 % 2 = 1) := by rw [Nat.testBit_succ, Nat.testBit_zero]
  rw [exec_registerWrite_live _ v ht hr, writeReg_dlk s t _ hi, exec_dlkTrain, execDlkTrain, exec_dlkDisable, execDlkDisable]
  refine ⟨fun hs h => ?_, fun hs h => ?_, fun hs => ⟨_, (exec_registerWrite_live _ v ht hr).trans (by rw [writeReg_dlk s t _ hi]), ?_⟩⟩
  · rw [writeDlk_train hs (by rw [b0, decide_eq_true_eq]; omega) (by rw [b1, decide_eq_true_eq]; omega)]
    simp [hd, hr]
  · rw [writeDlk_disable hs (by rw [b0, decide_eq_false_iff_not]; omega) (by rw [b1, decide_eq_false_iff_not]; omega)]
    simp [hd, hr]
  · obtain ⟨hpol, hen, hst⟩ := port_writeDlk_off (v := v.toNat) hs
    refine ⟨hpol.trans (ofNat_mod_two_pow 4 (v.toNat / 65536)), hen.trans b0, hst.trans ?_⟩
    rw [b0, b1, decide_eq_true_eq, decide_eq_true_eq]
    omega

/-- R345: LEVREQ. -/
theorem registerWrite_levreq {s : State} (v : BitVec 64) (hr : s.inReset = false) :
    exec (.registerWrite 0 0x0070 v) s = .next (s.hostRequest (levReqOf v.toNat)) := by
  rw [exec_registerWrite_live _ v (by omega) hr, writeReg_zero (by decide)]; rfl

/-- R348: PCTL. -/
theorem registerWrite_pctl {s : State} (v : BitVec 64) (hr : s.inReset = false) :
    exec (.registerWrite 0 0x0088 v) s = .next (s.pctlWrite (v.toNat / 16 % 8) (v.toNat % 16)) := by
  have hop : bitsOf v.toNat 6 4 = v.toNat / 16 % 8 := rfl
  have hpol : bitsOf v.toNat 3 0 = v.toNat % 16 := by simp [bitsOf]
  rw [exec_registerWrite_live _ v (by omega) hr, writeReg_zero (by decide), ← hop, ← hpol]; rfl

/-- R352: ARBFLOOR. -/
theorem registerWrite_arbfloor {s : State} (v : BitVec 64) (hr : s.inReset = false) :
    exec (.registerWrite 0 0x0090 v) s = .next
      (if v.toNat / 2 ^ (16 * 0) % 65536 + v.toNat / 2 ^ (16 * 1) % 65536 + v.toNat / 2 ^ (16 * 2) % 65536
          + v.toNat / 2 ^ (16 * 3) % 65536 ≤ 1400 then { s with arbfloor := v } else s) := by
  have hv : BitVec.ofNat 64 v.toNat = v := by simp
  rw [exec_registerWrite_live _ v (by omega) hr, writeReg_zero (by decide)]
  show Host.Outcome.next (ite _ { s with arbfloor := BitVec.ofNat 64 v.toNat } s) = _
  rw [hv]; rfl

/-- R362: CONS. -/
theorem registerWrite_ncons {s : State} (v : BitVec 64) (hr : s.inReset = false) :
    exec (.registerWrite 0 0x00A8 v) s = .next { s with nrCons := .ofNat 32 (v.toNat / 2 ^ 32) } := by
  rw [exec_registerWrite_live _ v (by omega) hr, writeReg_zero (by decide), ← ofNat_mod_two_pow]; rfl

/-- R362: NRING. -/
theorem registerWrite_nring {s : State} (v : BitVec 64) (hr : s.inReset = false) :
    exec (.registerWrite 0 0x00A0 v) s = .next
      (if s.nrProd ≠ s.nrCons then s else { s with
        nringBase := .ofNat 52 (v.toNat / 4096)
        nringLog2 := if 4 ≤ v.toNat % 16 ∧ v.toNat % 16 ≤ 12 then .ofNat 4 (v.toNat % 16) else 4 }) := by
  have hlog : bitsOf v.toNat 3 0 = v.toNat % 16 := by simp [bitsOf]
  rw [exec_registerWrite_live _ v (by omega) hr, writeReg_zero (by decide), ← ofNat_mod_two_pow, ← hlog]; rfl

/-- R7, R8, R243, R347, R352, R353, R357, R362: the registers of a front-end block, one by one. -/
theorem registerWritesTakeEffect : Claims.RegisterWritesTakeEffect := by
  intro s t v ht hr n base field writes asks tmig trel
  have live (off : Nat) : exec (.registerWrite t off v) s = .next (s.writeReg t off n) := exec_registerWrite_live off v ht hr
  have host : BitVec.ofNat 16 (bitsOf n 15 0) = .ofNat 16 n := by simpa [bitsOf] using ofNat_mod_two_pow 16 n
  refine ⟨live _, live _, live _, ?terp0, registerWrite_therm ht hr, fun h => ?_, fun i hi => registerWrite_dlk v ht hi hr, fun i hi => ⟨?_, ?_⟩⟩
  case terp0 =>
    rintro rfl
    have lrsw : exec (.lrswWrite v) s = .next (s.writeLrsw n) := by simp [exec_lrswWrite, execLrswWrite, hr]; rfl
    obtain ⟨hrevoke, hassign, hweight⟩ := hostRequest_asks s n
    have levreq := registerWrite_levreq v hr
    have pctl := registerWrite_pctl v hr
    refine ⟨live _, (live _).trans lrsw.symm, live _,
      ⟨fun h => levreq.trans (hrevoke h), fun h => levreq.trans (hassign h), fun h => levreq.trans (hweight h), fun h hb => ?_⟩,
      ⟨fun h => ?_, fun h => ?_, fun h => ?_, fun h => ?_, fun h => ?_, fun h hp => pctl.trans (by rw [pctlWrite_noOp h hp])⟩,
      fun h => (registerWrite_arbfloor v hr).trans (by rw [if_pos h]),
      fun h => (registerWrite_arbfloor v hr).trans (by rw [if_neg (Nat.not_le.2 h)]), registerWrite_ncons v hr,
      fun h => (registerWrite_nring v hr).trans (by rw [if_pos h]),
      fun h => (registerWrite_nring v hr).trans (by rw [if_neg (fun hne => hne h)])⟩
    · exact levreq.trans (by rw [levReqOf_malformed h, hostRequest_malformed hr hb])
    all_goals exact pctl.trans (congrArg (fun op => Host.Outcome.next (s.pctlWrite op (n % 16))) h)
  · exact (live _).trans (congrArg _ (writeTherm_ignored h))
  · exact (live _).trans (by rw [writeReg_paceM s t n hi, host])
  · exact (live _).trans (by rw [writeReg_paceC s t n hi, host])

end Sys2Proof.Proofs
end

section
/-! PROOFS. Package reset with an image, and the state after it (R19, R24). -/

namespace Sys2Proof.Machine

/-! Firmware (R24, R256). -/

/-- Bytes of a local memory are read where they were put, and nowhere else. -/
theorem get_localBytes (b : List Byte) (a i : Nat) (m : Map Byte) : Map.get 0 (localBytes a b m) i =
    if a ≤ i ∧ i < a + b.length then b.getD (i - a) 0 else Map.get 0 m i := by
  induction b generalizing a m with
  | nil => rw [localBytes, if_neg (by simp)]
  | cons x t ih =>
    rw [localBytes, ih]
    by_cases h : i = a
    · subst h; rw [if_neg (by omega), if_pos (by simp)]; simp
    · rw [Map.get_set_ne _ _ _ h]
      by_cases h2 : a + 1 ≤ i ∧ i < a + 1 + t.length
      · rw [if_pos h2, if_pos (by simp; omega), show i - a = (i - (a + 1)) + 1 by omega]; simp
      · rw [if_neg h2, if_neg (by simp; omega)]

/-- An entry of firmware names a byte of a processor's local memory. -/
def codeNames (n i : Nat) (e : Nat × Nat × List Byte) : Bool := decide (n < 32 ∧ e.1 = n ∧ e.2.1 ≤ i ∧ i < e.2.1 + e.2.2.length)

/-- Firmware changes nothing but the front-end processors. -/
theorem loadCode_rest (code : List (Nat × Nat × List Byte)) (s : State) : loadCode code s = { s with feps := (loadCode code s).feps } := by
  induction code generalizing s with
  | nil => rfl
  | cons e t ih =>
    rw [loadCode, ih]
    split <;> rfl

/-- Of one entry of firmware a processor takes its own bytes, into its local memory. -/
theorem fep_loadCode_cons (e : Nat × Nat × List Byte) (s : State) (n : Nat) :
    (if e.1 < 32 then s.updFep e.1 (fun f => { f with mem := localBytes e.2.1 e.2.2 f.mem }) else s).fep n =
      if n < 32 ∧ e.1 = n then { s.fep n with mem := localBytes e.2.1 e.2.2 (s.fep n).mem } else s.fep n := by
  by_cases h : e.1 = n
  · subst h; by_cases h2 : e.1 < 32 <;> simp [h2]
  · rw [if_neg (show ¬ (n < 32 ∧ e.1 = n) from fun hn => h hn.2)]
    split
    · exact fep_updFep_ne s (fun f => { f with mem := localBytes e.2.1 e.2.2 f.mem }) (Ne.symm h)
    · rfl

/-- Firmware changes nothing of a front-end processor but its local memory. -/
theorem fep_loadCode_rest (code : List (Nat × Nat × List Byte)) (s : State) (n : Nat) :
    (loadCode code s).fep n = { s.fep n with mem := ((loadCode code s).fep n).mem } := by
  induction code generalizing s with
  | nil => rfl
  | cons e t ih =>
    rw [loadCode, ih, fep_loadCode_cons]
    split <;> rfl

/-- A byte of a local memory is the one that the last entry of firmware to name it gives. -/
theorem get_mem_loadCode (code : List (Nat × Nat × List Byte)) (s : State) (n i : Nat) :
    Map.get 0 ((loadCode code s).fep n).mem i =
      (((code.filter (codeNames n i)).getLast?).map (fun e => e.2.2.getD (i - e.2.1) 0)).getD (Map.get 0 (s.fep n).mem i) := by
  induction code generalizing s with
  | nil => rfl
  | cons e t ih =>
    rw [loadCode, ih, fep_loadCode_cons]
    by_cases hn : n < 32 ∧ e.1 = n
    · rw [if_pos hn, get_localBytes]
      by_cases hi : e.2.1 ≤ i ∧ i < e.2.1 + e.2.2.length
      · have he : codeNames n i e = true := decide_eq_true ⟨hn.1, hn.2, hi⟩
        rw [if_pos hi, List.filter_cons_of_pos he, List.getLast?_cons]
        cases (t.filter (codeNames n i)).getLast? <;> rfl
      · have he : ¬ codeNames n i e = true := fun h => hi (of_decide_eq_true h).2.2
        rw [if_neg hi, List.filter_cons_of_neg he]
    · have he : ¬ codeNames n i e = true := fun h => hn ⟨(of_decide_eq_true h).1, (of_decide_eq_true h).2.1⟩
      rw [if_neg hn, List.filter_cons_of_neg he]

/-! The tier-2 ranges (R19, R324, notes/assumptions/116.md). -/

/-- A range that a configuration assigns to a port, within the window of tier 2. -/
def rangeNames (p : Nat) (e : Nat × Nat × Nat) : Bool :=
  decide (e.1 = p ∧ p < 12 ∧ 0x10000000000 ≤ e.2.1 ∧ e.2.1 + e.2.2 * 1048576 ≤ 0x30000000000)

/-- The port as a range assigns it. -/
def rangePort (e : Nat × Nat × Nat) : T2Port := { base := e.2.1, sizeMiB := e.2.2, up := decide (e.2.2 ≠ 0) }

/-- A range assigns the port that it names, or nothing. -/
theorem t2Range_eq (e : Nat × Nat × Nat) : t2Range e = if rangeNames e.1 e then some (e.1, rangePort e) else none := by
  simp [t2Range, rangeNames, rangePort]

theorem rangeNames_fst {p : Nat} {e : Nat × Nat × Nat} (h : rangeNames p e = true) : e.1 = p := (of_decide_eq_true h).1

/-- A port has the range that the last entry to name it gives. -/
theorem find_ranges (l : List (Nat × Nat × Nat)) (m : Map T2Port) (p : Nat) :
    Map.find ((l.filterMap t2Range).foldl (fun m e => Map.put m e.1 e.2) m) p =
      (((l.filter (rangeNames p)).getLast?).map rangePort).or (Map.find m p) := by
  induction l generalizing m with
  | nil => rfl
  | cons e t ih =>
    by_cases he : rangeNames e.1 e = true
    · rw [List.filterMap_cons_some ((t2Range_eq e).trans (if_pos he)), List.foldl_cons, ih]
      by_cases hp : e.1 = p
      · subst hp
        rw [List.filter_cons_of_pos he, List.getLast?_cons, Map.find_put_self]
        cases (t.filter (rangeNames e.1)).getLast? <;> rfl
      · rw [List.filter_cons_of_neg (fun h => hp (rangeNames_fst h)), Map.find_put_ne _ _ (Ne.symm hp)]
    · rw [List.filterMap_cons_none ((t2Range_eq e).trans (if_neg he)), ih, List.filter_cons_of_neg (fun h => he ?_)]
      rwa [rangeNames_fst h]

/-! Package reset (R24). -/

/-- What a package reset leaves, before any image is taken: the values of reset, but for the cells of the enclave, the flash and what
the model keeps for itself. -/
def State.packageFresh (s : State) : State :=
  { State.reset with agenda := s.agenda, fresh := s.fresh, nextId := s.nextId, hostMem := s.hostMem, hostUp := s.hostUp,
                     identity := s.identity, certificate := s.certificate }

/-- The images are good when every signature verifies and no counter is below the enclave's. -/
theorem imagesGood_iff (img : ConfigImage) :
    imagesGood img = true ↔ imageGood img.config = true ∧ ∀ f ∈ img.firmware, imageGood f = true := by
  simp [imagesGood]
theorem imageGood_iff (i : SignedImage) : imageGood i = true ↔
    Config.verify Config.rootKey i.signature (Config.digest 64 i.file) = true ∧ Config.rollback ≤ Config.imageCounter i.file := by
  simp [imageGood]

/-- With images that are refused the package stays in reset. -/
theorem packageReset_refused {s : State} {img : ConfigImage} (h : imagesGood img = false) :
    exec (.packageReset (some img)) s = .next { s.packageFresh with inReset := true } := by
  simp only [exec_packageReset, execPackageReset, h]; rfl

/-- With images that are taken it has their ranges and their firmware. -/
theorem packageReset_taken {s : State} {img : ConfigImage} (h : imagesGood img = true) :
    exec (.packageReset (some img)) s = .next (loadCode (img.firmware.flatMap (fun f => Config.imageCode f.file))
      { s.packageFresh with t2 := ((Config.imageRanges img.config.file).filterMap t2Range).foldl (fun m e => Map.put m e.1 e.2) [] }) := by
  simp only [exec_packageReset, execPackageReset, h]; rfl

end Sys2Proof.Machine

namespace Sys2Proof.Proofs

open Sys2Proof.Machine

/-- R24: the package takes images that verify, and stays in reset with any other. -/
theorem packageResetsTakeAnImage : Claims.PackageResetsTakeAnImage := by
  intro s img fresh good allGood ranges code
  have hgood : imagesGood img = true ↔ allGood :=
    (imagesGood_iff img).trans (and_congr (imageGood_iff _) (forall₂_congr fun f _ => imageGood_iff f))
  refine ⟨rfl, fun h => packageReset_refused (by simpa [← hgood] using h), fun h => ⟨_, packageReset_taken (hgood.2 h), ?_, ?_, ?_, ?_⟩⟩
  · rw [loadCode_rest]; rfl
  · exact fun n i => get_mem_loadCode code _ n i
  · exact fun n => fep_loadCode_rest code _ n
  · intro p
    rw [loadCode_rest]
    exact (find_ranges ranges [] p).trans (Option.or_none ..)

end Sys2Proof.Proofs
end

section
/-! PROOFS. The host's writes of memory, and the images it loads (R19, R53, R292, R309, R347, R365). -/

namespace Sys2Proof.Machine

/-! Plain memory: no doorbell page is set up and no line is poisoned. -/

/-- A write to plain memory is a write of its bytes. -/
theorem plainWrite_plain {s : State} (hq : s.qdbase = 0) (hp : s.poison = []) (a : Nat) (d : List Byte) :
    s.plainWrite a d = s.writeBytes a d := by
  have hbell : s.doorbellOf a = none := by simp [State.doorbellOf, hq]
  have hmark : s.poisoned a = false := by simp [State.poisoned, hp]
  have hclear : s.delPoison a = s := by rw [State.delPoison, hp, List.filter_nil, ← hp]
  rw [State.plainWrite, hbell]
  simp only [hclear, hmark, Bool.false_eq_true, if_false, ite_self]

/-- The memory island of an address is a terp's own. -/
theorem memoryIsland_ge {s : State} {a i : Nat} (h : s.memoryIsland a = some i) : 192 ≤ i := by
  unfold State.memoryIsland at h
  split at h
  · obtain rfl := Option.some.inj h; omega
  · obtain ⟨p, _, rfl⟩ := Option.map_eq_some_iff.1 h
    unfold linkIsland; omega

/-- What the host's access crosses belongs to terps, where no doorbell answers. -/
theorem pathTo_ge {s : State} (hq : s.qdbase = 0) {a i : Nat} (h : i ∈ s.pathTo 32 a) : 192 ≤ i := by
  have hbell : s.doorbellOf a = none := by simp [State.doorbellOf, hq]
  simp only [State.pathTo, State.servedBy, hbell] at h
  cases hm : s.memoryIsland a with
  | none => simp [hm] at h
  | some k =>
    simp only [hm, fabricBetween, Option.map_some, Nat.lt_irrefl, if_false, List.nil_append, List.mem_cons] at h
    obtain rfl | h := h
    · exact memoryIsland_ge hm
    · split at h
      · simp at h
      · obtain ⟨v, _, hv⟩ := List.mem_flatMap.1 h
        obtain ⟨j, _, rfl⟩ := List.mem_map.1 hv
        omega

/-- Where every memory island takes cycles, no access of the host is stopped. -/
theorem paStopped_of_nothingHeld {s : State} (hq : s.qdbase = 0) (h : Claims.nothingHeld s) (a : Nat) : s.paStopped 32 a = false := by
  have hon : ∀ i, 192 ≤ i → s.islandOn i = true := by
    intro i hi
    rcases Map.get_cases ({} : Island) s.islands i with hd | hl
    · have hd : s.island i = {} := hd
      simp [State.islandOn, hd]
    · exact h.2 _ hl hi
  simp only [State.paStopped, List.any_eq_false]
  intro i hi
  simp [hon i (pathTo_ge hq hi)]

/-! The arrivals held for an object (R298). -/

/-- To refuse an arrival changes the command, and the pusher's context or saved image. -/
theorem refuseArrival_rest (s : State) (id : Nat) :
    s.refuseArrival id = { s with cores := (s.refuseArrival id).cores, saved := (s.refuseArrival id).saved,
                                  cmds := (s.refuseArrival id).cmds } := by
  unfold State.refuseArrival
  split
  · rfl
  · unfold State.deliver State.updOid State.updCmd
    split <;> (dsimp only; split <;> rfl)

theorem refuseArrivals_rest (l : List Nat) (s : State) :
    l.foldl State.refuseArrival s = { s with cores := (l.foldl State.refuseArrival s).cores, saved := (l.foldl State.refuseArrival s).saved,
                                             cmds := (l.foldl State.refuseArrival s).cmds } := by
  induction l generalizing s with
  | nil => rfl
  | cons id t ih =>
    rw [List.foldl_cons, ih, refuseArrival_rest]

/-- Refusing the arrivals held for an object reaches no memory and no other object. -/
theorem refuseHeld_rest (s : State) (pa : Nat) :
    s.refuseHeld pa = { s with cores := (s.refuseHeld pa).cores, saved := (s.refuseHeld pa).saved, cmds := (s.refuseHeld pa).cmds,
                               objs := Map.put s.objs pa { s.obj pa with arrivals := [] } } := by
  have h := refuseArrivals_rest (s.obj pa).arrivals s
  unfold State.refuseHeld
  rw [h]; rfl

/-! A line from the host. -/

/-- The bytes that a host write puts at a range: those it names, but for the bytes that it may not change (R347). -/
def State.hostData (s : State) (a : Nat) (b : List Byte) : List Byte :=
  (b.zip (List.range b.length)).map (fun e => if s.hostFixed (a + e.2) then (s.readBytes (a + e.2) 1).headD 0 else e.1)

@[simp] theorem length_hostData (s : State) (a : Nat) (b : List Byte) : (s.hostData a b).length = b.length := by
  simp [State.hostData]

theorem getD_hostData (s : State) (a : Nat) (b : List Byte) {i : Nat} (h : i < b.length) :
    (s.hostData a b).getD i 0 = if s.hostFixed (a + i) then s.readByte (a + i) else b.getD i 0 := by
  simp [State.hostData, List.getD_eq_getElem?_getD, h]
  rfl

/-- What a write of the host does between two addresses: memory takes a value byte by byte and no other byte changes, an object whose
slot lies there is gone, and no core changes but by arrivals that were held. -/
structure State.HostStep (s t : State) (lo hi : Nat) (val : Nat → Byte) : Prop where
  qdbase : t.qdbase = s.qdbase
  poison : t.poison = s.poison
  ptbase : t.ptbase = s.ptbase
  inside : ∀ x, lo ≤ x → x < hi → t.readByte x = val x
  outside : ∀ x, x < lo ∨ hi ≤ x → t.readByte x = s.readByte x
  gone : ∀ x, lo ≤ x → x < hi → Map.find t.objs (lineOf x) = none
  stays : ∀ j, Map.find s.objs j = none → Map.find t.objs j = none
  unheld : (∀ a, (s.obj a).arrivals = []) → (∀ a, (t.obj a).arrivals = []) ∧ t.cores = s.cores

theorem State.HostStep.refl (s : State) (pa : Nat) (val : Nat → Byte) : s.HostStep s pa pa val where
  qdbase := rfl
  poison := rfl
  ptbase := rfl
  inside x h1 h2 := by omega
  outside _ _ := rfl
  gone x h1 h2 := by omega
  stays _ h := h
  unheld h := ⟨h, rfl⟩

/-- Two writes side by side are one. -/
theorem State.HostStep.trans {s t u : State} {lo mid hi : Nat} {val : Nat → Byte} (h1 : lo ≤ mid) (h2 : mid ≤ hi)
    (h : s.HostStep t lo mid val) (k : t.HostStep u mid hi val) : s.HostStep u lo hi val where
  qdbase := k.qdbase.trans h.qdbase
  poison := k.poison.trans h.poison
  ptbase := k.ptbase.trans h.ptbase
  inside x hl hh := by
    by_cases hx : x < mid
    · rw [k.outside x (.inl hx), h.inside x hl hx]
    · exact k.inside x (by omega) hh
  outside x hx := (k.outside x (by omega)).trans (h.outside x (by omega))
  gone x hl hh := by
    by_cases hx : x < mid
    · exact k.stays _ (h.gone x hl hx)
    · exact k.gone x (by omega) hh
  stays j hj := k.stays j (h.stays j hj)
  unheld hn := by
    obtain ⟨ht, hc⟩ := h.unheld hn
    obtain ⟨hu, hd⟩ := k.unheld ht
    exact ⟨hu, hd.trans hc⟩

/-- The values count only where they are written. -/
theorem State.HostStep.congr {s t : State} {lo hi : Nat} {val val' : Nat → Byte} (h : s.HostStep t lo hi val)
    (hv : ∀ x, lo ≤ x → x < hi → val x = val' x) : s.HostStep t lo hi val' :=
  { h with inside := fun x hl hh => (h.inside x hl hh).trans (hv x hl hh) }

/-- The state in which a line from the host is written: what was held for an object there is refused. -/
def State.lineCleared (s : State) (a : Nat) : State :=
  if (s.obj (lineOf a)).arrivals.isEmpty then s else s.refuseHeld (lineOf a)

theorem lineCleared_rest (s : State) (a : Nat) :
    s.lineCleared a = { s with cores := (s.lineCleared a).cores, saved := (s.lineCleared a).saved, cmds := (s.lineCleared a).cmds,
                               objs := (s.lineCleared a).objs } := by
  unfold State.lineCleared
  split
  · rfl
  · rw [refuseHeld_rest]

theorem lineCleared_unheld {s : State} {a : Nat} (h : (s.obj (lineOf a)).arrivals = []) : s.lineCleared a = s := by
  simp [State.lineCleared, h]

/-- The objects of other lines stand. -/
theorem find_lineCleared_ne (s : State) {a j : Nat} (h : j ≠ lineOf a) :
    Map.find (s.lineCleared a).objs j = Map.find s.objs j := by
  unfold State.lineCleared
  split
  · rfl
  · rw [refuseHeld_rest]; exact Map.find_put_ne _ _ h

theorem hostLine_eq {s : State} (hq : s.qdbase = 0) (hp : s.poison = []) (a : Nat) (b : List Byte) :
    s.hostLine a b = { (s.lineCleared a).writeBytes a (s.hostData a b) with objs := Map.del (s.lineCleared a).objs (lineOf a) } := by
  have h := lineCleared_rest s a
  have hq' : (s.lineCleared a).qdbase = 0 := by rw [h]; exact hq
  have hp' : (s.lineCleared a).poison = [] := by rw [h]; exact hp
  rw [← plainWrite_plain hq' hp']; rfl

/-- A write of the host within one line. -/
theorem hostLine_step {s : State} (hq : s.qdbase = 0) (hp : s.poison = []) {a : Nat} {b : List Byte}
    (hl : ∀ x, a ≤ x → x < a + b.length → lineOf x = lineOf a) :
    s.HostStep (s.hostLine a b) a (a + b.length) (fun x => if s.hostFixed x then s.readByte x else b.getD (x - a) 0) := by
  have hrest := lineCleared_rest s a
  have hmem : ∀ x, (s.lineCleared a).readByte x = s.readByte x := fun x => by rw [hrest]; rfl
  rw [hostLine_eq hq hp, writeBytes_eq]
  have hread : ∀ x, (((s.lineCleared a).writeBytes a (s.hostData a b)).readByte x) =
      if a ≤ x ∧ x < a + b.length then (s.hostData a b).getD (x - a) 0 else s.readByte x := fun x => by
    rw [readByte_writeBytes, length_hostData, hmem]
  exact {
    qdbase := by rw [hrest]
    poison := by rw [hrest]
    ptbase := by rw [hrest]
    inside := fun x h1 h2 => by
      refine (hread x).trans ?_
      rw [if_pos ⟨h1, h2⟩, getD_hostData s a b (by omega), show a + (x - a) = x by omega]
    outside := fun x hx => (hread x).trans (if_neg (by omega))
    gone := fun x h1 h2 => by rw [hl x h1 h2]; exact Map.find_del_self ..
    stays := fun j hj => by
      by_cases h : j = lineOf a
      · subst h; exact Map.find_del_self ..
      · exact (Map.find_del_ne _ h).trans ((find_lineCleared_ne s h).trans hj)
    unheld := fun hn => by
      rw [lineCleared_unheld (hn _)]
      refine ⟨fun j => ?_, rfl⟩
      by_cases h : j = lineOf a
      · subst h; exact congrArg ObjX.arrivals (Map.get_del_self ..)
      · exact (congrArg ObjX.arrivals (Map.get_del_ne _ _ h)).trans (hn j) }

/-! Writes that cross lines. -/

/-- However the bytes of a range themselves stand, all of them are such as no host write changes, or none is. -/
def State.FixedAs (s : State) (pa n : Nat) (fx : Bool) : Prop :=
  ∀ u : State, u.ptbase = s.ptbase → (∀ x, x < pa ∨ pa + n ≤ x → u.readByte x = s.readByte x) →
    ∀ x, pa ≤ x → x < pa + n → u.hostFixed x = fx

/-- A write of the host of bytes that it may change, all or none of them, at line after line. -/
theorem hostBytes_step (f : Nat) {s : State} {pa : Nat} {data : List Byte} {fx : Bool} (hq : s.qdbase = 0) (hp : s.poison = [])
    (hf : data.length ≤ 128 * f - pa % 128) (hfx : s.FixedAs pa data.length fx) :
    s.HostStep (hostBytes (cutLines f pa data.length) data s) pa (pa + data.length)
      (fun x => if fx then s.readByte x else data.getD (x - pa) 0) := by
  induction f generalizing s pa data with
  | zero =>
    obtain rfl : data = [] := List.eq_nil_of_length_eq_zero (by omega)
    exact .refl ..
  | succ f ih =>
    by_cases hn : data.length = 0
    · obtain rfl : data = [] := List.eq_nil_of_length_eq_zero hn
      exact .refl ..
    · rw [cutLines, if_neg hn]
      generalize hm : min data.length (128 - pa % 128) = m
      have hlen : (data.take m).length = m := by rw [List.length_take]; omega
      have hrest : data.length - m = (data.drop m).length := by simp
      have hline : ∀ x, pa ≤ x → x < pa + (data.take m).length → lineOf x = lineOf pa := by
        intro x h1 h2; unfold lineOf; omega
      have first := hostLine_step hq hp hline
      rw [hlen] at first
      have fixed := hfx s rfl (fun _ _ => rfl)
      have next := ih (s := s.hostLine pa (data.take m)) (pa := pa + m) (data := data.drop m) (first.qdbase.trans hq)
        (first.poison.trans hp) (by rw [← hrest]; omega) (fun u hu ho x h1 h2 => by
          rw [← hrest] at ho h2
          refine hfx u (hu.trans first.ptbase) (fun y hy => ?_) x (by omega) (by omega)
          rw [ho y (by omega), first.outside y (by omega)])
      rw [← hrest] at next
      show s.HostStep (hostBytes (cutLines f (pa + m) (data.length - m)) (data.drop m) (s.hostLine pa (data.take m))) _ _ _
      rw [show pa + m + (data.length - m) = pa + data.length by omega] at next
      refine State.HostStep.trans (mid := pa + m) (by omega) (by omega) (first.congr fun x h1 h2 => ?_) (next.congr fun x h1 h2 => ?_)
      · rw [fixed x h1 (by omega)]
        simp [List.getD_eq_getElem?_getD, show x - pa < m by omega]
      · rw [first.outside x (.inr h1)]
        simp [List.getD_eq_getElem?_getD, List.getElem?_drop, show m + (x - (pa + m)) = x - pa by omega]

/-- Bytes read one by one are the bytes of the range. -/
theorem readBytes_of_getD {t : State} {pa : Nat} {d : List Byte} (h : ∀ x, pa ≤ x → x < pa + d.length → t.readByte x = d.getD (x - pa) 0) :
    t.readBytes pa d.length = d := by
  refine (readBytes_congr (s := t.writeBytes pa d) fun x h1 h2 => ?_).trans (readBytes_writeBytes_self d t pa)
  rw [h x h1 h2, readByte_writeBytes, if_pos ⟨h1, h2⟩]

/-! HOST_MEMORY_WRITE. -/

theorem holeIn_none {s : State} {pa n : Nat} (h : ∀ a, pa ≤ a → a < pa + n → s.paOk a = true) : holeIn s pa n = none := by
  simp only [holeIn, List.find?_eq_none, List.mem_map, List.mem_range]
  rintro a ⟨i, hi, rfl⟩
  simp [h (pa + i) (by omega) (by omega)]

/-- The first address that does not exist. -/
theorem holeIn_some {s : State} {pa n a : Nat} (h1 : pa ≤ a) (h2 : a < pa + n) (hbad : s.paOk a = false)
    (h : ∀ x, pa ≤ x → x < pa + (a - pa) → s.paOk x = true) : holeIn s pa n = some a := by
  obtain ⟨i, rfl⟩ := Nat.exists_eq_add_of_le h1
  have hfind : (List.range n).find? ((fun a => !s.paOk a) ∘ (pa + ·)) = some i := by
    rw [List.find?_range_eq_some]
    refine ⟨by simp [hbad], List.mem_range.2 (by omega), fun j hj => ?_⟩
    simp [h (pa + j) (by omega) (by omega)]
  rw [holeIn, List.find?_map, hfind]; rfl

theorem hostMemoryWrite_bytes {s : State} {pa : Nat} {data : List Byte} (hr : s.inReset = false)
    (hex : ∀ a, pa ≤ a → a < pa + data.length → s.paOk a = true) :
    exec (.hostMemoryWrite (.bytes pa data)) s = .next
      (if (cutLines (data.length / 128 + 2) pa data.length).any (fun r => s.paStopped 32 r.1) then s
        else hostBytes (cutLines (data.length / 128 + 2) pa data.length) data s) := by
  simp only [exec_hostMemoryWrite, execHostMemoryWrite, holeIn_none hex, hr, Bool.false_or]

/-- Bytes of the host at addresses that exist, where nothing holds them. -/
theorem hostMemoryWrite_step {s : State} {pa : Nat} {data : List Byte} {fx : Bool} (hr : s.inReset = false)
    (hex : ∀ a, pa ≤ a → a < pa + data.length → s.paOk a = true) (hq : s.qdbase = 0) (hp : s.poison = [])
    (hh : Claims.nothingHeld s) (hfx : s.FixedAs pa data.length fx) :
    Claims.happens s (.hostMemoryWrite (.bytes pa data)) (fun t => s.HostStep t pa (pa + data.length)
      (fun x => if fx then s.readByte x else data.getD (x - pa) 0)) := by
  have hgo : (cutLines (data.length / 128 + 2) pa data.length).any (fun r => s.paStopped 32 r.1) = false := by
    simp [paStopped_of_nothingHeld hq hh]
  refine ⟨_, (hostMemoryWrite_bytes hr hex).trans (by rw [hgo]; rfl), hostBytes_step _ hq hp (by omega) hfx⟩

/-- Frames fit a polder's list where every one of them is whole, exists and is of the list's tier (R309). -/
def framesFit (s : State) (p : Nat) (tier2 : Bool) (l : List Nat) : Prop :=
  p < 16 ∧ ∀ f ∈ l, f % 65536 = 0 ∧ s.paOk f = true ∧ (inDram f = true ↔ tier2 = false)

/-- The condition on frames as the step tests it. -/
theorem framesFit_iff (s : State) (p : Nat) (tier2 : Bool) (l : List Nat) (hr : s.inReset = false) :
    (p < 16 && !s.inReset && l.all (fun f => decide (f % 65536 = 0) && s.paOk f && decide (inDram f = !tier2))) = true ↔
      framesFit s p tier2 l := by
  have htier (f : Nat) : inDram f = (!tier2) ↔ (inDram f = true ↔ tier2 = false) := by
    cases inDram f <;> cases tier2 <;> simp
  simp only [framesFit, hr, Bool.not_false, Bool.and_true, Bool.and_eq_true, decide_eq_true_eq, List.all_eq_true, htier, and_assoc]

/-- Frames that fit join the list, but for those that stand on it. -/
theorem hostMemoryWrite_frames {s : State} {p : Nat} {tier2 : Bool} {l : List Nat} (hr : s.inReset = false)
    (h : framesFit s p tier2 l) : exec (.hostMemoryWrite (.frames p tier2 l)) s = .next
      { s with frames := Map.upd [] s.frames (frameList p tier2) (fun old => old ++ l.filter (fun f => !old.contains f)) } :=
  congrArg _ (if_pos ((framesFit_iff s p tier2 l hr).2 h))

/-- Frames that do not fit are not taken. -/
theorem hostMemoryWrite_noFrames {s : State} {p : Nat} {tier2 : Bool} {l : List Nat} (hr : s.inReset = false)
    (h : ¬ framesFit s p tier2 l) : exec (.hostMemoryWrite (.frames p tier2 l)) s = .next s :=
  congrArg _ (if_neg (fun hf => h ((framesFit_iff s p tier2 l hr).1 hf)))

/-- What a write of bytes that the host may change has done. -/
theorem State.HostStep.wrote {s t : State} {pa : Nat} {d : List Byte}
    (h : s.HostStep t pa (pa + d.length) (fun x => if false then s.readByte x else d.getD (x - pa) 0)) : Claims.wrote s t pa d :=
  ⟨readBytes_of_getD h.inside, h.outside⟩

/-- A write of bytes that no host write changes leaves memory as it is. -/
theorem State.HostStep.sameMemory {s t : State} {lo hi : Nat} {val : Nat → Byte}
    (h : s.HostStep t lo hi (fun x => if true then s.readByte x else val x)) : Claims.sameMemory s t := by
  intro x
  by_cases hx : lo ≤ x ∧ x < hi
  · exact h.inside x hx.1 hx.2
  · exact h.outside x (by omega)

/-- Apart from the polder table the host may change every byte. -/
theorem fixedAs_apart {s : State} {pa n : Nat} (h : pa + n ≤ s.ptbase.toNat ∨ s.ptbase.toNat + 4096 ≤ pa) : s.FixedAs pa n false := by
  intro u hu _ x h1 h2
  have hx : ¬ (s.ptbase.toNat ≤ x ∧ x - s.ptbase.toNat < 4096) := by omega
  simp only [State.hostFixed, hu]
  by_cases ha : s.ptbase.toNat ≤ x
  · simp [show ¬ x - s.ptbase.toNat < 4096 from fun hb => hx ⟨ha, hb⟩]
  · simp [ha]

/-- ZCNT of a polder's entry is the device's (R347). -/
theorem fixedAs_zcnt {s : State} {pa n p : Nat} (hp : p < 16) (h1 : s.ptbase.toNat + 256 * p + 48 ≤ pa)
    (h2 : pa + n ≤ s.ptbase.toNat + 256 * p + 56) : s.FixedAs pa n true := by
  intro u hu _ x hx1 hx2
  have h3 : s.ptbase.toNat ≤ x ∧ x - s.ptbase.toNat < 4096 ∧ 48 ≤ (x - s.ptbase.toNat) % 256 ∧ (x - s.ptbase.toNat) % 256 < 56 := by
    omega
  simp [State.hostFixed, hu, h3]

/-- The weights of a polder that is not OFF are fixed (R347). -/
theorem fixedAs_weights {s : State} {pa n p : Nat} (hp : p < 16) (hst : s.polderSt p ≠ 0)
    (h1 : s.ptbase.toNat + 256 * p + 8 ≤ pa) (h2 : pa + n ≤ s.ptbase.toNat + 256 * p + 12) : s.FixedAs pa n true := by
  intro u hu ho x hx1 hx2
  have h3 : s.ptbase.toNat ≤ x ∧ x - s.ptbase.toNat < 4096 ∧ 8 ≤ (x - s.ptbase.toNat) % 256 ∧ (x - s.ptbase.toNat) % 256 < 12 ∧
      (x - s.ptbase.toNat) / 256 = p := by omega
  have hst' : u.polderSt p = s.polderSt p := by
    unfold State.polderSt State.ptField State.ptAddr State.readLE
    rw [hu, readBytes_congr (s := s) (fun a ha1 ha2 => ho a (by omega))]
  simp [State.hostFixed, hu, h3, hst', hst]

end Sys2Proof.Machine

namespace Sys2Proof.Proofs

open Sys2Proof.Machine

/-- R19, R309, R347, R365: what the host writes to memory, and the frames it puts on a list. -/
theorem hostWritesReachMemory : Claims.HostWritesReachMemory := by
  intro s pa p data tier2 l hr exists_ plain table framed
  refine ⟨fun hex hpl => ?bytes, fun a h1 h2 hbad hex => ?hole, fun hex hne hst => ?stopped, fun hfr => ?frames, fun hfr => ?noFrames⟩
  case bytes =>
    obtain ⟨hq, hp, hh⟩ := hpl
    refine ⟨fun hapart => ?_, fun hp16 h1 h2 => ?_, fun hp16 hst h1 h2 => ?_⟩
    · obtain ⟨t, ht, step⟩ := hostMemoryWrite_step hr hex hq hp hh (fixedAs_apart hapart)
      exact ⟨t, ht, step.wrote, fun hn => (step.unheld hn).2, step.gone⟩
    · obtain ⟨t, ht, step⟩ := hostMemoryWrite_step hr hex hq hp hh (fixedAs_zcnt hp16 h1 h2)
      exact ⟨t, ht, step.sameMemory⟩
    · obtain ⟨t, ht, step⟩ := hostMemoryWrite_step hr hex hq hp hh (fixedAs_weights hp16 hst h1 h2)
      exact ⟨t, ht, step.sameMemory⟩
  case hole => simp [exec_hostMemoryWrite, execHostMemoryWrite, holeIn_some h1 h2 hbad hex]
  case stopped =>
    have hlen : data.length ≠ 0 := fun h => hne (List.eq_nil_of_length_eq_zero h)
    have hstop : (cutLines (data.length / 128 + 2) pa data.length).any (fun r => s.paStopped 32 r.1) = true := by
      rw [cutLines, if_neg hlen]; simp [hst]
    rw [hostMemoryWrite_bytes hr hex, hstop]; rfl
  case frames =>
    refine ⟨_, hostMemoryWrite_frames hr hfr, Map.get_put_self .., fun j hj => ?_, fun _ => rfl⟩
    exact Map.get_put_ne _ _ _ hj
  case noFrames => exact hostMemoryWrite_noFrames hr hfr

end Sys2Proof.Proofs

namespace Sys2Proof.Machine

/-! IMAGE_LOAD. -/

/-- An image of the polder is signed as R53 asks: a signature that it has verifies and, where the polder asks for one, is under an
enrolled key; and where the polder asks for one it has one. -/
def signedFor (s : State) (p : Nat) (img : ImageFile) : Prop :=
  let required : Prop := (s.ptField p 1 1).testBit 0 = true
  (∀ key sig, sigOf img.file = some (key, sig) →
    Config.verify key sig (messageOf img.file) = true ∧ (required → enrolled s p key = true)) ∧ (required → sigOf img.file ≠ none)

theorem loadVerdict_malformed (s : State) (p : Nat) {img : ImageFile} (h : wellFormed img.file = false) : loadVerdict s p img = 3 := by
  simp [loadVerdict, h]

/-- A well-formed image passes the check of its signature or ends in SIGFAIL. -/
theorem loadVerdict_wellFormed (s : State) (p : Nat) {img : ImageFile} (h : wellFormed img.file = true) :
    (signedFor s p img → loadVerdict s p img = 1) ∧ (¬ signedFor s p img → loadVerdict s p img = 2) := by
  unfold signedFor loadVerdict
  rcases hsig : sigOf img.file with _ | ⟨key, sig⟩
  · cases hreq : (s.ptField p 1 1).testBit 0 <;> simp [h]
  · cases hreq : (s.ptField p 1 1).testBit 0 <;> cases hver : Config.verify key sig (messageOf img.file) <;>
      cases henr : enrolled s p key <;> simp [h, hver, henr]

/-- An image that does not pass the check of its file leaves nothing but its verdict. -/
theorem imageLoad_refused {s : State} {p : Nat} {img : ImageFile} (hp : p < 16) (hr : s.inReset = false) {v : Nat}
    (hv : loadVerdict s p img = v) (h1 : v ≠ 1) : exec (.imageLoad p img) s = .next { s with loadEnd := v } := by
  simp only [exec_imageLoad, execImageLoad, hr, hv, Nat.not_le.2 hp, decide_false, Bool.false_or, Bool.false_eq_true, if_false]
  split
  · exact absurd rfl h1
  · exact absurd rfl h1
  · rfl

/-- One whose relocations do not hold is malformed. -/
theorem imageLoad_unrelocated {s : State} {p : Nat} {img : ImageFile} (hp : p < 16) (hr : s.inReset = false)
    (hv : loadVerdict s p img = 1) (hl : loaded img img.maps = none) :
    exec (.imageLoad p img) s = .next { s with loadEnd := 3 } := by
  simp [exec_imageLoad, execImageLoad, hr, hv, hl, Nat.not_le.2 hp]

/-- One that passes is placed, with the slot images of its objects. -/
theorem imageLoad_placed {s : State} {p : Nat} {img : ImageFile} (hp : p < 16) (hr : s.inReset = false)
    (hv : loadVerdict s p img = 1) {l : List (Nat × List Byte)} (hl : loaded img img.maps = some l) :
    exec (.imageLoad p img) s = .next { placeImage p (l ++ objectsOf img) s with loadEnd := 1 } := by
  simp [exec_imageLoad, execImageLoad, hr, hv, hl, Nat.not_le.2 hp]

/-- The front end's translation keeps the place within a line (R304, R307). -/
theorem feAddr_place {s : State} {p va pa : Nat} (h : s.feAddr p va = some pa) : pa % 128 = va % 128 := by
  have hleaf (l : Nat) : leafPa l va % 128 = va % 128 := by
    unfold leafPa; split <;> omega
  unfold State.feAddr at h
  split at h
  · dsimp only at h
    split at h
    · obtain rfl := Option.some.inj h; exact hleaf _
    · simp at h
  · simp at h

/-- The contents of a range within one line, where the host runtime has mapped it. -/
theorem placeImage_line {s : State} {p va pa : Nat} {b : List Byte} (hne : b ≠ []) (hl : va % 128 + b.length ≤ 128)
    (ha : s.feAddr p va = some pa) : placeImage p [(va, b)] s = s.hostLine pa b := by
  have hlen : b.length ≠ 0 := fun h => hne (List.eq_nil_of_length_eq_zero h)
  have hcut : cutLines (b.length / 128 + 2) va b.length = [(va, b.length)] := by
    have hone : min b.length (128 - va % 128) = b.length := by omega
    simp [cutLines, hlen, hone]
  simp [placeImage, placeBytes, hcut, ha]

end Sys2Proof.Machine

namespace Sys2Proof.Proofs

open Sys2Proof.Machine

/-- R53, R292: the checks of an image, and what is placed of one that passes them. -/
theorem imagesAreVerifiedAndPlaced : Claims.ImagesAreVerifiedAndPlaced := by
  intro s p img hp hr required verified signed relocated ends
  have passed (hw : wellFormed img.file = true) (hs : signed) : loadVerdict s p img = 1 := (loadVerdict_wellFormed s p hw).1 hs
  refine ⟨fun hw => imageLoad_refused hp hr (loadVerdict_malformed s p hw) (by decide),
    fun hw hs => imageLoad_refused hp hr ((loadVerdict_wellFormed s p hw).2 hs) (by decide),
    fun hw hs hl => imageLoad_unrelocated hp hr (passed hw hs) hl, fun hw hs va b pa hl ho hne hline ha hq hpo hapart => ?_⟩
  have load := imageLoad_placed hp hr (passed hw hs) hl
  rw [ho, List.append_nil, placeImage_line hne hline ha] at load
  have hplace := feAddr_place ha
  have step := (hostLine_step (b := b) hq hpo fun x h1 h2 => show lineOf x = lineOf pa by unfold lineOf; omega).congr
    fun x h1 h2 => show _ = b.getD (x - pa) 0 by rw [fixedAs_apart hapart s rfl (fun _ _ => rfl) x h1 h2]; rfl
  exact ⟨_, load, ⟨readBytes_of_getD step.inside, step.outside⟩, rfl, fun hn => (step.unheld hn).2⟩

end Sys2Proof.Proofs
end

section
namespace Sys2Proof.Proofs

/-- Settles O59, from its four parts: registers, package reset, memory and images. -/
theorem theHostWritesThePackage : Obligations.TheHostWritesThePackage :=
  ⟨registerWritesTakeEffect, packageResetsTakeAnImage, hostWritesReachMemory, imagesAreVerifiedAndPlaced⟩

end Sys2Proof.Proofs
end

section
/-! PROOFS. The state after reset (R9, R128, R351, R353, R357, R362). -/

namespace Sys2Proof.Machine

@[simp] theorem reset_ctx (k : Nat) (b : Bool) : State.reset.ctx k b = {} := by cases b <;> rfl

@[simp] theorem fresh_seq (st : Stream) : ({} : Ctx).seq st = {} := by cases st <;> rfl
@[simp] theorem fresh_get (r : XReg) : ({} : Seq).get r = 0 := ite_self _

end Sys2Proof.Machine

namespace Sys2Proof.Proofs

open Sys2Proof.Machine

/-- Settles O26: every part of the state is fresh at reset, and a fresh part holds the values that the spec states. -/
theorem resetHoldsTheStatedValues : Obligations.ResetHoldsTheStatedValues := by
  unfold Obligations.ResetHoldsTheStatedValues
  intro s
  have ctx (k : Nat) (b : Bool) : s.ctx k b = {} := reset_ctx k b
  refine ⟨fun t => ?terps, rfl, rfl, rfl, rfl, rfl, rfl, rfl, rfl, rfl, rfl, rfl, fun i => ?islands, fun c => ⟨rfl, rfl⟩,
    fun d => ⟨rfl, rfl⟩, fun o => rfl, fun r => rfl, fun n => rfl, fun k => ⟨rfl, rfl⟩, fun k b => ?contexts, fun k n => rfl⟩
  case terps => exact ⟨rfl, rfl, rfl, rfl, rfl, rfl, rfl⟩
  case islands => exact ⟨rfl, rfl, rfl, rfl, rfl, rfl, rfl, rfl, rfl⟩
  case contexts =>
    rw [ctx k b]
    exact ⟨rfl, rfl, rfl, rfl, fun st r => by rw [fresh_seq, fresh_get]⟩

/-- Settles O27: no byte is listed at reset. -/
theorem resetMeetsTheInvariant : Obligations.ResetMeetsTheInvariant := inv_reset

end Sys2Proof.Proofs
end
